-- ==== Sys2Proof/Word.lean ====
section
/-!
DEFINITION. Word: the word types and their plainest arithmetic. Multi-byte values are little-endian (spec/00 R5);
integer operations wrap modulo the width (spec/08 R246), which is what BitVec arithmetic does.
-/

namespace Sys2Proof

/-- A byte of memory. -/
abbrev Byte := BitVec 8
/-- A 32-bit word: a vector register lane, a bundle word (R201, R211). -/
abbrev W32 := BitVec 32
/-- A 64-bit word: a scalar register, an operand port, a result port (R200, R201). -/
abbrev W64 := BitVec 64
/-- A lane mask: bit l belongs to lane l (R174). -/
abbrev Mask := BitVec 64

end Sys2Proof
end

