-- ==== Sys2Proof/Config.lean ====
section
/-!
DEFINITION. Config: what the manual fixes once for the part, and the free values it leaves open. A free value is an
opaque constant with no body: nothing can evaluate it, so a statement about it holds whatever it is. Numbers in
parentheses name the log entries under notes/assumptions.
-/

namespace Sys2Proof.Config

/-- Compute dies of the module (R1). -/
def numDies : Nat := 4
/-- Cores of one cluster, 4 rows of 6 (R1). -/
def coresPerDie : Nat := 24
/-- Issue slots of a core (R4). -/
def slotsPerCore : Nat := 4
/-- Group entries of an issue slot (R187). -/
def entriesPerSlot : Nat := 16
/-- Register rows of an issue slot (R4). -/
def rowsPerSlot : Nat := 1024
/-- L2 slices, and so home slices, of one die (R1, R59). -/
def slicesPerDie : Nat := 48
/-- Scratchpad bytes of a core (R4). -/
def scratchBytes : Nat := 3145728
/-- Contexts (R11). -/
def numContexts : Nat := 128
/-- Streams (R175). -/
def numStreams : Nat := 256
/-- First offset of the hardware reserve in local device memory (R67). -/
def reserveBase : Nat := 0xFC00000000
/-- Local device memory bytes (R35). -/
def localBytes : Nat := 0x10000000000
/-- Replica and overlay frames of 64 KiB in one die's reserve of 4 GiB (R67). -/
def reserveFramesPerDie : Nat := 65536

/-- FREE VALUE (log 2): ns that pass before the n-th sampling of the global time (R349, R394 TIME, R420): the time
never steps backward, so a sample adds a natural number. -/
opaque freeElapsed : Nat → Nat

/-- FREE VALUE (log 2): the n-th free choice between a stale code line and the line as memory holds it, when code was
changed without the invalidation of R355 (R58). -/
opaque freeChoice : Nat → Bool

/-- FREE VALUE (log 2): the n-th free choice of one of several moments at which a code line may have been filled (R58). -/
opaque freePick : Nat → Nat

/-- FREE VALUE (log 63): the flag am.rb shows for a lane of an am.r entry that was popped, by a move that does not apply to the
lane, before the lane has landed (R206). -/
opaque freeFlag : (id lane : Nat) → Bool

/-- FREE VALUE (log 29): what loads and stores of a context whose execution contains a data race carry, and where its writes may
strike (R94). -/
opaque freeRace : Nat → BitVec 64

/-- Is a set of a slice a leader set of an access class: 1 static, 2 bimodal, 0 no leader. Every 64th set is a leader of one
kind: 16 static and 16 bimodal ones for each of the four classes, 128 in all (R63). R63 gives their number and not which they are:
that those of a class begin at set 8 times the class is the model's choice (log 61). -/
def leaderSet (cls set : Nat) : Nat :=
  if set % 64 == 8 * cls then 1 else if set % 64 == 8 * cls + 4 then 2 else 0

/-- A cipher over 128-byte data units: what is encrypted decrypts to itself (R423). -/
structure Cipher where
  enc : BitVec 1024 → BitVec 1024 := fun x => x
  dec : BitVec 1024 → BitVec 1024 := fun x => x
  dec_enc : ∀ x, dec (enc x) = x := by intro x; rfl
  deriving Inhabited

/-- FREE VALUE (log 7): AES-256-XTS under key generation k for data unit u, tweaked by its address (R423). -/
opaque cipher : (k u : Nat) → Cipher

/-- FREE VALUE (log 30): cluster barriers a cluster has beyond the 32 that one gang may ask for (R189 names the free ones,
no rule says how many there are). -/
opaque freeClusterBars : Nat

/-- FREE VALUE (log 19): the word at an offset of the n-th saved image where the manual names what a section holds and not how
it is laid out (R403, R406). -/
opaque imageWord : (n off : Nat) → BitVec 64

/-- FREE VALUE (log 36): OFFSET of the record of an uncorrectable error in an accumulator element, which has none, for the n-th command
(R386, R387). -/
opaque freeOffset : (n : Nat) → Int

/-- FREE VALUE (log 8): the SHA-384 digest of a byte string, as a number (R421, R422, R424). -/
opaque sha384 : List (BitVec 8) → Nat

/-- FREE VALUE (log 8): does a firmware image's ECDSA signature check against the fused key (R421)? -/
opaque imageSigOk : List (BitVec 8) → Bool

/-- FREE VALUE (log 8): the version that a firmware image carries (R421). -/
opaque imageVersion : List (BitVec 8) → Nat

/-- FREE VALUE (log 8): the ECDSA signature of a digest with the identity key (R422, R424). -/
opaque sign : Nat → Nat

end Sys2Proof.Config
end

