-- ==== Sys2Proof/Syntax.lean ====
section
/-!
DEFINITION. Syntax: the instructions. One constructor per row of spec/opcode_table.json. The rows with an encoding are
the destinations a move word can name (R213, R225 to R240): a row's constructor carries the move word's other fields.
The rows without an encoding are the device's own steps (spec/95): a constructor names the step and what it concerns.
-/

namespace Sys2Proof

/-- The fields of a move word beside its destination (R213), named as spec/opcode_table.json names them. -/
structure Mv where
  /-- G: guarded move. -/
  g : Bool
  /-- GUARD: k1 to k7, or 000 for the guard word. -/
  k : BitVec 3
  /-- N: negate the guard. -/
  n : Bool
  /-- H: hold. -/
  h : Bool
  /-- E: empty-read action. -/
  e : Bool
  /-- SRC (R214). -/
  s : BitVec 13
  deriving DecidableEq, Repr

/-- A group: its workgroup's number in the model's list and its index within the workgroup. -/
structure GRef where
  wg : Nat
  gi : Nat
  deriving DecidableEq, Repr

/-- A core: compute die and core number c = 6 × row + column (R16). -/
structure CoreId where
  die : Nat
  core : Nat
  deriving DecidableEq, Repr

/-- An L2 slice of a die (R59). -/
structure SliceId where
  die : Nat
  slice : Nat
  deriving DecidableEq, Repr

/-- A home: the slices of one compute die of one device (R154). -/
structure HomeId where
  device : Nat
  die : Nat
  deriving DecidableEq, Repr

/-- A covered operation: requester identity and serial (R142, R145). -/
structure OpRef where
  ident : Nat
  serial : Nat
  deriving DecidableEq, Repr

/-- The result ports that a variable-latency result can land in (R206). -/
inductive RPort where
  | ld | am | q0 | cp | mx | xe
  deriving DecidableEq, Repr

/-- The engine queue an access stands in (R210). -/
inductive QSel where
  | ld | st | am
  deriving DecidableEq, Repr

/-- Who receives a drop command (R144). -/
inductive DropTarget where
  | slice (s : SliceId)
  | peer (p : Nat)
  /-- the homes of this device, for a context of a peer -/
  | fromPeer (p : Nat)
  deriving DecidableEq, Repr

/-- The register blocks of BAR0 (R425). -/
inductive RegBlock where
  | ident | ctx | txn | stream | cmd | ring | route | xport | vf
  deriving DecidableEq, Repr

/-- A firmware image as the ROM sees it (R421): whether its ECDSA signature verifies, its version, its bytes. -/
structure FwImage where
  sigOk : Bool
  version : Nat
  bytes : List Byte
  deriving DecidableEq, Repr

/-- What the check of a saved image finds (R402). -/
inductive RestoreCheck where
  | ok | ue | seal
  deriving DecidableEq, Repr

/-- The imprecise store faults of R303. -/
inductive StoreError where
  | peerRefused | hostError | mergeUe
  deriving DecidableEq, Repr

/-- The masters that can be frozen (R413). -/
inductive Master where
  | vf (n : Nat)
  | peer (n : Nat)
  | copyEngine (c : CoreId)
  | slot (c : CoreId) (n : Nat)
  deriving DecidableEq, Repr

/-- An atomic operation of a peer or of the host, of 4 or 8 bytes (R414, R418). -/
inductive AtomOp where
  | swap | cas | add | band | bor | bxor | min | max | fadd
  deriving DecidableEq, Repr

/-- A reduction of a peer (R306, R419). -/
inductive RedOp where
  | radd | rfadd | rmax
  deriving DecidableEq, Repr

/-- A counter operation of a peer (R162). -/
inductive CtrOp where
  | acinit | actake | acgive | acread | acpeek | acfree
  deriving DecidableEq, Repr

/-- What an access from outside the device does. -/
inductive ExtKind where
  | read (len : Nat)
  | write (bytes : List Byte)
  | atomic (op : AtomOp) (wide : Bool) (t b : W64)
  /-- the 128-bit compare-and-swap of PCI Express AtomicOps (R414): new value, expected value -/
  | cas128 (tLo tHi bLo bHi : W64)
  | reduce (op : RedOp) (wide : Bool) (t : W64)
  | counter (op : CtrOp) (t b : W64)
  deriving DecidableEq, Repr

/-- An access from outside the device: an address and what is done there. -/
structure ExtAccess where
  addr : Nat
  kind : ExtKind
  deriving DecidableEq, Repr

/-- What a covered request of a peer carries: identity with its reserved bits, serial, watermark, incarnation stamp, predecessor
(R142, R145 to R149). -/
structure CovHead where
  ident : Nat
  serial : Nat
  wm : Nat
  stamp : Nat
  pred : Option Nat
  deriving DecidableEq, Repr

/-- A message of a peer: an access, a posted write of it with its sequence number (R417); a covered operation (R139, R419); or a
watermark-only notice to a home slice (R151). -/
inductive PeerMsg where
  | access (seq : Option Nat) (a : ExtAccess)
  | covered (h : CovHead) (a : ExtAccess)
  | notice (ident wm : Nat) (home : SliceId)
  deriving DecidableEq, Repr

/-- An access of the host through a virtual function (R415): in its aperture, or of a register. -/
inductive VfAccess where
  | aperture (a : ExtAccess)
  | regRead (block : RegBlock) (index word : Nat)
  | regWrite (block : RegBlock) (index word : Nat) (v : W64)
  deriving DecidableEq, Repr

/-- What an attestation is asked for beside the device's own state (R422): the driver's nonce, and the code objects whose hashes it
carries. -/
structure AttestReq where
  nonce : Nat
  codes : List W64
  deriving DecidableEq, Repr

/-- A path that fails over (R141, R417): a port of Onaholt Link, or a path of the die-to-die mesh. -/
inductive FailPath where
  | port (n : Nat)
  | mesh
  deriving DecidableEq, Repr

/-- The instructions and steps, one constructor per row of spec/opcode_table.json. -/
inductive Instr where
  /-- MOVE_VECTOR (R204): A move writes a source value into a vector register or pair in the lanes where it applies. -/
  | moveVector (v : BitVec 1) (r : BitVec 7) (m : Mv)
  /-- MOVE_SCALAR_GUARD (R204): A move writes a scalar register or a guard register (k1 to k15) from a source. -/
  | moveScalarGuard (r : BitVec 7) (m : Mv)
  /-- MOVE_OPERAND (R203): A move writes an operand port a to d of a unit in the lanes where it applies. -/
  | moveOperand (u : BitVec 5) (p : BitVec 2) (m : Mv)
  /-- A_ADD (R270): 32-bit wrapping add of A and T. -/
  | aAdd (u : BitVec 1) (m : Mv)
  /-- A_SUB (R270): 32-bit wrapping subtract. -/
  | aSub (u : BitVec 1) (m : Mv)
  /-- A_ADDC (R270): Add with carry in from B[0], carry out to rb. -/
  | aAddc (u : BitVec 1) (m : Mv)
  /-- A_SUBB (R270): Subtract with borrow in from B[0], borrow out to rb. -/
  | aSubb (u : BitVec 1) (m : Mv)
  /-- A_ADDS (R270): Signed saturating add. -/
  | aAdds (u : BitVec 1) (m : Mv)
  /-- A_SUBS (R270): Signed saturating subtract. -/
  | aSubs (u : BitVec 1) (m : Mv)
  /-- A_ADDSN (R270): Unsigned saturating add. -/
  | aAddsn (u : BitVec 1) (m : Mv)
  /-- A_SUBSN (R270): Unsigned saturating subtract. -/
  | aSubsn (u : BitVec 1) (m : Mv)
  /-- A_AND (R271): Bitwise and. -/
  | aAnd (u : BitVec 1) (m : Mv)
  /-- A_OR (R271): Bitwise or. -/
  | aOr (u : BitVec 1) (m : Mv)
  /-- A_XOR (R271): Bitwise xor. -/
  | aXor (u : BitVec 1) (m : Mv)
  /-- A_ANDN (R271): A and not T. -/
  | aAndn (u : BitVec 1) (m : Mv)
  /-- A_SHL (R271): Logical shift left. -/
  | aShl (u : BitVec 1) (m : Mv)
  /-- A_SHR (R271): Logical shift right. -/
  | aShr (u : BitVec 1) (m : Mv)
  /-- A_SAR (R271): Arithmetic shift right. -/
  | aSar (u : BitVec 1) (m : Mv)
  /-- A_ROL (R271): Rotate left. -/
  | aRol (u : BitVec 1) (m : Mv)
  /-- A_MIN (R271): Signed minimum. -/
  | aMin (u : BitVec 1) (m : Mv)
  /-- A_MAX (R271): Signed maximum. -/
  | aMax (u : BitVec 1) (m : Mv)
  /-- A_MINN (R271): Unsigned minimum. -/
  | aMinn (u : BitVec 1) (m : Mv)
  /-- A_MAXN (R271): Unsigned maximum. -/
  | aMaxn (u : BitVec 1) (m : Mv)
  /-- A_ABS (R272): Integer absolute value of T. -/
  | aAbs (u : BitVec 1) (m : Mv)
  /-- A_NEG (R272): Integer negation of T. -/
  | aNeg (u : BitVec 1) (m : Mv)
  /-- A_CLZ (R272): Count leading zeros of T. -/
  | aClz (u : BitVec 1) (m : Mv)
  /-- A_POPC (R272): Population count of T. -/
  | aPopc (u : BitVec 1) (m : Mv)
  /-- A_BREV (R272): Bit reverse of T. -/
  | aBrev (u : BitVec 1) (m : Mv)
  /-- A_SEL (R273): Select A or B by T. -/
  | aSel (u : BitVec 1) (m : Mv)
  /-- A_BEXT (R273): Bit-field extract, optionally sign-extended. -/
  | aBext (u : BitVec 1) (m : Mv)
  /-- A_BINS (R273): Bit-field insert. -/
  | aBins (u : BitVec 1) (m : Mv)
  /-- A_ADD64 (R270): 64-bit wrapping add. -/
  | aAdd64 (u : BitVec 1) (m : Mv)
  /-- A_SUB64 (R270): 64-bit wrapping subtract. -/
  | aSub64 (u : BitVec 1) (m : Mv)
  /-- A_PASS (R270): Pass T to r. -/
  | aPass (u : BitVec 1) (m : Mv)
  /-- M0_MUL (R274): 32-bit multiply, low half. -/
  | m0Mul (m : Mv)
  /-- M0_MULHI (R274): Signed multiply high half. -/
  | m0Mulhi (m : Mv)
  /-- M0_MULHIN (R274): Unsigned multiply high half. -/
  | m0Mulhin (m : Mv)
  /-- M0_MULW (R274): Widening signed multiply to 64 bits. -/
  | m0Mulw (m : Mv)
  /-- M0_MAD (R274): Multiply-add A × T + B. -/
  | m0Mad (m : Mv)
  /-- M0_LEA (R274): 64-bit address A + B × T. -/
  | m0Lea (m : Mv)
  /-- M0_DIV (R275): Signed division, quotient to r and remainder to rb, divide-error trap under DIVTRAP. -/
  | m0Div (m : Mv)
  /-- M0_DIVN (R275): Unsigned division, quotient and remainder. -/
  | m0Divn (m : Mv)
  /-- F0_ADD (R276): FP32 add on f0. -/
  | f0Add (m : Mv)
  /-- F0_SUB (R276): FP32 subtract on f0. -/
  | f0Sub (m : Mv)
  /-- F0_MUL (R276): FP32 multiply on f0. -/
  | f0Mul (m : Mv)
  /-- F0_FMA (R276): FP32 fused multiply-add on f0. -/
  | f0Fma (m : Mv)
  /-- F0_FMS (R276): FP32 fused multiply-subtract on f0. -/
  | f0Fms (m : Mv)
  /-- F0_FNMA (R276): FP32 B − A × T fused on f0. -/
  | f0Fnma (m : Mv)
  /-- F0_MIN (R277): FP32 minimum on f0. -/
  | f0Min (m : Mv)
  /-- F0_MAX (R277): FP32 maximum on f0. -/
  | f0Max (m : Mv)
  /-- F0_ABS (R277): FP32 absolute value on f0. -/
  | f0Abs (m : Mv)
  /-- F0_NEG (R277): FP32 negation on f0. -/
  | f0Neg (m : Mv)
  /-- F0_CSGN (R277): FP32 copy sign on f0. -/
  | f0Csgn (m : Mv)
  /-- F0_FLOOR (R278): FP32 floor on f0. -/
  | f0Floor (m : Mv)
  /-- F0_CEIL (R278): FP32 ceiling on f0. -/
  | f0Ceil (m : Mv)
  /-- F0_TRUNC (R278): FP32 truncate on f0. -/
  | f0Trunc (m : Mv)
  /-- F0_RINT (R278): FP32 round to integral by RM on f0. -/
  | f0Rint (m : Mv)
  /-- F0_CVTIF (R279): i32 to FP32 on f0. -/
  | f0Cvtif (m : Mv)
  /-- F0_CVTNF (R279): n32 to FP32 on f0. -/
  | f0Cvtnf (m : Mv)
  /-- F0_CVTFI (R279): FP32 to i32 on f0. -/
  | f0Cvtfi (m : Mv)
  /-- F0_CVTFN (R279): FP32 to n32 on f0. -/
  | f0Cvtfn (m : Mv)
  /-- F0_CVTH (R279): FP32 to FP16 on f0. -/
  | f0Cvth (m : Mv)
  /-- F0_CVTB (R279): FP32 to BF16 on f0. -/
  | f0Cvtb (m : Mv)
  /-- F0_CVTE4 (R279): FP32 to E4M3 on f0. -/
  | f0Cvte4 (m : Mv)
  /-- F0_CVTE5 (R279): FP32 to E5M2 on f0. -/
  | f0Cvte5 (m : Mv)
  /-- F0_CVTF4 (R279): FP32 to E2M1 on f0. -/
  | f0Cvtf4 (m : Mv)
  /-- F0_CVTHF (R279): FP16 to FP32 on f0. -/
  | f0Cvthf (m : Mv)
  /-- F0_CVTBF (R279): BF16 to FP32 on f0. -/
  | f0Cvtbf (m : Mv)
  /-- F0_CVTE4F (R279): E4M3 to FP32 on f0. -/
  | f0Cvte4f (m : Mv)
  /-- F0_CVTE5F (R279): E5M2 to FP32 on f0. -/
  | f0Cvte5f (m : Mv)
  /-- F0_CVTF4F (R279): E2M1 to FP32 on f0. -/
  | f0Cvtf4f (m : Mv)
  /-- F0_HADD2 (R280): Packed FP16 add on f0. -/
  | f0Hadd2 (m : Mv)
  /-- F0_HFMA2 (R280): Packed FP16 FMA on f0. -/
  | f0Hfma2 (m : Mv)
  /-- F0_BFMA2 (R280): Packed BF16 FMA on f0. -/
  | f0Bfma2 (m : Mv)
  /-- F1_ADD (R276): FP32 add on f1. -/
  | f1Add (m : Mv)
  /-- F1_SUB (R276): FP32 subtract on f1. -/
  | f1Sub (m : Mv)
  /-- F1_MUL (R276): FP32 multiply on f1. -/
  | f1Mul (m : Mv)
  /-- F1_FMA (R276): FP32 fused multiply-add on f1. -/
  | f1Fma (m : Mv)
  /-- F1_FMS (R276): FP32 fused multiply-subtract on f1. -/
  | f1Fms (m : Mv)
  /-- F1_FNMA (R276): FP32 B − A × T fused on f1. -/
  | f1Fnma (m : Mv)
  /-- F1_MIN (R277): FP32 minimum on f1. -/
  | f1Min (m : Mv)
  /-- F1_MAX (R277): FP32 maximum on f1. -/
  | f1Max (m : Mv)
  /-- F1_ABS (R277): FP32 absolute value on f1. -/
  | f1Abs (m : Mv)
  /-- F1_NEG (R277): FP32 negation on f1. -/
  | f1Neg (m : Mv)
  /-- F1_CSGN (R277): FP32 copy sign on f1. -/
  | f1Csgn (m : Mv)
  /-- F1_FLOOR (R278): FP32 floor on f1. -/
  | f1Floor (m : Mv)
  /-- F1_CEIL (R278): FP32 ceiling on f1. -/
  | f1Ceil (m : Mv)
  /-- F1_TRUNC (R278): FP32 truncate on f1. -/
  | f1Trunc (m : Mv)
  /-- F1_RINT (R278): FP32 round to integral by RM on f1. -/
  | f1Rint (m : Mv)
  /-- F1_CVTIF (R279): i32 to FP32 on f1. -/
  | f1Cvtif (m : Mv)
  /-- F1_CVTNF (R279): n32 to FP32 on f1. -/
  | f1Cvtnf (m : Mv)
  /-- F1_CVTFI (R279): FP32 to i32 on f1. -/
  | f1Cvtfi (m : Mv)
  /-- F1_CVTFN (R279): FP32 to n32 on f1. -/
  | f1Cvtfn (m : Mv)
  /-- F1_CVTH (R279): FP32 to FP16 on f1. -/
  | f1Cvth (m : Mv)
  /-- F1_CVTB (R279): FP32 to BF16 on f1. -/
  | f1Cvtb (m : Mv)
  /-- F1_CVTE4 (R279): FP32 to E4M3 on f1. -/
  | f1Cvte4 (m : Mv)
  /-- F1_CVTE5 (R279): FP32 to E5M2 on f1. -/
  | f1Cvte5 (m : Mv)
  /-- F1_CVTF4 (R279): FP32 to E2M1 on f1. -/
  | f1Cvtf4 (m : Mv)
  /-- F1_CVTHF (R279): FP16 to FP32 on f1. -/
  | f1Cvthf (m : Mv)
  /-- F1_CVTBF (R279): BF16 to FP32 on f1. -/
  | f1Cvtbf (m : Mv)
  /-- F1_CVTE4F (R279): E4M3 to FP32 on f1. -/
  | f1Cvte4f (m : Mv)
  /-- F1_CVTE5F (R279): E5M2 to FP32 on f1. -/
  | f1Cvte5f (m : Mv)
  /-- F1_CVTF4F (R279): E2M1 to FP32 on f1. -/
  | f1Cvtf4f (m : Mv)
  /-- F1_HADD2 (R280): Packed FP16 add on f1. -/
  | f1Hadd2 (m : Mv)
  /-- F1_HFMA2 (R280): Packed FP16 FMA on f1. -/
  | f1Hfma2 (m : Mv)
  /-- F1_BFMA2 (R280): Packed BF16 FMA on f1. -/
  | f1Bfma2 (m : Mv)
  /-- X0_RCP (R282): Correctly rounded reciprocal. -/
  | x0Rcp (m : Mv)
  /-- X0_RSQRT (R282): Reciprocal square root. -/
  | x0Rsqrt (m : Mv)
  /-- X0_SQRT (R282): Square root. -/
  | x0Sqrt (m : Mv)
  /-- X0_EXP2 (R282): Base-2 exponential. -/
  | x0Exp2 (m : Mv)
  /-- X0_LOG2 (R282): Base-2 logarithm. -/
  | x0Log2 (m : Mv)
  /-- X0_SINPI (R282): sin(πx). -/
  | x0Sinpi (m : Mv)
  /-- X0_COSPI (R282): cos(πx). -/
  | x0Cospi (m : Mv)
  /-- X0_TANH (R282): Hyperbolic tangent. -/
  | x0Tanh (m : Mv)
  /-- X0_SIGM (R282): Logistic sigmoid. -/
  | x0Sigm (m : Mv)
  /-- X0_GELU (R282): GELU function. -/
  | x0Gelu (m : Mv)
  /-- X0_FDIV (R282): Correctly rounded FP32 division A / T. -/
  | x0Fdiv (m : Mv)
  /-- X0_TWID (R264): Twiddle cos and −sin of 2πk/N to r and rb. -/
  | x0Twid (m : Mv)
  /-- X0_RND (R283): Draw the next word from the lane generator. -/
  | x0Rnd (m : Mv)
  /-- X0_SEED (R283): Seed the lane generator. -/
  | x0Seed (m : Mv)
  /-- C0_EQ (R284): 32-bit equal compare. -/
  | c0Eq (m : Mv)
  /-- C0_NE (R284): 32-bit not-equal compare. -/
  | c0Ne (m : Mv)
  /-- C0_LT (R284): Signed less-than. -/
  | c0Lt (m : Mv)
  /-- C0_LE (R284): Signed less-or-equal. -/
  | c0Le (m : Mv)
  /-- C0_LTN (R284): Unsigned less-than. -/
  | c0Ltn (m : Mv)
  /-- C0_LEN (R284): Unsigned less-or-equal. -/
  | c0Len (m : Mv)
  /-- C0_FEQ (R285): FP32 equal. -/
  | c0Feq (m : Mv)
  /-- C0_FNE (R285): FP32 not equal. -/
  | c0Fne (m : Mv)
  /-- C0_FLT (R285): FP32 less-than. -/
  | c0Flt (m : Mv)
  /-- C0_FLE (R285): FP32 less-or-equal. -/
  | c0Fle (m : Mv)
  /-- C0_FUN (R285): FP32 unordered. -/
  | c0Fun (m : Mv)
  /-- C0_FCLS (R286): FP32 class test against a mask. -/
  | c0Fcls (m : Mv)
  /-- C0_BTST (R286): Bit test. -/
  | c0Btst (m : Mv)
  /-- C0_EQ64 (R284): 64-bit equal. -/
  | c0Eq64 (m : Mv)
  /-- C0_LT64 (R284): 64-bit signed less-than. -/
  | c0Lt64 (m : Mv)
  /-- C0_LTN64 (R284): 64-bit unsigned less-than. -/
  | c0Ltn64 (m : Mv)
  /-- P0_IDX (R287): Gather a participating lane's trigger value. -/
  | p0Idx (m : Mv)
  /-- P0_SCAN (R288): Integer inclusive prefix sum. -/
  | p0Scan (m : Mv)
  /-- P0_SCANF (R288): FP32 ordered prefix sum. -/
  | p0Scanf (m : Mv)
  /-- P0_REDADD (R288): Integer sum reduction. -/
  | p0Redadd (m : Mv)
  /-- P0_REDMAX (R288): Signed max reduction. -/
  | p0Redmax (m : Mv)
  /-- P0_REDMIN (R288): Signed min reduction. -/
  | p0Redmin (m : Mv)
  /-- P0_BALLOT (R289): Mask of participating lanes with nonzero T. -/
  | p0Ballot (m : Mv)
  /-- P0_POPL (R289): Count of lower participating lanes with nonzero T. -/
  | p0Popl (m : Mv)
  /-- P0_PACK8 (R290): Saturating pack of four i16 into bytes. -/
  | p0Pack8 (m : Mv)
  /-- P0_UNPK8 (R290): Unpack two bytes to 16-bit halves. -/
  | p0Unpk8 (m : Mv)
  /-- BF_DIT2 (R293): Radix-2 decimation-in-time butterfly. -/
  | bfDit2 (m : Mv)
  /-- BF_DIF2 (R294): Radix-2 decimation-in-frequency butterfly. -/
  | bfDif2 (m : Mv)
  /-- BF_FFT4E (R295): Radix-4 butterfly outputs y0 and y2. -/
  | bfFft4e (m : Mv)
  /-- BF_FFT4O (R295): Radix-4 butterfly outputs y1 and y3. -/
  | bfFft4o (m : Mv)
  /-- BF_CMUL (R292): Complex multiply. -/
  | bfCmul (m : Mv)
  /-- BF_CMULC (R292): Complex multiply by conjugate. -/
  | bfCmulc (m : Mv)
  /-- LD_L8 (R301): Load 1 byte sign-extended into ld.r. -/
  | ldL8 (m : Mv)
  /-- LD_L8N (R301): Load 1 byte zero-extended. -/
  | ldL8n (m : Mv)
  /-- LD_L16 (R301): Load 2 bytes sign-extended. -/
  | ldL16 (m : Mv)
  /-- LD_L16N (R301): Load 2 bytes zero-extended. -/
  | ldL16n (m : Mv)
  /-- LD_L32 (R301): Load 4 bytes. -/
  | ldL32 (m : Mv)
  /-- LD_L64 (R301): Load 8 bytes. -/
  | ldL64 (m : Mv)
  /-- LD_S8 (R302): Store 1 byte. -/
  | ldS8 (m : Mv)
  /-- LD_S16 (R302): Store 2 bytes. -/
  | ldS16 (m : Mv)
  /-- LD_S32 (R302): Store 4 bytes. -/
  | ldS32 (m : Mv)
  /-- LD_S64 (R302): Store 8 bytes. -/
  | ldS64 (m : Mv)
  /-- LD_FEACQ (R305): Acquire fence at the scope in T. -/
  | ldFeacq (m : Mv)
  /-- LD_FEREL (R305): Release fence at the scope in T. -/
  | ldFerel (m : Mv)
  /-- LD_FEFULL (R305): Full fence at the scope in T. -/
  | ldFefull (m : Mv)
  /-- LD_PGSTATE (R78): Query Charon's record of a page part into ld.r. -/
  | ldPgstate (m : Mv)
  /-- CP_G2S (R311): Start per-lane copies from memory to scratchpad. -/
  | cpG2s (m : Mv)
  /-- CP_S2G (R311): Start per-lane copies from scratchpad to memory. -/
  | cpS2g (m : Mv)
  /-- CP_S2S (R311): Start per-lane scratchpad-to-scratchpad copies. -/
  | cpS2s (m : Mv)
  /-- CP_SHAPE (R310): Write a copy shape slot from operands a to d. -/
  | cpShape (m : Mv)
  /-- CP_SEAL (R314): Close the open batch and return its number. -/
  | cpSeal (m : Mv)
  /-- CP_WAIT (R314): Wait until at most n sealed batches are unfinished. -/
  | cpWait (m : Mv)
  /-- CP_WPTR (R316): Read a copy channel's write pointer. -/
  | cpWptr (m : Mv)
  /-- CP_BAR (R317): Add to a barrier's expected copy-byte count. -/
  | cpBar (m : Mv)
  /-- Q0_PUSH (R322): Push a handle on a named queue, waiting for room. -/
  | q0Push (m : Mv)
  /-- Q0_POP (R322): Pop a handle from a named queue, waiting for data. -/
  | q0Pop (m : Mv)
  /-- Q0_TRYPUSH (R322): Push without waiting. -/
  | q0Trypush (m : Mv)
  /-- Q0_TRYPOP (R322): Pop without waiting. -/
  | q0Trypop (m : Mv)
  /-- Q0_QINIT (R321): Make a queue valid and empty at a scratchpad offset. -/
  | q0Qinit (m : Mv)
  /-- Q0_QINVAL (R321): Invalidate a queue and release its waiters. -/
  | q0Qinval (m : Mv)
  /-- MX_CFG (R376): Write a word of the open nest-table slot. -/
  | mxCfg (m : Mv)
  /-- MX_FMT (R376): Write the voted format word of the open slot. -/
  | mxFmt (m : Mv)
  /-- MX_GO (R377): Check and seal the open slot as a nest command. -/
  | mxGo (m : Mv)
  /-- MX_WAIT (R378): Wait until at most n commands are pending. -/
  | mxWait (m : Mv)
  /-- MX_POLL (R378): Report engine status without waiting. -/
  | mxPoll (m : Mv)
  /-- MX_STAT (R379): Read a word of the engine fault record. -/
  | mxStat (m : Mv)
  /-- MX_BANK (R379): Wait for idle commands and zero an accumulator bank. -/
  | mxBank (m : Mv)
  /-- MX_RESET (R379): Reset the engine state and discard a READY command. -/
  | mxReset (m : Mv)
  /-- AM_SWAP (R306): 32-bit atomic swap. -/
  | amSwap (m : Mv)
  /-- AM_SWAP64 (R306): 64-bit atomic swap. -/
  | amSwap64 (m : Mv)
  /-- AM_CAS (R306): 32-bit compare-and-swap. -/
  | amCas (m : Mv)
  /-- AM_CAS64 (R306): 64-bit compare-and-swap. -/
  | amCas64 (m : Mv)
  /-- AM_ADD (R306): 32-bit atomic add returning the old value. -/
  | amAdd (m : Mv)
  /-- AM_ADD64 (R306): 64-bit atomic add. -/
  | amAdd64 (m : Mv)
  /-- AM_AND (R306): Atomic and. -/
  | amAnd (m : Mv)
  /-- AM_OR (R306): Atomic or. -/
  | amOr (m : Mv)
  /-- AM_XOR (R306): Atomic xor. -/
  | amXor (m : Mv)
  /-- AM_MIN (R306): Atomic signed min. -/
  | amMin (m : Mv)
  /-- AM_MAX (R306): Atomic signed max. -/
  | amMax (m : Mv)
  /-- AM_FADD (R306): Atomic FP32 add. -/
  | amFadd (m : Mv)
  /-- AM_RADD (R306): 32-bit reduction add. -/
  | amRadd (m : Mv)
  /-- AM_RADD64 (R306): 64-bit reduction add. -/
  | amRadd64 (m : Mv)
  /-- AM_RFADD (R306): FP32 reduction add. -/
  | amRfadd (m : Mv)
  /-- AM_RMAX (R306): Signed max reduction. -/
  | amRmax (m : Mv)
  /-- AM_ACINIT (R163): Create an apportioned counter at a home table entry. -/
  | amAcinit (m : Mv)
  /-- AM_ACTAKE (R164): Take an amount from an apportioned counter. -/
  | amActake (m : Mv)
  /-- AM_ACGIVE (R168): Give an amount to an apportioned counter. -/
  | amAcgive (m : Mv)
  /-- AM_ACREAD (R170): Exact read of a counter by freezing and recalling. -/
  | amAcread (m : Mv)
  /-- AM_ACPEEK (R171): Read the counter's home reserve without recall. -/
  | amAcpeek (m : Mv)
  /-- AM_ACFREE (R173): Recall, write back and free a counter. -/
  | amAcfree (m : Mv)
  /-- XE_OPEN (R324): Open an Encke phase with a voted core mask and tag. -/
  | xeOpen (m : Mv)
  /-- XE_SEND (R326): Drive the core's Encke wires for this phase cycle. -/
  | xeSend (m : Mv)
  /-- XE_SEL (R327): Sample another core's wires into xe.r. -/
  | xeSel (m : Mv)
  /-- XE_CLOSE (R328): End the Encke phase for this core. -/
  | xeClose (m : Mv)
  /-- XE_IDLE (R329): Read the group's exchange flags. -/
  | xeIdle (m : Mv)
  /-- XE_CLR (R329): Clear IDLE, BROKEN and UNMATCHED. -/
  | xeClr (m : Mv)
  /-- SY_JMP (R334): Jump to a text offset. -/
  | syJmp (m : Mv)
  /-- SY_BR (R334): Branch, diverging by pushing a PENDING entry when only some lanes take it. -/
  | syBr (m : Mv)
  /-- SY_CALL (R338): Call per-lane targets, serialising distinct targets. -/
  | syCall (m : Mv)
  /-- SY_RET (R339): Return from a call, resuming pending call lane sets. -/
  | syRet (m : Mv)
  /-- SY_MARK (R337): Push a REJOIN entry for a rejoin point. -/
  | syMark (m : Mv)
  /-- SY_JOIN (R337): Pop the mark-join stack, restoring k0 and PC. -/
  | syJoin (m : Mv)
  /-- SY_LOOP (R340): Start a hardware loop. -/
  | syLoop (m : Mv)
  /-- SY_BRK (R342): End the active hardware loop. -/
  | syBrk (m : Mv)
  /-- SY_BAR (R346): Arrive at a workgroup barrier and wait for the phase. -/
  | syBar (m : Mv)
  /-- SY_BARAR (R346): Arrive at a workgroup barrier and return the token. -/
  | syBarar (m : Mv)
  /-- SY_BARWT (R346): Wait for a barrier phase to differ from a token. -/
  | syBarwt (m : Mv)
  /-- SY_BARINIT (R345): Initialise a workgroup barrier. -/
  | syBarinit (m : Mv)
  /-- SY_BARINV (R345): Invalidate a workgroup barrier. -/
  | syBarinv (m : Mv)
  /-- SY_CBAR (R346): Arrive at a cluster barrier and wait. -/
  | syCbar (m : Mv)
  /-- SY_CBARAR (R346): Arrive at a cluster barrier and return the token. -/
  | syCbarar (m : Mv)
  /-- SY_CBARINIT (R345): Initialise a cluster barrier. -/
  | syCbarinit (m : Mv)
  /-- SY_CBARINV (R345): Invalidate a cluster barrier. -/
  | syCbarinv (m : Mv)
  /-- SY_WAIT (R348): Wake-word wait with atomic test and registration. -/
  | syWait (m : Mv)
  /-- SY_TIME (R349): Read the global time stamp. -/
  | syTime (m : Mv)
  /-- SY_TRAP (R350): Explicit trap after the bundle completes. -/
  | syTrap (m : Mv)
  /-- SY_CHKERR (R351): Read the check-interval register, optionally acting on poison. -/
  | syChkerr (m : Mv)
  /-- SY_SEGCHK (R352): Compare segment count and signature. -/
  | sySegchk (m : Mv)
  /-- SY_END (R354): End the group. -/
  | syEnd (m : Mv)
  /-- SY_ICINV (R355): Invalidate code-cache lines of a range on every die. -/
  | syIcinv (m : Mv)
  /-- SY_GSTAT (R356): Read the group status word. -/
  | syGstat (m : Mv)
  /-- SY_RFE (R397): Return from the trap handler. -/
  | syRfe (m : Mv)
  /-- SY_YIELD (R356): Leave candidacy for a number of cycles. -/
  | syYield (m : Mv)
  /-- SY_TREC (R356): Read a word of the latest trap record. -/
  | syTrec (m : Mv)
  /-- SY_DBG (R356): Debugger stop when a debugger is attached. -/
  | syDbg (m : Mv)
  /-- BUNDLE_ISSUE (R221): an issue slot executes the bundle at group g's program counter. -/
  | bundleIssue (g : GRef)
  /-- PAD_ISSUE (R219): one pad issue of group g. -/
  | padIssue (g : GRef)
  /-- RESULT_LANDS (R207): lane l of result entry id of a port of group g lands. -/
  | resultLands (g : GRef) (port : RPort) (id lane : Nat)
  /-- CANDIDATE_PROMOTION (R192): group g has been a candidate for 48 clocked cycles without issuing. -/
  | candidatePromotion (g : GRef)
  /-- YIELD_EXPIRY (R356): the yield of group g is over. -/
  | yieldExpiry (g : GRef)
  /-- ICINV_COMPLETE (R355): every die has acknowledged the code-cache invalidation of group g. -/
  | icinvComplete (g : GRef)
  /-- CONTEXT_ENABLE (R144): the driver writes EN = 1 of a context; a wrapped key generation may be supplied (R423). -/
  | contextEnable (ctx : Nat) (wrapped : Option Nat)
  /-- CONTEXT_ENABLE_TAKES_EFFECT (R144): the held EN write of a context takes effect. -/
  | contextEnableTakesEffect (ctx : Nat)
  /-- CONTEXT_DISABLE (R445): the driver writes EN = 0 of a context. -/
  | contextDisable (ctx : Nat)
  /-- DROP_COMMAND (R144): a home slice or a peer's Phobos drops the entries of a context and acknowledges. -/
  | dropCommand (ctx : Nat) (target : DropTarget)
  /-- DROP_ACK_TIMEOUT (R144): a peer has not acknowledged the drop of a context within 100 ms. -/
  | dropAckTimeout (ctx peer : Nat)
  /-- POOL_RING_PROD_WRITE (R45): the driver writes PROD of a context. -/
  | poolRingProdWrite (ctx : Nat) (prod : W32)
  /-- REGISTER_WRITE (R13): a host write of 64-bit word `word` of register block `block`, entry `index`. -/
  | registerWrite (block : RegBlock) (index word : Nat) (v : W64)
  /-- PAGE_WALK_START (R42): a walker of a die takes a pending walk. -/
  | pageWalkStart (die : Nat)
  /-- PAGE_WALK_COMPLETE (R41): the running walk of a die for page VA[55:16] of a context ends. -/
  | pageWalkComplete (die ctx page : Nat)
  /-- GROWTH_COMPLETE (R29): the growth an access of group g waits for finishes. -/
  | growthComplete (g : GRef)
  /-- NOT_RESIDENT_RESOLVED (R45): Phobos installs the leaf of the page a stopped core waits for. -/
  | notResidentResolved (c : CoreId) (leaf : W64)
  /-- FAULTLIMIT_EXPIRY (R45): the firmware-serviced fault a core is stopped for stays unresolved. -/
  | faultlimitExpiry (c : CoreId)
  /-- INVALIDATE_VA_RANGE (R43, R426): command 0x01. -/
  | invalidateVaRange (ctx : Nat) (addr len : W64)
  /-- INVALIDATE_CONTEXT (R43, R426): command 0x02. -/
  | invalidateContext (ctx : Nat)
  /-- FREE_FRAME_RANGE (R79, R426): command 0x03. -/
  | freeFrameRange (ctx : Nat) (addr len : W64)
  /-- CHECKPOINT (R424, R426): command 0x04 over the contexts of the mask word AUX. -/
  | checkpoint (ctx : Nat) (addr aux : W64)
  /-- DEBUG_STOP (R407, R426): command 0x05 on the target in AUX. -/
  | debugStop (ctx : Nat) (aux : W64)
  /-- DEBUG_RESUME (R407, R426): command 0x06 on the target in AUX; the half words that the debugger wrote to the stopped group, by
  their offset in the group area (R403, R405). -/
  | debugResume (ctx : Nat) (aux : W64) (writes : List (Nat × W32))
  /-- ATTEST (R422, R426): command 0x07 with the driver's nonce. -/
  | attest (ctx : Nat) (addr : W64) (req : AttestReq)
  /-- RECOVERY_IMAGE (R421, R426): command 0x08 with a firmware image. -/
  | recoveryImage (image : FwImage)
  /-- COMMAND_COMPLETE (R426): the running command of the command block finishes. -/
  | commandComplete
  /-- HOME_SLICE_ACCESS (R61): piece `piece` of lane `lane` of an access queued by group g is applied. -/
  | homeSliceAccess (g : GRef) (q : QSel) (id lane piece : Nat)
  /-- L1_WRITEBACK_GRANT (R57): the home's grant for a victim line reaches an L1. -/
  | l1WritebackGrant (c : CoreId) (line : Nat)
  /-- L1_SNOOP (R57): a snoop for a line reaches an L1; inval asks it to give the line up. -/
  | l1Snoop (c : CoreId) (line : Nat) (inval : Bool)
  /-- REGION_INVALIDATION (R64): sharer die `die` drops the lines of the region at `base` and acknowledges. -/
  | regionInvalidation (base size die : Nat)
  /-- REGION_INVALIDATION_ACK (R64): the last acknowledgement for the region at `base` arrives at its home. -/
  | regionInvalidationAck (base size : Nat)
  /-- REGION_MERGE (R65): the two quiet halves of the region at `base` of size `size` merge. -/
  | regionMerge (base size : Nat)
  /-- EPOCH_END (R70): Charon evaluates every part and clears the counters. -/
  | epochEnd
  /-- REPLICA_FILL_COMPLETE (R70): the copy of a part on a die is filled. -/
  | replicaFillComplete (part die : Nat)
  /-- MIGRATION_EXCHANGE_COMPLETE (R71): the exchange of a part with its partner completes. -/
  | migrationExchangeComplete (part : Nat)
  /-- COLLAPSE_REQUEST (R74): a part's home receives a collapse request. -/
  | collapseRequest (part : Nat)
  /-- COLLAPSE_INVALIDATION (R73): a copy-holding die drops a part's lines and acknowledges. -/
  | collapseInvalidation (part die : Nat)
  /-- COLLAPSE_ACK (R74): the last acknowledgement of a collapse arrives. -/
  | collapseAck (part : Nat)
  /-- UNIT_MERGE (R70): a split 2 MiB unit quiet for 2^24 cycles merges. -/
  | unitMerge (unit : Nat)
  /-- WRITE_INDEX_ADVANCE (R176): a stream's write index exposes a head record, which the front end reads. -/
  | writeIndexAdvance (stream : Nat)
  /-- STREAM_ENABLE (R175): a write of EN of a stream. -/
  | streamEnable (stream : Nat) (en : Bool)
  /-- STREAM_RESUME (R175): RESUME written to a halted stream. -/
  | streamResume (stream : Nat)
  /-- STREAM_SKIP (R175): SKIP written to a halted stream. -/
  | streamSkip (stream : Nat)
  /-- LAUNCH_START (R182): the checked head record of a stream starts. -/
  | launchStart (stream : Nat)
  /-- ARMED_FIRE (R184): the armed word of a stream's head record is evaluated and fires. -/
  | armedFire (stream : Nat)
  /-- DEPENDENCE_ABORT (R136): the awaited launch aborted, so the head record ends with DEPENDENCE. -/
  | dependenceAbort (stream : Nat)
  /-- WORKGROUP_CREATE (R186): the scheduler creates the next workgroup, or gang, of a launch. -/
  | workgroupCreate (lid : Nat)
  /-- GANG_RESERVATION_TIMEOUT (R189): 100 µs have passed since cores were reserved for a launch's gang. -/
  | gangReservationTimeout (lid : Nat)
  /-- WORKGROUP_RETIRE (R191): a finished workgroup retires. -/
  | workgroupRetire (wg : Nat)
  /-- LAUNCH_COMPLETE (R193): a non-transactional launch completes. -/
  | launchComplete (lid : Nat)
  /-- TIME_SLICE_EXPIRY (R196): the 100 µs quantum of a workgroup's context expires. -/
  | timeSliceExpiry (wg : Nat)
  /-- DRIVER_PREEMPT (R196): the driver requests pre-emption of a context, with save or with kill. -/
  | driverPreempt (ctx : Nat) (kill : Bool)
  /-- WORKGROUP_SAVE (R401): a pre-empted workgroup that has reached its stop points is saved. -/
  | workgroupSave (wg : Nat)
  /-- WORKGROUP_RESTORE (R402): a switched-out workgroup is checked and restored on a core. -/
  | workgroupRestore (wg : Nat) (c : CoreId) (check : RestoreCheck)
  /-- POWER_GATING (R199): Phobos sets the gating level. -/
  | powerGating (level : Nat) (power : Nat)
  /-- THERMAL_LIMIT (R427): a die junction reaches the given temperature in °C. -/
  | thermalLimit (celsius : Nat)
  /-- ATTEMPT_END (R125): an attempt reaches ENDED. -/
  | attemptEnd (lid : Nat)
  /-- TICKET_TAKE (R124): an ended attempt takes its commit ticket. -/
  | ticketTake (lid : Nat)
  /-- COMMIT (R128 steps 1 to 4): a ticketed attempt enters COMMITTING. -/
  | commit (lid : Nat)
  /-- COMMIT_PREPARE (R128 step 4): a die receives the prepare of an attempt. -/
  | commitPrepare (lid die : Nat)
  /-- PREPARE_ACK (R128 step 5): the last acknowledgement arrives and the attempt is published. -/
  | prepareAck (lid : Nat)
  /-- COMMIT_RELEASE (R128 step 6): a die receives the release of an attempt. -/
  | commitRelease (lid die : Nat)
  /-- COMPLETION_WORD_WRITE (R137): the device writes a launch's completion word. -/
  | completionWordWrite (lid : Nat)
  /-- CAPACITY_STALL_RELEASE (R448): a frame is free and the longest stalled overlay write proceeds. -/
  | capacityStallRelease (ctx : Nat)
  /-- TXSTALL_EXPIRY (R132): no frame came free for an attempt within TXSTALL. -/
  | txstallExpiry (lid : Nat)
  /-- FOLD (R130): a home die folds one committed entry. -/
  | fold (die : Nat)
  /-- ATTEMPT_ABORT (R134): the steps of an abort of an attempt are done. -/
  | attemptAbort (lid : Nat)
  /-- COVERED_REQUEST (R149): a covered request in flight reaches its home slice. -/
  | coveredRequest (pkt : Nat)
  /-- COVERED_RESPONSE (R153): an answer in flight reaches its requester. -/
  | coveredResponse (pkt : Nat)
  /-- RETRANSMIT_TIMER (R152): the retransmission interval of an operation expires. -/
  | retransmitTimer (op : OpRef)
  /-- OPERATION_TIMEOUT (R152): 100 ms have passed since an operation was first sent. -/
  | operationTimeout (op : OpRef)
  /-- QUIET_EXPIRY (R153): 1 ms has passed since the last send of a QUIET operation. -/
  | quietExpiry (op : OpRef)
  /-- WATERMARK_NOTICE_TIMER (R151): 16 µs have passed since the last response from a slice. -/
  | watermarkNoticeTimer (ident : Nat) (home : SliceId)
  /-- WATERMARK_NOTICE (R149): a watermark-only notice in flight reaches its slice. -/
  | watermarkNotice (pkt : Nat)
  /-- RESULT_ENTRY_RETIRE (R149): the retirement time of a result-cache entry has passed. -/
  | resultEntryRetire (home : SliceId) (ident serial : Nat)
  /-- PACKET_AGE_DROP (R141): a port drops a packet older than its lifetime. -/
  | packetAgeDrop (pkt : Nat)
  /-- HOME_RESTART (R155 case 1): the result caches of a die are reset. -/
  | homeRestart (die : Nat)
  /-- INCARNATION_UPDATE (R155): a die learns the incarnation of a home. -/
  | incarnationUpdate (die : Nat) (home : HomeId) (inc : Nat)
  /-- COUNTER_GRANT_REQUEST (R165): the home of a counter serves the first waiting request. -/
  | counterGrantRequest (word : Nat)
  /-- COUNTER_GRANT (R164): a grant in flight reaches a die. -/
  | counterGrant (word die : Nat)
  /-- COUNTER_RECALL (R165): a recall reaches a die, or a core of it. -/
  | counterRecall (word die : Nat) (core : Option Nat)
  /-- COUNTER_RETURN (R168): the oldest amount in flight for a counter arrives at its home. -/
  | counterReturn (word : Nat)
  /-- COUNTER_POISONED (R172): an entry of a counter reports an uncorrectable error. -/
  | counterPoisoned (word : Nat)
  /-- STORE_PERFORMED (R302): a store of group g is acknowledged, or fails with an imprecise store fault. -/
  | storePerformed (g : GRef) (id : Nat) (error : Option StoreError)
  /-- COPY_ELEMENT (R315): the copy engine moves the next element of a channel; ue marks an uncorrectable error. -/
  | copyElement (g : GRef) (ch : Nat) (ue : Bool)
  /-- COPY_PHOBOS_TAKEOVER (R315): Phobos takes over the faulted copy of a channel. -/
  | copyPhobosTakeover (g : GRef) (ch : Nat)
  /-- QUEUE_OP_PERFORMED (R323): the oldest queue operation of group g arrives at its queue. -/
  | queueOpPerformed (g : GRef)
  /-- PHASE_OPEN_COMPLETE (R324): every core of the mask has opened with an equal value. -/
  | phaseOpenComplete (g : GRef)
  /-- PHASE_TIMEOUT (R328): 65,536 phase cycles have passed. -/
  | phaseTimeout (g : GRef)
  /-- BARRIER_ARRIVAL_PERFORMED (R346): the barrier arrival of group g is performed. -/
  | barrierArrivalPerformed (g : GRef)
  /-- WAIT_TIMEOUT (R348): the timeout of group g's wake-word wait passes. -/
  | waitTimeout (g : GRef)
  /-- MX_COMMAND_START (R360): a command of a workgroup begins RUNNING on the free engine. -/
  | mxCommandStart (wg : Nat)
  /-- MX_STEP (R372): the array performs the next nest step, and the drain it calls for; ue marks an uncorrectable error. -/
  | mxStep (c : CoreId) (ue : Bool)
  /-- MX_COMMAND_COMPLETE (R378): the running command of a core completes. -/
  | mxCommandComplete (c : CoreId)
  /-- MX_OVERTIME (R384): a command has run for 2^22 cycles. -/
  | mxOvertime (c : CoreId)
  /-- MX_BANK_ZEROED (R379): the engine finishes zeroing a bank. -/
  | mxBankZeroed (wg bank : Nat)
  /-- IMPRECISE_TRAP_DELIVERY (R391): the oldest pending imprecise or engine trap of group g is delivered. -/
  | impreciseTrapDelivery (g : GRef)
  /-- HELD_TRAP_DELIVERY (R398): the oldest held trap of group g is delivered after rfe. -/
  | heldTrapDelivery (g : GRef)
  /-- MASTER_FREEZE (R413): a master that violated isolation is frozen. -/
  | masterFreeze (m : Master)
  /-- FUNCTION_LEVEL_RESET (R413): FLR of a virtual function. -/
  | functionLevelReset (vf : Nat)
  /-- PEER_LINK_RESET (R413): the link of a frozen peer is reset. -/
  | peerLinkReset (peer : Nat)
  /-- ENGINE_RESET (R413): Phobos resets a frozen copy engine. -/
  | engineReset (c : CoreId)
  /-- SLOT_RESET (R413): Phobos resets a frozen issue slot, which zeroes it. -/
  | slotReset (c : CoreId) (slot : Nat)
  /-- HOST_ACCESS (R415): a host access through the aperture of a virtual function or its register windows. -/
  | hostAccess (vf : Nat) (a : VfAccess)
  /-- CXL_MEM_ACCESS (R423): a CXL.mem access at a local device offset. -/
  | cxlMemAccess (a : ExtAccess)
  /-- PEER_REQUEST (R418): a request of a fabric peer at a local device offset. -/
  | peerRequest (peer : Nat) (m : PeerMsg)
  /-- LINK_PORT_FAILURE (R417): a fabric port fails. -/
  | linkPortFailure (path : FailPath)
  /-- FLIT_REPLAY (R416): a flit with an error is replayed on a port. -/
  | flitReplay (port : Nat)
  /-- LINK_FLOW_CONTROL (R416): the receiver of a port's virtual lane reports its free flit buffers. -/
  | linkFlowControl (port vl free : Nat)
  /-- PPS_EDGE (R420): a rising edge of 1 PPS, with the measured offset from the nearest whole second in ns. -/
  | ppsEdge (offset : Int)
  /-- TIMEADJ (R420): a signed correction in ns is written. -/
  | timeadj (v : W64)
  /-- TIMESET (R420): a new time is written. -/
  | timeset (v : W64)
  /-- HOLDOVER (R420): 2 s have passed without a PPS edge. -/
  | holdover
  /-- FIRMWARE_BOOT (R421): the Phobos ROM verifies the firmware image of the module flash. -/
  | firmwareBoot (image : FwImage)
  /-- DEVICE_RESET (R155 case 2): the device is reset, or recovers from a partition longer than the packet lifetime. -/
  | deviceReset (partition : Bool)
  /-- FETCH_REDIRECTION_END (R335): the redirection cycles of group g run out. -/
  | fetchRedirectionEnd (g : GRef)
  /-- TRAP_ENTRY_COMPLETE (R396): the trap-entry sequence of group g finishes. -/
  | trapEntryComplete (g : GRef)
  /-- ROUTING_BRING_UP (R154): routing to a peer is brought up with the incarnations of its four homes. -/
  | routingBringUp (peer ports : Nat) (incs : List Nat)
  /-- CXL_CACHE_SNOOP (R62): the host snoops a host line; inval asks for it to be given up. -/
  | cxlCacheSnoop (line : Nat) (inval : Bool)
  deriving DecidableEq, Repr

end Sys2Proof
end

