-- ==== Sys2Proof/WellFormed.lean ====
section
/-!
DEFINITION. WellFormed: which terms of Instr stand for an instruction. For a move: what R213 to R216 and R225 to R227
allow its word to hold, as far as the word alone can show it. For a step of the device: its numbers name parts that exist.
What depends on the group that runs a move (declared registers, an active loop, extension words) is checked by
Machine/Operands.lean when the bundle is decoded.
-/

namespace Sys2Proof

/-- The move fields of a move, none of a step of the device. -/
def Instr.mv? : Instr → Option Mv
  | .moveVector _ _ m | .moveScalarGuard _ m | .moveOperand _ _ m => some m
  | .aAdd _ m | .aSub _ m | .aAddc _ m | .aSubb _ m | .aAdds _ m | .aSubs _ m | .aAddsn _ m | .aSubsn _ m | .aAnd _ m
  | .aOr _ m | .aXor _ m | .aAndn _ m | .aShl _ m | .aShr _ m | .aSar _ m | .aRol _ m | .aMin _ m | .aMax _ m
  | .aMinn _ m | .aMaxn _ m | .aAbs _ m | .aNeg _ m | .aClz _ m | .aPopc _ m | .aBrev _ m | .aSel _ m | .aBext _ m
  | .aBins _ m | .aAdd64 _ m | .aSub64 _ m | .aPass _ m => some m
  | .m0Mul m | .m0Mulhi m | .m0Mulhin m | .m0Mulw m | .m0Mad m | .m0Lea m | .m0Div m | .m0Divn m | .f0Add m
  | .f0Sub m | .f0Mul m | .f0Fma m | .f0Fms m | .f0Fnma m | .f0Min m | .f0Max m | .f0Abs m | .f0Neg m | .f0Csgn m
  | .f0Floor m | .f0Ceil m | .f0Trunc m | .f0Rint m | .f0Cvtif m | .f0Cvtnf m | .f0Cvtfi m | .f0Cvtfn m | .f0Cvth m
  | .f0Cvtb m | .f0Cvte4 m | .f0Cvte5 m | .f0Cvtf4 m | .f0Cvthf m | .f0Cvtbf m | .f0Cvte4f m | .f0Cvte5f m
  | .f0Cvtf4f m | .f0Hadd2 m | .f0Hfma2 m | .f0Bfma2 m | .f1Add m | .f1Sub m | .f1Mul m | .f1Fma m | .f1Fms m
  | .f1Fnma m | .f1Min m | .f1Max m | .f1Abs m | .f1Neg m | .f1Csgn m | .f1Floor m | .f1Ceil m | .f1Trunc m
  | .f1Rint m | .f1Cvtif m | .f1Cvtnf m | .f1Cvtfi m | .f1Cvtfn m | .f1Cvth m | .f1Cvtb m | .f1Cvte4 m | .f1Cvte5 m
  | .f1Cvtf4 m | .f1Cvthf m | .f1Cvtbf m | .f1Cvte4f m | .f1Cvte5f m | .f1Cvtf4f m | .f1Hadd2 m | .f1Hfma2 m
  | .f1Bfma2 m | .x0Rcp m | .x0Rsqrt m | .x0Sqrt m | .x0Exp2 m | .x0Log2 m | .x0Sinpi m | .x0Cospi m | .x0Tanh m
  | .x0Sigm m | .x0Gelu m | .x0Fdiv m | .x0Twid m | .x0Rnd m | .x0Seed m | .c0Eq m | .c0Ne m | .c0Lt m | .c0Le m
  | .c0Ltn m | .c0Len m | .c0Feq m | .c0Fne m | .c0Flt m | .c0Fle m | .c0Fun m | .c0Fcls m | .c0Btst m | .c0Eq64 m
  | .c0Lt64 m | .c0Ltn64 m | .p0Idx m | .p0Scan m | .p0Scanf m | .p0Redadd m | .p0Redmax m | .p0Redmin m
  | .p0Ballot m | .p0Popl m | .p0Pack8 m | .p0Unpk8 m | .bfDit2 m | .bfDif2 m | .bfFft4e m | .bfFft4o m | .bfCmul m
  | .bfCmulc m | .ldL8 m | .ldL8n m | .ldL16 m | .ldL16n m | .ldL32 m | .ldL64 m | .ldS8 m | .ldS16 m | .ldS32 m
  | .ldS64 m | .ldFeacq m | .ldFerel m | .ldFefull m | .ldPgstate m | .cpG2s m | .cpS2g m | .cpS2s m | .cpShape m
  | .cpSeal m | .cpWait m | .cpWptr m | .cpBar m | .q0Push m | .q0Pop m | .q0Trypush m | .q0Trypop m | .q0Qinit m
  | .q0Qinval m | .mxCfg m | .mxFmt m | .mxGo m | .mxWait m | .mxPoll m | .mxStat m | .mxBank m | .mxReset m
  | .amSwap m | .amSwap64 m | .amCas m | .amCas64 m | .amAdd m | .amAdd64 m | .amAnd m | .amOr m | .amXor m
  | .amMin m | .amMax m | .amFadd m | .amRadd m | .amRadd64 m | .amRfadd m | .amRmax m | .amAcinit m | .amActake m
  | .amAcgive m | .amAcread m | .amAcpeek m | .amAcfree m | .xeOpen m | .xeSend m | .xeSel m | .xeClose m | .xeIdle m
  | .xeClr m | .syJmp m | .syBr m | .syCall m | .syRet m | .syMark m | .syJoin m | .syLoop m | .syBrk m | .syBar m
  | .syBarar m | .syBarwt m | .syBarinit m | .syBarinv m | .syCbar m | .syCbarar m | .syCbarinit m | .syCbarinv m
  | .syWait m | .syTime m | .syTrap m | .syChkerr m | .sySegchk m | .syEnd m | .syIcinv m | .syGstat m | .syRfe m
  | .syYield m | .syTrec m | .syDbg m => some m
  | .bundleIssue _ | .padIssue _ | .resultLands _ _ _ _ | .candidatePromotion _ | .yieldExpiry _ | .icinvComplete _
  | .contextEnable _ _ | .contextEnableTakesEffect _ | .contextDisable _ | .dropCommand _ _ | .dropAckTimeout _ _
  | .poolRingProdWrite _ _ | .registerWrite _ _ _ _ | .pageWalkStart _ | .pageWalkComplete _ _ _ | .growthComplete _
  | .notResidentResolved _ _ | .faultlimitExpiry _ | .invalidateVaRange _ _ _ | .invalidateContext _
  | .freeFrameRange _ _ _ | .checkpoint _ _ _ | .debugStop _ _ | .debugResume _ _ _ | .attest _ _ _ | .recoveryImage _
  | .commandComplete | .homeSliceAccess _ _ _ _ _ | .l1WritebackGrant _ _ | .l1Snoop _ _ _
  | .regionInvalidation _ _ _ | .regionInvalidationAck _ _ | .regionMerge _ _ | .epochEnd | .replicaFillComplete _ _
  | .migrationExchangeComplete _ | .collapseRequest _ | .collapseInvalidation _ _ | .collapseAck _ | .unitMerge _
  | .writeIndexAdvance _ | .streamEnable _ _ | .streamResume _ | .streamSkip _ | .launchStart _ | .armedFire _
  | .dependenceAbort _ | .workgroupCreate _ | .gangReservationTimeout _ | .workgroupRetire _ | .launchComplete _
  | .timeSliceExpiry _ | .driverPreempt _ _ | .workgroupSave _ | .workgroupRestore _ _ _ | .powerGating _ _
  | .thermalLimit _ | .attemptEnd _ | .ticketTake _ | .commit _ | .commitPrepare _ _ | .prepareAck _
  | .commitRelease _ _ | .completionWordWrite _ | .capacityStallRelease _ | .txstallExpiry _ | .fold _
  | .attemptAbort _ | .coveredRequest _ | .coveredResponse _ | .retransmitTimer _ | .operationTimeout _
  | .quietExpiry _ | .watermarkNoticeTimer _ _ | .watermarkNotice _ | .resultEntryRetire _ _ _ | .packetAgeDrop _
  | .homeRestart _ | .incarnationUpdate _ _ _ | .counterGrantRequest _ | .counterGrant _ _ | .counterRecall _ _ _
  | .counterReturn _ | .counterPoisoned _ | .storePerformed _ _ _ | .copyElement _ _ _ | .copyPhobosTakeover _ _
  | .queueOpPerformed _ | .phaseOpenComplete _ | .phaseTimeout _ | .barrierArrivalPerformed _ | .waitTimeout _
  | .mxCommandStart _ | .mxStep _ _ | .mxCommandComplete _ | .mxOvertime _ | .mxBankZeroed _ _
  | .impreciseTrapDelivery _ | .heldTrapDelivery _ | .masterFreeze _ | .functionLevelReset _ | .peerLinkReset _
  | .engineReset _ | .slotReset _ _ | .hostAccess _ _ | .cxlMemAccess _ | .peerRequest _ _ | .linkPortFailure _
  | .flitReplay _ | .linkFlowControl _ _ _ | .ppsEdge _ | .timeadj _ | .timeset _ | .holdover | .firmwareBoot _
  | .deviceReset _ | .fetchRedirectionEnd _ | .trapEntryComplete _ | .routingBringUp _ _ _ | .cxlCacheSnoop _ _ => none

/-- Does an extension-word source of this kind, or a register or port source, carry 64 bits whatever its destination
(R214, R215)? Cross-lane words (kind 10) say it themselves. -/
def srcWide (s : BitVec 13) : Bool :=
  match (s.extractLsb' 11 2).toNat with
  | 0 => s.getLsbD 7
  | 1 => s.getLsbD 3
  | 3 => s.extractLsb' 7 2 == 3
  | _ => false

/-- Units with a second result port rb (R225): a0, a1, m0, x0, am, bf. -/
def unitsWithRb : List Nat := [0x04, 0x05, 0x06, 0x09, 0x10, 0x13]

/-- A register source is well formed: bank, bit 8, index, even pair (R214). -/
def regSrcWf (s : BitVec 13) : Bool :=
  let bank := (s.extractLsb' 9 2).toNat
  let idx := (s.extractLsb' 0 7).toNat
  bank != 3 && !s.getLsbD 8 && (if bank == 2 then idx < 80 else !s.getLsbD 7 || idx % 2 == 0)

/-- A result-port source is well formed: unit, port, reserved bits (R214). -/
def portSrcWf (s : BitVec 13) : Bool :=
  let unit := (s.extractLsb' 6 5).toNat
  let port := (s.extractLsb' 4 2).toNat
  4 ≤ unit && unit ≤ 0x13 && (port == 0 || port == 1 && unitsWithRb.contains unit) && s.extractLsb' 0 3 == 0

/-- The source field is well formed (R214). -/
def srcWf (s : BitVec 13) : Bool :=
  match (s.extractLsb' 11 2).toNat with
  | 0 => regSrcWf s
  | 1 => portSrcWf s
  | 2 => true
  | _ => s.extractLsb' 0 7 == 0

/-- The guard fields are well formed: an unguarded move has GUARD 000 and N 0 (R213). -/
def Mv.guardWf (m : Mv) : Bool := m.g || (m.k == 0 && !m.n)

/-- What every move needs, whatever its destination. -/
def Mv.wf (m : Mv) : Bool := srcWf m.s && m.guardWf

/-- The operand ports a unit has (R225): port numbers 0 to 3 are a to d. -/
def operandPorts (unit : Nat) : List Nat :=
  match unit with
  | 0x04 | 0x05 | 0x06 | 0x11 | 0x12 => [0, 1]
  | 0x07 | 0x08 => [0, 1, 3]
  | 0x09 | 0x0A | 0x0B | 0x0E | 0x0F => [0]
  | 0x0C | 0x10 | 0x13 => [0, 1, 2]
  | 0x0D => [0, 1, 2, 3]
  | _ => []

/-- The core exists (R1, R16). -/
def CoreId.wf (c : CoreId) : Bool := c.die < Config.numDies && c.core < Config.coresPerDie
/-- The slice exists (R1). -/
def SliceId.wf (s : SliceId) : Bool := s.die < Config.numDies && s.slice < Config.slicesPerDie
/-- A group index lies in its workgroup: at most 16 groups (R174). -/
def GRef.wf (g : GRef) : Bool := g.gi < 16
/-- A die of the module (R1). -/
def dieWf (d : Nat) : Bool := d < Config.numDies
/-- A context (R11). -/
def ctxWf (c : Nat) : Bool := c < Config.numContexts
/-- A stream (R175). -/
def streamWf (n : Nat) : Bool := n < Config.numStreams
/-- A home: a device of the fabric and one of its dies (R154). -/
def HomeId.wf (h : HomeId) : Bool := h.device < 1024 && dieWf h.die
/-- A master that can be frozen (R413). -/
def Master.wf : Master → Bool
  | .vf n => n ≤ 64
  | .peer n => n < 1024
  | .copyEngine c => c.wf
  | .slot c n => c.wf && n < Config.slotsPerCore
/-- Who receives a drop command exists (R144). -/
def DropTarget.wf : DropTarget → Bool
  | .slice s => s.wf
  | .peer p => p < 1024
  | .fromPeer p => p < 1024

/-- A message's home slice exists. -/
def PeerMsg.wf : PeerMsg → Bool
  | .access _ _ => true
  | .covered _ _ => true
  | .notice _ _ home => home.wf

/-- A path names a port of the device. -/
def FailPath.wf : FailPath → Bool
  | .port n => n < 18
  | .mesh => true

/-- The term stands for an instruction or a step of the device. -/
def Instr.wf : Instr → Bool
  | .moveVector _ r m => m.wf && (!srcWide m.s || r.toNat % 2 == 0)
  | .moveScalarGuard r m => m.wf && r.toNat < 80 && r.toNat != 64
  | .moveOperand u p m => m.wf && (operandPorts u.toNat).contains p.toNat
  | .aAdd _ m | .aSub _ m | .aAddc _ m | .aSubb _ m | .aAdds _ m | .aSubs _ m | .aAddsn _ m | .aSubsn _ m | .aAnd _ m
  | .aOr _ m | .aXor _ m | .aAndn _ m | .aShl _ m | .aShr _ m | .aSar _ m | .aRol _ m | .aMin _ m | .aMax _ m
  | .aMinn _ m | .aMaxn _ m | .aAbs _ m | .aNeg _ m | .aClz _ m | .aPopc _ m | .aBrev _ m | .aSel _ m | .aBext _ m
  | .aBins _ m | .aAdd64 _ m | .aSub64 _ m | .aPass _ m => m.wf
  | .m0Mul m | .m0Mulhi m | .m0Mulhin m | .m0Mulw m | .m0Mad m | .m0Lea m | .m0Div m | .m0Divn m | .f0Add m
  | .f0Sub m | .f0Mul m | .f0Fma m | .f0Fms m | .f0Fnma m | .f0Min m | .f0Max m | .f0Abs m | .f0Neg m | .f0Csgn m
  | .f0Floor m | .f0Ceil m | .f0Trunc m | .f0Rint m | .f0Cvtif m | .f0Cvtnf m | .f0Cvtfi m | .f0Cvtfn m | .f0Cvth m
  | .f0Cvtb m | .f0Cvte4 m | .f0Cvte5 m | .f0Cvtf4 m | .f0Cvthf m | .f0Cvtbf m | .f0Cvte4f m | .f0Cvte5f m
  | .f0Cvtf4f m | .f0Hadd2 m | .f0Hfma2 m | .f0Bfma2 m | .f1Add m | .f1Sub m | .f1Mul m | .f1Fma m | .f1Fms m
  | .f1Fnma m | .f1Min m | .f1Max m | .f1Abs m | .f1Neg m | .f1Csgn m | .f1Floor m | .f1Ceil m | .f1Trunc m
  | .f1Rint m | .f1Cvtif m | .f1Cvtnf m | .f1Cvtfi m | .f1Cvtfn m | .f1Cvth m | .f1Cvtb m | .f1Cvte4 m | .f1Cvte5 m
  | .f1Cvtf4 m | .f1Cvthf m | .f1Cvtbf m | .f1Cvte4f m | .f1Cvte5f m | .f1Cvtf4f m | .f1Hadd2 m | .f1Hfma2 m
  | .f1Bfma2 m | .x0Rcp m | .x0Rsqrt m | .x0Sqrt m | .x0Exp2 m | .x0Log2 m | .x0Sinpi m | .x0Cospi m | .x0Tanh m
  | .x0Sigm m | .x0Gelu m | .x0Fdiv m | .x0Twid m | .x0Rnd m | .x0Seed m | .c0Eq m | .c0Ne m | .c0Lt m | .c0Le m
  | .c0Ltn m | .c0Len m | .c0Feq m | .c0Fne m | .c0Flt m | .c0Fle m | .c0Fun m | .c0Fcls m | .c0Btst m | .c0Eq64 m
  | .c0Lt64 m | .c0Ltn64 m | .p0Idx m | .p0Scan m | .p0Scanf m | .p0Redadd m | .p0Redmax m | .p0Redmin m
  | .p0Ballot m | .p0Popl m | .p0Pack8 m | .p0Unpk8 m | .bfDit2 m | .bfDif2 m | .bfFft4e m | .bfFft4o m | .bfCmul m
  | .bfCmulc m | .ldL8 m | .ldL8n m | .ldL16 m | .ldL16n m | .ldL32 m | .ldL64 m | .ldS8 m | .ldS16 m | .ldS32 m
  | .ldS64 m | .ldFeacq m | .ldFerel m | .ldFefull m | .ldPgstate m | .cpG2s m | .cpS2g m | .cpS2s m | .cpShape m
  | .cpSeal m | .cpWait m | .cpWptr m | .cpBar m | .q0Push m | .q0Pop m | .q0Trypush m | .q0Trypop m | .q0Qinit m
  | .q0Qinval m | .mxCfg m | .mxFmt m | .mxGo m | .mxWait m | .mxPoll m | .mxStat m | .mxBank m | .mxReset m
  | .amSwap m | .amSwap64 m | .amCas m | .amCas64 m | .amAdd m | .amAdd64 m | .amAnd m | .amOr m | .amXor m
  | .amMin m | .amMax m | .amFadd m | .amRadd m | .amRadd64 m | .amRfadd m | .amRmax m | .amAcinit m | .amActake m
  | .amAcgive m | .amAcread m | .amAcpeek m | .amAcfree m | .xeOpen m | .xeSend m | .xeSel m | .xeClose m | .xeIdle m
  | .xeClr m | .syJmp m | .syBr m | .syCall m | .syRet m | .syMark m | .syJoin m | .syLoop m | .syBrk m | .syBar m
  | .syBarar m | .syBarwt m | .syBarinit m | .syBarinv m | .syCbar m | .syCbarar m | .syCbarinit m | .syCbarinv m
  | .syWait m | .syTime m | .syTrap m | .syChkerr m | .sySegchk m | .syEnd m | .syIcinv m | .syGstat m | .syRfe m
  | .syYield m | .syTrec m | .syDbg m => m.wf
  | .bundleIssue g => g.wf
  | .padIssue g => g.wf
  | .resultLands g _ _ lane => g.wf && lane < 64
  | .candidatePromotion g => g.wf
  | .yieldExpiry g => g.wf
  | .icinvComplete g => g.wf
  | .contextEnable ctx _ => ctxWf ctx
  | .contextEnableTakesEffect ctx => ctxWf ctx
  | .contextDisable ctx => ctxWf ctx
  | .dropCommand ctx target => ctxWf ctx && target.wf
  | .dropAckTimeout ctx peer => ctxWf ctx && peer < 1024
  | .poolRingProdWrite ctx _ => ctxWf ctx
  | .pageWalkStart die => dieWf die
  | .pageWalkComplete die ctx _ => dieWf die && ctxWf ctx
  | .growthComplete g => g.wf
  | .notResidentResolved c _ => c.wf
  | .faultlimitExpiry c => c.wf
  | .invalidateVaRange ctx _ _ => ctxWf ctx
  | .invalidateContext ctx => ctxWf ctx
  | .freeFrameRange ctx _ _ => ctxWf ctx
  | .checkpoint ctx _ _ => ctxWf ctx
  | .debugStop ctx _ => ctxWf ctx
  | .debugResume ctx _ writes => ctxWf ctx && writes.all fun x => x.1 % 4 == 0
  | .attest ctx _ req => ctxWf ctx && req.codes.length ≤ 64
  | .homeSliceAccess g _ _ lane _ => g.wf && lane < 64
  | .l1WritebackGrant c _ => c.wf
  | .l1Snoop c _ _ => c.wf
  | .regionInvalidation _ _ die => dieWf die
  | .replicaFillComplete _ die => dieWf die
  | .collapseInvalidation _ die => dieWf die
  | .writeIndexAdvance stream => streamWf stream
  | .streamEnable stream _ => streamWf stream
  | .streamResume stream => streamWf stream
  | .streamSkip stream => streamWf stream
  | .launchStart stream => streamWf stream
  | .armedFire stream => streamWf stream
  | .dependenceAbort stream => streamWf stream
  | .driverPreempt ctx _ => ctxWf ctx
  | .workgroupRestore _ c _ => c.wf
  | .commitPrepare _ die => dieWf die
  | .commitRelease _ die => dieWf die
  | .capacityStallRelease ctx => ctxWf ctx
  | .fold die => dieWf die
  | .watermarkNoticeTimer _ home => home.wf
  | .resultEntryRetire home _ _ => home.wf
  | .homeRestart die => dieWf die
  | .incarnationUpdate die home _ => dieWf die && home.wf
  | .counterGrant _ die => dieWf die
  | .counterRecall _ die _ => dieWf die
  | .storePerformed g _ _ => g.wf
  | .copyElement g ch _ => g.wf && ch < 4
  | .copyPhobosTakeover g ch => g.wf && ch < 4
  | .queueOpPerformed g => g.wf
  | .phaseOpenComplete g => g.wf
  | .phaseTimeout g => g.wf
  | .barrierArrivalPerformed g => g.wf
  | .waitTimeout g => g.wf
  | .mxStep c _ => c.wf
  | .mxCommandComplete c => c.wf
  | .mxOvertime c => c.wf
  | .mxBankZeroed _ bank => bank < 2
  | .impreciseTrapDelivery g => g.wf
  | .heldTrapDelivery g => g.wf
  | .masterFreeze m => m.wf
  | .functionLevelReset vf => vf ≤ 64
  | .peerLinkReset peer => peer < 1024
  | .engineReset c => c.wf
  | .slotReset c slot => c.wf && slot < Config.slotsPerCore
  | .hostAccess vf _ => vf ≤ 64
  | .peerRequest peer m => peer < 1024 && m.wf
  | .linkPortFailure path => path.wf
  | .flitReplay port => port < 18
  | .linkFlowControl port vl _ => port < 18 && vl < 4
  | .fetchRedirectionEnd g => g.wf
  | .trapEntryComplete g => g.wf
  | .routingBringUp peer _ _ => peer < 1024
  | .registerWrite _ _ _ _ | .recoveryImage _ | .commandComplete | .regionInvalidationAck _ _ | .regionMerge _ _
  | .epochEnd | .migrationExchangeComplete _ | .collapseRequest _ | .collapseAck _ | .unitMerge _
  | .workgroupCreate _ | .gangReservationTimeout _ | .workgroupRetire _ | .launchComplete _ | .timeSliceExpiry _
  | .workgroupSave _ | .powerGating _ _ | .thermalLimit _ | .attemptEnd _ | .ticketTake _ | .commit _ | .prepareAck _
  | .completionWordWrite _ | .txstallExpiry _ | .attemptAbort _ | .coveredRequest _ | .coveredResponse _
  | .retransmitTimer _ | .operationTimeout _ | .quietExpiry _ | .watermarkNotice _ | .packetAgeDrop _
  | .counterGrantRequest _ | .counterReturn _ | .counterPoisoned _ | .mxCommandStart _ | .cxlMemAccess _ | .ppsEdge _
  | .timeadj _ | .timeset _ | .holdover | .firmwareBoot _ | .deviceReset _ | .cxlCacheSnoop _ _ => true

end Sys2Proof
end

