-- ==== Sys2Proof/Decode.lean ====
section
/-!
DEFINITION. Decode: bundle words to instructions and back. Decoding is total: what is no instruction is rejected by the
name of its row in R224. The encoder is written from the same tables (R212, R213, R225 to R240).
-/

namespace Sys2Proof

/-- Why a word is no instruction: the rows of R224 a word alone can meet, and a list of bytes that ends too early. -/
inductive DecodeError where
  /-- header bits [31:15] are not 0 -/
  | headerReserved
  /-- REGION is 11 -/
  | headerRegion
  /-- DUNIT is 0x03 or 0x14 to 0x1F -/
  | reservedUnit
  /-- DPORT is unassigned on its unit -/
  | unassignedPort
  /-- register destination invalid -/
  | badRegDest
  /-- register source invalid -/
  | badRegSource
  /-- result-port source invalid -/
  | badPortSource
  /-- extension reference invalid -/
  | badExtRef
  /-- guard encoding invalid -/
  | badGuard
  /-- fewer bytes than the bundle has -/
  | truncated
  deriving DecidableEq, Repr

/-- The CAUSE of the trap (R224). -/
def DecodeError.cause : DecodeError → Nat
  | .headerReserved => 1
  | .headerRegion => 2
  | .reservedUnit => 1
  | .unassignedPort => 2
  | .badRegDest => 3
  | .badRegSource => 4
  | .badPortSource => 5
  | .badExtRef => 6
  | .badGuard => 7
  | .truncated => 0

/-! ### Words and bytes -/

/-- Little-endian bytes of a word (R5, R211). -/
def wordBytes (w : W32) : List Byte :=
  [w.extractLsb' 0 8, w.extractLsb' 8 8, w.extractLsb' 16 8, w.extractLsb' 24 8]

/-- The word at the head of a list of bytes, and the rest. -/
def takeWord : List Byte → Option (W32 × List Byte)
  | b0 :: b1 :: b2 :: b3 :: rest => some (b3 ++ b2 ++ b1 ++ b0, rest)
  | _ => none

/-- `n` words and the rest. -/
def takeWords : Nat → List Byte → Option (List W32 × List Byte)
  | 0, bs => some ([], bs)
  | n + 1, bs =>
    match takeWord bs with
    | none => none
    | some (w, bs) =>
      match takeWords n bs with
      | none => none
      | some (ws, bs) => some (w :: ws, bs)

/-! ### The move word (R213) -/

/-- The fields of a move word beside its destination. -/
def mvOfWord (w : W32) : Mv where
  g := w.getLsbD 31
  k := w.extractLsb' 28 3
  n := w.getLsbD 27
  h := w.getLsbD 26
  e := w.getLsbD 25
  s := w.extractLsb' 12 13

/-- The move word with these fields and this destination code DUNIT × 0x80 + DPORT (R225). -/
def mvWord (m : Mv) (dest : BitVec 12) : W32 :=
  BitVec.ofBool m.g ++ m.k ++ BitVec.ofBool m.n ++ BitVec.ofBool m.h ++ BitVec.ofBool m.e ++ m.s ++ dest

/-- What a destination code names. -/
inductive Dest where
  /-- vector register n, with n + 1 for a 64-bit move -/
  | vreg (n : Nat)
  | sreg (n : Nat)
  | kreg (n : Nat)
  /-- operand port 0 to 3 of a unit -/
  | operand (unit port : Nat)
  | trigger (unit port : Nat)
  deriving DecidableEq, Repr

/-- Is port number 4 or above of this unit a trigger (R227 to R240)? -/
def hasTrigger (unit port : Nat) : Bool :=
  4 ≤ port &&
    match unit with
    | 0x04 | 0x05 => port ≤ 0x22
    | 0x06 => port ≤ 0x0B
    | 0x07 | 0x08 => port ≤ 0x23
    | 0x09 => port ≤ 0x11
    | 0x0A => port ≤ 0x13
    | 0x0B => port ≤ 0x0D
    | 0x0C => port ≤ 0x10 || port == 0x30
    | 0x0D => port ≤ 0x0B
    | 0x0E => port ≤ 0x09
    | 0x0F => port ≤ 0x0B
    | 0x10 => port ≤ 0x19
    | 0x11 => port ≤ 0x09
    | 0x12 => port ≤ 0x20
    | 0x13 => port ≤ 0x09
    | _ => false

/-- The destination of a code, or the row of R224 it meets whatever the group that runs it: reserved units, unassigned
ports, scalar ports 80 to 127, and k0, which no move may write (R205). -/
def decodeDest (code : BitVec 12) : Except DecodeError Dest :=
  let unit := (code.extractLsb' 7 5).toNat
  let port := (code.extractLsb' 0 7).toNat
  if unit ≤ 1 then .ok (.vreg (128 * unit + port))
  else if unit == 2 then
    if 80 ≤ port || port == 64 then .error .badRegDest
    else if port < 64 then .ok (.sreg port) else .ok (.kreg (port - 64))
  else if unit == 3 || 0x14 ≤ unit then .error .reservedUnit
  else if port < 4 then
    if (operandPorts unit).contains port then .ok (.operand unit port) else .error .unassignedPort
  else if hasTrigger unit port then .ok (.trigger unit port)
  else .error .unassignedPort

/-- The triggers of a0 and a1 from port 0x04 (R228). -/
def aTriggers : List (BitVec 1 → Mv → Instr) :=
  [.aAdd, .aSub, .aAddc, .aSubb, .aAdds, .aSubs, .aAddsn, .aSubsn, .aAnd, .aOr, .aXor, .aAndn, .aShl, .aShr, .aSar,
   .aRol, .aMin, .aMax, .aMinn, .aMaxn, .aAbs, .aNeg, .aClz, .aPopc, .aBrev, .aSel, .aBext, .aBins, .aAdd64,
   .aSub64, .aPass]

/-- The triggers of m0 from port 0x04 (R229). -/
def m0Triggers : List (Mv → Instr) :=
  [.m0Mul, .m0Mulhi, .m0Mulhin, .m0Mulw, .m0Mad, .m0Lea, .m0Div, .m0Divn]

/-- The triggers of f0 from port 0x04 (R230). -/
def f0Triggers : List (Mv → Instr) :=
  [.f0Add, .f0Sub, .f0Mul, .f0Fma, .f0Fms, .f0Fnma, .f0Min, .f0Max, .f0Abs, .f0Neg, .f0Csgn, .f0Floor, .f0Ceil,
   .f0Trunc, .f0Rint, .f0Cvtif, .f0Cvtnf, .f0Cvtfi, .f0Cvtfn, .f0Cvth, .f0Cvtb, .f0Cvte4, .f0Cvte5, .f0Cvtf4,
   .f0Cvthf, .f0Cvtbf, .f0Cvte4f, .f0Cvte5f, .f0Cvtf4f, .f0Hadd2, .f0Hfma2, .f0Bfma2]

/-- The triggers of f1 from port 0x04 (R230). -/
def f1Triggers : List (Mv → Instr) :=
  [.f1Add, .f1Sub, .f1Mul, .f1Fma, .f1Fms, .f1Fnma, .f1Min, .f1Max, .f1Abs, .f1Neg, .f1Csgn, .f1Floor, .f1Ceil,
   .f1Trunc, .f1Rint, .f1Cvtif, .f1Cvtnf, .f1Cvtfi, .f1Cvtfn, .f1Cvth, .f1Cvtb, .f1Cvte4, .f1Cvte5, .f1Cvtf4,
   .f1Cvthf, .f1Cvtbf, .f1Cvte4f, .f1Cvte5f, .f1Cvtf4f, .f1Hadd2, .f1Hfma2, .f1Bfma2]

/-- The triggers of x0 from port 0x04 (R231). -/
def x0Triggers : List (Mv → Instr) :=
  [.x0Rcp, .x0Rsqrt, .x0Sqrt, .x0Exp2, .x0Log2, .x0Sinpi, .x0Cospi, .x0Tanh, .x0Sigm, .x0Gelu, .x0Fdiv, .x0Twid,
   .x0Rnd, .x0Seed]

/-- The triggers of c0 from port 0x04 (R232). -/
def c0Triggers : List (Mv → Instr) :=
  [.c0Eq, .c0Ne, .c0Lt, .c0Le, .c0Ltn, .c0Len, .c0Feq, .c0Fne, .c0Flt, .c0Fle, .c0Fun, .c0Fcls, .c0Btst, .c0Eq64,
   .c0Lt64, .c0Ltn64]

/-- The triggers of p0 from port 0x04 (R232). -/
def p0Triggers : List (Mv → Instr) :=
  [.p0Idx, .p0Scan, .p0Scanf, .p0Redadd, .p0Redmax, .p0Redmin, .p0Ballot, .p0Popl, .p0Pack8, .p0Unpk8]

/-- The triggers of ld from port 0x04 (R234; pgstate stands apart at 0x30). -/
def ldTriggers : List (Mv → Instr) :=
  [.ldL8, .ldL8n, .ldL16, .ldL16n, .ldL32, .ldL64, .ldS8, .ldS16, .ldS32, .ldS64, .ldFeacq, .ldFerel, .ldFefull]

/-- The triggers of cp from port 0x04 (R235). -/
def cpTriggers : List (Mv → Instr) :=
  [.cpG2s, .cpS2g, .cpS2s, .cpShape, .cpSeal, .cpWait, .cpWptr, .cpBar]

/-- The triggers of q0 from port 0x04 (R236). -/
def q0Triggers : List (Mv → Instr) :=
  [.q0Push, .q0Pop, .q0Trypush, .q0Trypop, .q0Qinit, .q0Qinval]

/-- The triggers of mx from port 0x04 (R237). -/
def mxTriggers : List (Mv → Instr) :=
  [.mxCfg, .mxFmt, .mxGo, .mxWait, .mxPoll, .mxStat, .mxBank, .mxReset]

/-- The triggers of am from port 0x04 (R238). -/
def amTriggers : List (Mv → Instr) :=
  [.amSwap, .amSwap64, .amCas, .amCas64, .amAdd, .amAdd64, .amAnd, .amOr, .amXor, .amMin, .amMax, .amFadd, .amRadd,
   .amRadd64, .amRfadd, .amRmax, .amAcinit, .amActake, .amAcgive, .amAcread, .amAcpeek, .amAcfree]

/-- The triggers of xe from port 0x04 (R239). -/
def xeTriggers : List (Mv → Instr) :=
  [.xeOpen, .xeSend, .xeSel, .xeClose, .xeIdle, .xeClr]

/-- The triggers of sy from port 0x04 (R240). -/
noncomputable def syTriggers : List (Mv → Instr) :=
  [.syJmp, .syBr, .syCall, .syRet, .syMark, .syJoin, .syLoop, .syBrk, .syBar, .syBarar, .syBarwt, .syBarinit,
   .syBarinv, .syCbar, .syCbarar, .syCbarinit, .syCbarinv, .syWait, .syTime, .syTrap, .syChkerr, .sySegchk, .syEnd,
   .syIcinv, .syGstat, .syRfe, .syYield, .syTrec, .syDbg]

/-- The triggers of bf from port 0x04 (R233). -/
def bfTriggers : List (Mv → Instr) :=
  [.bfDit2, .bfDif2, .bfFft4e, .bfFft4o, .bfCmul, .bfCmulc]

/-- The trigger of a unit at a port, where the unit has one (R227). -/
noncomputable def triggerAt (unit port : Nat) : Option (Mv → Instr) :=
  match unit with
  | 0x04 => (aTriggers[port - 4]?).map (· 0)
  | 0x05 => (aTriggers[port - 4]?).map (· 1)
  | 0x06 => m0Triggers[port - 4]?
  | 0x07 => f0Triggers[port - 4]?
  | 0x08 => f1Triggers[port - 4]?
  | 0x09 => x0Triggers[port - 4]?
  | 0x0A => c0Triggers[port - 4]?
  | 0x0B => p0Triggers[port - 4]?
  | 0x0C => if port == 0x30 then some .ldPgstate else ldTriggers[port - 4]?
  | 0x0D => cpTriggers[port - 4]?
  | 0x0E => q0Triggers[port - 4]?
  | 0x0F => mxTriggers[port - 4]?
  | 0x10 => amTriggers[port - 4]?
  | 0x11 => xeTriggers[port - 4]?
  | 0x12 => syTriggers[port - 4]?
  | 0x13 => bfTriggers[port - 4]?
  | _ => none

/-- The source's rows of R224 that the word alone decides. -/
def sourceError (s : BitVec 13) : Option DecodeError :=
  match (s.extractLsb' 11 2).toNat with
  | 0 =>
    let bank := (s.extractLsb' 9 2).toNat
    let idx := (s.extractLsb' 0 7).toNat
    if bank == 3 || s.getLsbD 8 || (bank == 2 && 80 ≤ idx) || (bank ≤ 1 && s.getLsbD 7 && idx % 2 == 1) then
      some .badRegSource
    else none
  | 1 =>
    let unit := (s.extractLsb' 6 5).toNat
    let port := (s.extractLsb' 4 2).toNat
    if unit < 4 || 0x13 < unit || 2 ≤ port || (port == 1 && !unitsWithRb.contains unit) || s.extractLsb' 0 3 != 0 then
      some .badPortSource
    else none
  | 2 => none
  | _ => if s.extractLsb' 0 7 != 0 then some .badExtRef else none

/-- The guard's row of R224 that the word alone decides. -/
def guardError (m : Mv) : Option DecodeError :=
  if !m.g && (m.k != 0 || m.n) then some .badGuard else none

/-- The destination's rows of R224 that the word alone decides. A 64-bit move into an odd vector register is one. -/
def destError (w : W32) : Option DecodeError :=
  match decodeDest (w.extractLsb' 0 12) with
  | .error e => some e
  | .ok (.vreg n) => if srcWide (mvOfWord w).s && n % 2 == 1 then some .badRegDest else none
  | .ok _ => none

/-- The first row of R224 that a move word alone meets, in ascending cause (log 9). -/
def moveError (w : W32) : Option DecodeError :=
  (destError w).or ((sourceError (mvOfWord w).s).or (guardError (mvOfWord w)))

/-- The instruction with this destination code and these other fields. The word constructors beyond the 244th that carry
fields have no run-time form in this Lean, which is the one reason this and the three definitions below are marked
noncomputable: the kernel evaluates them like any other, and exec and step do not call them. -/
noncomputable def instrOfDest (code : BitVec 12) (m : Mv) : Option Instr :=
  match decodeDest code with
  | .error _ => none
  | .ok (.vreg _) => some (.moveVector (code.extractLsb' 7 1) (code.extractLsb' 0 7) m)
  | .ok (.sreg _) | .ok (.kreg _) => some (.moveScalarGuard (code.extractLsb' 0 7) m)
  | .ok (.operand _ _) => some (.moveOperand (code.extractLsb' 7 5) (code.extractLsb' 0 2) m)
  | .ok (.trigger unit port) => (triggerAt unit port).map (· m)

/-- A move word's instruction, or the first row of R224 it meets. -/
noncomputable def decodeMove (w : W32) : Except DecodeError Instr :=
  match moveError w with
  | some e => .error e
  | none =>
    match instrOfDest (w.extractLsb' 0 12) (mvOfWord w) with
    | some i => .ok i
    | none => .error .unassignedPort

/-- The instruction at the head of a list of bytes, and the rest. -/
noncomputable def decodeMoveBytes (bs : List Byte) : Except DecodeError (Instr × List Byte) :=
  match takeWord bs with
  | none => .error .truncated
  | some (w, rest) => (decodeMove w).map (·, rest)

/-- The decoder on a word of the opcode table: the word's bytes as memory holds them, given to the decoder. -/
noncomputable def decodeTableWord (nbits w : Nat) : Option Instr :=
  match decodeMoveBytes (wordBytes (BitVec.ofNat 32 (w % 2 ^ nbits))) with
  | .ok (i, _) => some i
  | .error _ => none

/-! ### The bundle (R211, R212) -/

/-- A header word. -/
structure Header where
  present : BitVec 6
  extn : Nat
  pad : Nat
  clrhold : Bool
  region : BitVec 2
  deriving DecidableEq, Repr

/-- The header of a word, or its row of R224. -/
def decodeHeader (w : W32) : Except DecodeError Header :=
  if w.extractLsb' 15 17 != 0 then .error .headerReserved
  else if w.extractLsb' 13 2 == 3 then .error .headerRegion
  else .ok { present := w.extractLsb' 0 6, extn := (w.extractLsb' 6 2).toNat, pad := (w.extractLsb' 8 4).toNat,
             clrhold := w.getLsbD 12, region := w.extractLsb' 13 2 }

/-- The buses that carry a move word, ascending. -/
def Header.buses (h : Header) : List Nat := (List.range 6).filter h.present.getLsbD

/-- The words of the bundle: 1 + popcount of PRESENT + EXTN (R211). The length does not depend on the reserved bits. -/
def bundleWords (w : W32) : Nat :=
  1 + ((List.range 6).filter w.getLsbD).length + (w.extractLsb' 6 2).toNat

/-- A bundle: its header, the move word of each bus, the extension words. -/
structure Bundle where
  header : Header
  moves : List (Nat × W32)
  ext : List W32
  deriving DecidableEq, Repr

/-- The bundle at the head of a list of bytes, and the rest. The move words are taken as they are: what is wrong with one
is found by `decodeMove` and by what Machine/Operands.lean checks for the group. -/
def decodeBundle (bs : List Byte) : Except DecodeError (Bundle × List Byte) :=
  match takeWord bs with
  | none => .error .truncated
  | some (w, rest) =>
    match decodeHeader w with
    | .error e => .error e
    | .ok h =>
      match takeWords h.buses.length rest with
      | none => .error .truncated
      | some (ms, rest) =>
        match takeWords h.extn rest with
        | none => .error .truncated
        | some (xs, rest) => .ok ({ header := h, moves := h.buses.zip ms, ext := xs }, rest)

/-! ### The encoder -/

/-- The destination code of an instruction with an encoding (R225 to R240). -/
def Instr.dest? : Instr → Option (BitVec 12)
  | .moveVector v r _ => some (0#4 ++ v ++ r)
  | .moveScalarGuard r _ => some (2#5 ++ r)
  | .moveOperand u p _ => some (u ++ 0#5 ++ p)
  | .aAdd u _ => some (2#4 ++ u ++ 0x04#7)
  | .aSub u _ => some (2#4 ++ u ++ 0x05#7)
  | .aAddc u _ => some (2#4 ++ u ++ 0x06#7)
  | .aSubb u _ => some (2#4 ++ u ++ 0x07#7)
  | .aAdds u _ => some (2#4 ++ u ++ 0x08#7)
  | .aSubs u _ => some (2#4 ++ u ++ 0x09#7)
  | .aAddsn u _ => some (2#4 ++ u ++ 0x0A#7)
  | .aSubsn u _ => some (2#4 ++ u ++ 0x0B#7)
  | .aAnd u _ => some (2#4 ++ u ++ 0x0C#7)
  | .aOr u _ => some (2#4 ++ u ++ 0x0D#7)
  | .aXor u _ => some (2#4 ++ u ++ 0x0E#7)
  | .aAndn u _ => some (2#4 ++ u ++ 0x0F#7)
  | .aShl u _ => some (2#4 ++ u ++ 0x10#7)
  | .aShr u _ => some (2#4 ++ u ++ 0x11#7)
  | .aSar u _ => some (2#4 ++ u ++ 0x12#7)
  | .aRol u _ => some (2#4 ++ u ++ 0x13#7)
  | .aMin u _ => some (2#4 ++ u ++ 0x14#7)
  | .aMax u _ => some (2#4 ++ u ++ 0x15#7)
  | .aMinn u _ => some (2#4 ++ u ++ 0x16#7)
  | .aMaxn u _ => some (2#4 ++ u ++ 0x17#7)
  | .aAbs u _ => some (2#4 ++ u ++ 0x18#7)
  | .aNeg u _ => some (2#4 ++ u ++ 0x19#7)
  | .aClz u _ => some (2#4 ++ u ++ 0x1A#7)
  | .aPopc u _ => some (2#4 ++ u ++ 0x1B#7)
  | .aBrev u _ => some (2#4 ++ u ++ 0x1C#7)
  | .aSel u _ => some (2#4 ++ u ++ 0x1D#7)
  | .aBext u _ => some (2#4 ++ u ++ 0x1E#7)
  | .aBins u _ => some (2#4 ++ u ++ 0x1F#7)
  | .aAdd64 u _ => some (2#4 ++ u ++ 0x20#7)
  | .aSub64 u _ => some (2#4 ++ u ++ 0x21#7)
  | .aPass u _ => some (2#4 ++ u ++ 0x22#7)
  | .m0Mul _ => some 0x304
  | .m0Mulhi _ => some 0x305
  | .m0Mulhin _ => some 0x306
  | .m0Mulw _ => some 0x307
  | .m0Mad _ => some 0x308
  | .m0Lea _ => some 0x309
  | .m0Div _ => some 0x30A
  | .m0Divn _ => some 0x30B
  | .f0Add _ => some 0x384
  | .f0Sub _ => some 0x385
  | .f0Mul _ => some 0x386
  | .f0Fma _ => some 0x387
  | .f0Fms _ => some 0x388
  | .f0Fnma _ => some 0x389
  | .f0Min _ => some 0x38A
  | .f0Max _ => some 0x38B
  | .f0Abs _ => some 0x38C
  | .f0Neg _ => some 0x38D
  | .f0Csgn _ => some 0x38E
  | .f0Floor _ => some 0x38F
  | .f0Ceil _ => some 0x390
  | .f0Trunc _ => some 0x391
  | .f0Rint _ => some 0x392
  | .f0Cvtif _ => some 0x393
  | .f0Cvtnf _ => some 0x394
  | .f0Cvtfi _ => some 0x395
  | .f0Cvtfn _ => some 0x396
  | .f0Cvth _ => some 0x397
  | .f0Cvtb _ => some 0x398
  | .f0Cvte4 _ => some 0x399
  | .f0Cvte5 _ => some 0x39A
  | .f0Cvtf4 _ => some 0x39B
  | .f0Cvthf _ => some 0x39C
  | .f0Cvtbf _ => some 0x39D
  | .f0Cvte4f _ => some 0x39E
  | .f0Cvte5f _ => some 0x39F
  | .f0Cvtf4f _ => some 0x3A0
  | .f0Hadd2 _ => some 0x3A1
  | .f0Hfma2 _ => some 0x3A2
  | .f0Bfma2 _ => some 0x3A3
  | .f1Add _ => some 0x404
  | .f1Sub _ => some 0x405
  | .f1Mul _ => some 0x406
  | .f1Fma _ => some 0x407
  | .f1Fms _ => some 0x408
  | .f1Fnma _ => some 0x409
  | .f1Min _ => some 0x40A
  | .f1Max _ => some 0x40B
  | .f1Abs _ => some 0x40C
  | .f1Neg _ => some 0x40D
  | .f1Csgn _ => some 0x40E
  | .f1Floor _ => some 0x40F
  | .f1Ceil _ => some 0x410
  | .f1Trunc _ => some 0x411
  | .f1Rint _ => some 0x412
  | .f1Cvtif _ => some 0x413
  | .f1Cvtnf _ => some 0x414
  | .f1Cvtfi _ => some 0x415
  | .f1Cvtfn _ => some 0x416
  | .f1Cvth _ => some 0x417
  | .f1Cvtb _ => some 0x418
  | .f1Cvte4 _ => some 0x419
  | .f1Cvte5 _ => some 0x41A
  | .f1Cvtf4 _ => some 0x41B
  | .f1Cvthf _ => some 0x41C
  | .f1Cvtbf _ => some 0x41D
  | .f1Cvte4f _ => some 0x41E
  | .f1Cvte5f _ => some 0x41F
  | .f1Cvtf4f _ => some 0x420
  | .f1Hadd2 _ => some 0x421
  | .f1Hfma2 _ => some 0x422
  | .f1Bfma2 _ => some 0x423
  | .x0Rcp _ => some 0x484
  | .x0Rsqrt _ => some 0x485
  | .x0Sqrt _ => some 0x486
  | .x0Exp2 _ => some 0x487
  | .x0Log2 _ => some 0x488
  | .x0Sinpi _ => some 0x489
  | .x0Cospi _ => some 0x48A
  | .x0Tanh _ => some 0x48B
  | .x0Sigm _ => some 0x48C
  | .x0Gelu _ => some 0x48D
  | .x0Fdiv _ => some 0x48E
  | .x0Twid _ => some 0x48F
  | .x0Rnd _ => some 0x490
  | .x0Seed _ => some 0x491
  | .c0Eq _ => some 0x504
  | .c0Ne _ => some 0x505
  | .c0Lt _ => some 0x506
  | .c0Le _ => some 0x507
  | .c0Ltn _ => some 0x508
  | .c0Len _ => some 0x509
  | .c0Feq _ => some 0x50A
  | .c0Fne _ => some 0x50B
  | .c0Flt _ => some 0x50C
  | .c0Fle _ => some 0x50D
  | .c0Fun _ => some 0x50E
  | .c0Fcls _ => some 0x50F
  | .c0Btst _ => some 0x510
  | .c0Eq64 _ => some 0x511
  | .c0Lt64 _ => some 0x512
  | .c0Ltn64 _ => some 0x513
  | .p0Idx _ => some 0x584
  | .p0Scan _ => some 0x585
  | .p0Scanf _ => some 0x586
  | .p0Redadd _ => some 0x587
  | .p0Redmax _ => some 0x588
  | .p0Redmin _ => some 0x589
  | .p0Ballot _ => some 0x58A
  | .p0Popl _ => some 0x58B
  | .p0Pack8 _ => some 0x58C
  | .p0Unpk8 _ => some 0x58D
  | .ldL8 _ => some 0x604
  | .ldL8n _ => some 0x605
  | .ldL16 _ => some 0x606
  | .ldL16n _ => some 0x607
  | .ldL32 _ => some 0x608
  | .ldL64 _ => some 0x609
  | .ldS8 _ => some 0x60A
  | .ldS16 _ => some 0x60B
  | .ldS32 _ => some 0x60C
  | .ldS64 _ => some 0x60D
  | .ldFeacq _ => some 0x60E
  | .ldFerel _ => some 0x60F
  | .ldFefull _ => some 0x610
  | .ldPgstate _ => some 0x630
  | .cpG2s _ => some 0x684
  | .cpS2g _ => some 0x685
  | .cpS2s _ => some 0x686
  | .cpShape _ => some 0x687
  | .cpSeal _ => some 0x688
  | .cpWait _ => some 0x689
  | .cpWptr _ => some 0x68A
  | .cpBar _ => some 0x68B
  | .q0Push _ => some 0x704
  | .q0Pop _ => some 0x705
  | .q0Trypush _ => some 0x706
  | .q0Trypop _ => some 0x707
  | .q0Qinit _ => some 0x708
  | .q0Qinval _ => some 0x709
  | .mxCfg _ => some 0x784
  | .mxFmt _ => some 0x785
  | .mxGo _ => some 0x786
  | .mxWait _ => some 0x787
  | .mxPoll _ => some 0x788
  | .mxStat _ => some 0x789
  | .mxBank _ => some 0x78A
  | .mxReset _ => some 0x78B
  | .amSwap _ => some 0x804
  | .amSwap64 _ => some 0x805
  | .amCas _ => some 0x806
  | .amCas64 _ => some 0x807
  | .amAdd _ => some 0x808
  | .amAdd64 _ => some 0x809
  | .amAnd _ => some 0x80A
  | .amOr _ => some 0x80B
  | .amXor _ => some 0x80C
  | .amMin _ => some 0x80D
  | .amMax _ => some 0x80E
  | .amFadd _ => some 0x80F
  | .amRadd _ => some 0x810
  | .amRadd64 _ => some 0x811
  | .amRfadd _ => some 0x812
  | .amRmax _ => some 0x813
  | .amAcinit _ => some 0x814
  | .amActake _ => some 0x815
  | .amAcgive _ => some 0x816
  | .amAcread _ => some 0x817
  | .amAcpeek _ => some 0x818
  | .amAcfree _ => some 0x819
  | .xeOpen _ => some 0x884
  | .xeSend _ => some 0x885
  | .xeSel _ => some 0x886
  | .xeClose _ => some 0x887
  | .xeIdle _ => some 0x888
  | .xeClr _ => some 0x889
  | .syJmp _ => some 0x904
  | .syBr _ => some 0x905
  | .syCall _ => some 0x906
  | .syRet _ => some 0x907
  | .syMark _ => some 0x908
  | .syJoin _ => some 0x909
  | .syLoop _ => some 0x90A
  | .syBrk _ => some 0x90B
  | .syBar _ => some 0x90C
  | .syBarar _ => some 0x90D
  | .syBarwt _ => some 0x90E
  | .syBarinit _ => some 0x90F
  | .syBarinv _ => some 0x910
  | .syCbar _ => some 0x911
  | .syCbarar _ => some 0x912
  | .syCbarinit _ => some 0x913
  | .syCbarinv _ => some 0x914
  | .syWait _ => some 0x915
  | .syTime _ => some 0x916
  | .syTrap _ => some 0x917
  | .syChkerr _ => some 0x918
  | .sySegchk _ => some 0x919
  | .syEnd _ => some 0x91A
  | .syIcinv _ => some 0x91B
  | .syGstat _ => some 0x91C
  | .syRfe _ => some 0x91D
  | .syYield _ => some 0x91E
  | .syTrec _ => some 0x91F
  | .syDbg _ => some 0x920
  | .bfDit2 _ => some 0x984
  | .bfDif2 _ => some 0x985
  | .bfFft4e _ => some 0x986
  | .bfFft4o _ => some 0x987
  | .bfCmul _ => some 0x988
  | .bfCmulc _ => some 0x989
  | .bundleIssue _ | .padIssue _ | .resultLands _ _ _ _ | .candidatePromotion _ | .yieldExpiry _ | .icinvComplete _
  | .contextEnable _ _ | .contextEnableTakesEffect _ | .contextDisable _ | .dropCommand _ _ | .dropAckTimeout _ _
  | .poolRingProdWrite _ _ | .registerWrite _ _ _ _ | .pageWalkStart _ | .pageWalkComplete _ _ _ | .growthComplete _
  | .notResidentResolved _ _ | .faultlimitExpiry _ | .invalidateVaRange _ _ _ | .invalidateContext _
  | .freeFrameRange _ _ _ | .checkpoint _ _ _ | .debugStop _ _ | .debugResume _ _ _ | .attest _ _ _ | .recoveryImage _
  | .commandComplete | .homeSliceAccess _ _ _ _ _ | .l1WritebackGrant _ _ | .l1Snoop _ _ _
  | .regionInvalidation _ _ _ | .regionInvalidationAck _ _ | .regionMerge _ _ | .epochEnd | .replicaFillComplete _ _
  | .migrationExchangeComplete _ | .collapseRequest _ | .collapseInvalidation _ _ | .collapseAck _ | .unitMerge _
  | .writeIndexAdvance _ | .streamEnable _ _ | .streamResume _ | .streamSkip _ | .launchStart _ | .armedFire _
  | .dependenceAbort _ | .workgroupCreate _ | .gangReservationTimeout _ | .workgroupRetire _ | .launchComplete _
  | .timeSliceExpiry _ | .driverPreempt _ _ | .workgroupSave _ | .workgroupRestore _ _ _ | .powerGating _ _
  | .thermalLimit _ | .attemptEnd _ | .ticketTake _ | .commit _ | .commitPrepare _ _ | .prepareAck _
  | .commitRelease _ _ | .completionWordWrite _ | .capacityStallRelease _ | .txstallExpiry _ | .fold _
  | .attemptAbort _ | .coveredRequest _ | .coveredResponse _ | .retransmitTimer _ | .operationTimeout _
  | .quietExpiry _ | .watermarkNoticeTimer _ _ | .watermarkNotice _ | .resultEntryRetire _ _ _ | .packetAgeDrop _
  | .homeRestart _ | .incarnationUpdate _ _ _ | .counterGrantRequest _ | .counterGrant _ _ | .counterRecall _ _ _
  | .counterReturn _ | .counterPoisoned _ | .storePerformed _ _ _ | .copyElement _ _ _ | .copyPhobosTakeover _ _
  | .queueOpPerformed _ | .phaseOpenComplete _ | .phaseTimeout _ | .barrierArrivalPerformed _ | .waitTimeout _
  | .mxCommandStart _ | .mxStep _ _ | .mxCommandComplete _ | .mxOvertime _ | .mxBankZeroed _ _
  | .impreciseTrapDelivery _ | .heldTrapDelivery _ | .masterFreeze _ | .functionLevelReset _ | .peerLinkReset _
  | .engineReset _ | .slotReset _ _ | .hostAccess _ _ | .cxlMemAccess _ | .peerRequest _ _ | .linkPortFailure _
  | .flitReplay _ | .linkFlowControl _ _ _ | .ppsEdge _ | .timeadj _ | .timeset _ | .holdover | .firmwareBoot _
  | .deviceReset _ | .fetchRedirectionEnd _ | .trapEntryComplete _ | .routingBringUp _ _ _ | .cxlCacheSnoop _ _ => none

/-- The word of an instruction; the steps of the device have none. -/
def encode (i : Instr) : Option W32 :=
  match i.mv?, i.dest? with
  | some m, some d => some (mvWord m d)
  | _, _ => none

/-- The bytes of an instruction as memory holds them. -/
def encodeBytes (i : Instr) : Option (List Byte) := (encode i).map wordBytes

end Sys2Proof
end

