-- ==== Sys2Proof/Machine/State.lean ====
section
/-!
DEFINITION. State: everything the manual gives the machine, as plain data. INVENTORY.md lists each field with its rule
and its value at reset. Lists hold only what exists or differs from its reset value; the accessors of Machine/Ops.lean
supply the reset value of what is not listed.
-/

namespace Sys2Proof.Machine

/-- Why a step stops with a fault: there is no reason. Traps, refused accesses, and what a data race leaves undefined (R94), are
next states. -/
inductive Fault where
  deriving DecidableEq, Repr

/-- Why a step is refused. -/
inductive Refusal where
  /-- Raised by exec for an instruction without a meaning. Safe: the model stops. -/
  | notModelled (mnemonic : String)
  deriving DecidableEq, Repr

/-! ### Memory -/

/-- Bytes at addresses, strictly rising, no byte equal to zero, which is what an unlisted address reads as (log 4). -/
abbrev Memory := List Host.Cell

/-- The ordering kind of an access (R84). -/
inductive OrdKind where
  | s | r | u
  deriving DecidableEq, Repr

/-- Where a piece of an access goes: a physical address with what its leaf says, or a byte of a workgroup's scratchpad. -/
inductive Target where
  | phys (pa : Nat) (kind : OrdKind) (t : Bool) (c : Bool)
  | scratch (wg off : Nat)
  deriving DecidableEq, Repr

/-- One naturally aligned piece of an access (R83, R299): bytes off to off + len − 1 of the access. It may have left its
queue, travelling to a home or waiting there, before it is done. -/
structure Piece where
  target : Target
  off : Nat
  len : Nat
  sent : Bool
  done : Bool
  /-- how it ended (R160): 0 DONE, 0x01 and 0x02 the causes of R308, otherwise the status -/
  status : Nat
  /-- serial of the covered operation it travels as (R145), and its incarnation stamp -/
  serial : Option Nat
  stamp : Nat
  deriving DecidableEq, Repr

/-- A piece as it enters its queue. -/
def Piece.new (target : Target) (off len : Nat) : Piece :=
  { target := target, off := off, len := len, sent := false, done := false, status := 0, serial := none, stamp := 0 }

/-- The operations of the am unit (R306, R309). -/
inductive AmOp where
  | swap | cas | add | band | bor | bxor | min | max | fadd
  | radd | rfadd | rmax
  | acinit | actake | acgive | acread | acpeek | acfree
  deriving DecidableEq, Repr

/-- The three fences (R87). -/
inductive FenceKind where
  | acq | rel | full
  deriving DecidableEq, Repr

/-- What an entry of the ld, st or am queue does. -/
inductive MemOp where
  | load (signed : Bool)
  | store
  | fence (k : FenceKind) (scope : Nat)
  | pgstate
  | atomic (op : AmOp)
  deriving DecidableEq, Repr

/-- a fence, which touches no memory of its own -/
def MemOp.isFence : MemOp → Bool
  | .fence _ _ => true
  | .load _ | .store | .pgstate | .atomic _ => false

/-- One lane's operation of a queue entry. -/
structure LaneOp where
  lane : Nat
  va : W64
  pieces : List Piece
  t : W64
  b : W64
  /-- SCOPE and MARK of its access-control word (R298) -/
  scope : Nat
  mark : Bool
  val : W64
  flag : Bool
  poison : Bool
  /-- performed at its home -/
  done : Bool
  /-- landed in its result port, or acknowledged -/
  landed : Bool
  deriving DecidableEq, Repr

/-- An entry of the ld, st or am queue (R210), with its place in group order (R82). -/
structure MemEntry where
  id : Nat
  op : MemOp
  size : Nat
  pc : W32
  lanes : List LaneOp
  popped : Bool
  deriving DecidableEq, Repr

/-- One piece of one lane of one entry. -/
structure PieceRef where
  g : GRef
  q : QSel
  id : Nat
  lane : Nat
  piece : Nat
  deriving DecidableEq, Repr

/-- A store that was performed while earlier writes of its group were outstanding: who made it, its place in group order, and
the scopes of the release that is still to come, its own Rel's and a pending fence's (R87, R88, R107). -/
structure EarlyStore where
  by_ : GRef
  id : Nat
  lane : Nat
  p : Piece
  rel : Option Nat
  fence : Option Nat
  deriving DecidableEq, Repr

/-! ### Lanes and groups -/

/-- The state of one lane (R201, R258). -/
structure Lane where
  vregs : List W32
  vfull : List Bool
  /-- registers whose stored bits hold an uncorrectable error: a read delivers 0 and consumes poison (R408, log 27) -/
  vbad : List Nat
  /-- the 34 operand ports in ascending destination code (R405) -/
  opnd : List W64
  /-- the 19 visible result ports (R405) -/
  res : List W64
  gen : W64
  regionGen : W64
  deriving DecidableEq, Repr

/-- The four kinds of a mark-join entry (R336). -/
inductive MJKind where
  | rejoin | pending | callJoin | callPend
  deriving DecidableEq, Repr

/-- An entry of the mark-join stack (R336). -/
structure MJEntry where
  kind : MJKind
  addr : W32
  mask : Mask
  deriving DecidableEq, Repr

/-- An entry of the return-address stack (R339). -/
structure RetEntry where
  ra : W32
  depth : Nat
  ser : Bool
  deriving DecidableEq, Repr

/-- The hardware loop (R340). -/
structure LoopState where
  active : Bool
  s0 : Nat
  len : Nat
  stages : Nat
  n : Nat
  b : Nat
  u : Nat
  j : Nat
  deriving DecidableEq, Repr

/-- A hold latch (R218, R403): the move word, the value of the extension words it names, its guard register. -/
structure Latch where
  word : W32
  ext : W64
  guard : BitVec 4
  deriving DecidableEq, Repr

/-- A result of a fixed-latency unit that is not yet visible, with its remaining issues (R208). -/
structure Staged where
  unit : Nat
  rem : Nat
  lanes : Mask
  r : Option (List W64)
  rb : Option (List W64)
  /-- triggered before the last resume (R209) -/
  old : Bool
  deriving DecidableEq, Repr

/-- An entry of a queued result port (R206). -/
structure REntry where
  id : Nat
  vals : List W64
  full : Mask
  poison : Mask
  flags : Mask
  deriving DecidableEq, Repr

/-- A result on its way to cp.r or mx.r (R206): its place in group order, the lanes that are empty until it lands, and its value;
or, for a write pointer, the trigger value that names the channel, which is read when the result lands (R101, R316). -/
structure VarRes where
  port : RPort
  id : Nat
  lanes : Mask
  val : W64
  ask : Option W64
  deriving DecidableEq, Repr

/-- A register lane a deferred move has left to be filled (R207). -/
structure Deferred where
  port : RPort
  id : Nat
  lane : Nat
  reg : Nat
  /-- the register takes the high half of a 64-bit value -/
  hi : Bool
  deriving DecidableEq, Repr

/-- The comparison codes of sy.wait and ARMCMP (R348, R177). -/
inductive WakeCmp where
  | eq | ne | ge | lt
  deriving DecidableEq, Repr

/-- Why a group is not a candidate (R194, R192, R335, R356, R396). A bundle that cannot pass step 3 of R221 waits at
the bundle and holds no wait record. The last number of a synchronisation event is its place in group order (R82). -/
inductive Wait where
  /-- a push or pop that has not been performed -/
  | queueOp (id : Nat)
  /-- a barrier arrival that has not been performed; stay: wait for the phase afterwards -/
  | barArrive (cluster : Bool) (n : Nat) (stay : Bool) (ord : Nat)
  /-- a barrier phase: until PHASE differs from token -/
  | barPhase (cluster : Bool) (n : Nat) (token : Bool) (ord : Nat)
  | batch (n ord : Nat)
  | wake (va : W64) (pa : Nat) (cmp : WakeCmp) (v : W64) (deadline : Option Nat) (ord : Nat)
  | mxWait (n : Nat) (lanes : Mask) (ord : Nat)
  | mxBank (bank : Nat)
  | mxReset
  | xeOpen (v : W64)
  | icinv (va : W64) (len : Nat)
  /-- until the clocked time named (R356) -/
  | yield (till : Nat)
  | redirect
  | trapEntry
  | translate
  /-- the core keeps 32 misses outstanding: the slot stands still until one completes (R40) -/
  | missRoom
  | growth
  | debug
  deriving DecidableEq, Repr

/-- A trap or fault before its record is written (R392, R394). -/
structure TrapInfo where
  code : Nat
  cause : Nat
  bus : Nat
  imprecise : Bool
  exited : Bool
  held : Bool
  lane : Nat
  pc : W32
  addr : W64
  info0 : W64
  info1 : W64
  lanes : Mask
  time : Nat
  cause2 : Nat
  deriving DecidableEq, Repr

/-- The state recorded at the entry of an idempotent region (R412). -/
structure Region where
  pc : W32
  k : List W64
  loop : LoopState
  latches : List (Option Latch)
  mjDepth : Nat
  rasDepth : Nat
  segCount : Nat
  segSig : W32
  deriving DecidableEq, Repr

/-- A shape slot: operands a to d of the cp.shape that wrote it (R310). -/
structure Shape where
  a : W64
  b : W64
  c : W64
  d : W64
  deriving DecidableEq, Repr

/-- One copy of a channel (R311): where it reads and writes, its shape, and the next element. -/
structure CopyJob where
  trig : Nat
  pc : W32
  lane : Nat
  src : W64
  dst : W64
  n0 : Nat
  n1 : Nat
  n2 : Nat
  s1 : Int
  s2 : Int
  d1 : Int
  d2 : Int
  esize : Nat
  tr : Bool
  rho : Nat
  /-- the barrier the copied bytes count at: cluster flag and number -/
  bar : Option (Bool × Nat)
  /-- the batch number once sealed, 0 while the batch is open -/
  batch : Nat
  next : Nat
  /-- Phobos has taken over (R315) -/
  phobos : Bool
  deriving DecidableEq, Repr

/-- A copy channel (R313, R316). -/
structure Channel where
  jobs : List CopyJob
  written : Nat
  deriving DecidableEq, Repr

/-- What a cp queue entry holds its place for (R210, R310 to R317). -/
inductive CpHold where
  | copy (trig : Nat)
  | seal (batch : Nat)
  | wait (n : Nat)
  deriving DecidableEq, Repr

/-- The operations of the queue unit (R322). -/
inductive QKind where
  | push | pop | trypush | trypop | qinit | qinval
  deriving DecidableEq, Repr

/-- A queue operation of a group that has not been performed (R323). -/
structure QOp where
  id : Nat
  kind : QKind
  /-- the trigger value that names the queue (R320) -/
  name : W64
  handle : W32
  lanes : Mask
  /-- it has reached its queue, and it has been performed there -/
  arrived : Bool
  done : Bool
  /-- its result has been popped, before it was performed (R207) -/
  popped : Bool
  deriving DecidableEq, Repr

/-- A home slice this requester slot has had a response from (R151). -/
structure Tracked where
  home : HomeId
  slice : Nat
  since : Nat
  deriving DecidableEq, Repr

/-- A group (R200, R202, R210) where it is resident, or as its image holds it. -/
structure Group where
  gi : Nat
  slot : Nat
  entry : Nat
  col : Nat
  row : Nat
  seg : Nat
  ended : Bool
  pc : W64
  sregs : List W64
  kregs : List W64
  /-- scalar and guard registers whose read finds an uncorrectable error (R408) -/
  sbad : List Nat
  kbad : List Nat
  /-- mark-join stack, top first -/
  mj : List MJEntry
  /-- on-chip return-address stack, top first -/
  ras : List RetEntry
  spilled : Nat
  loop : LoopState
  check : W64
  latches : List (Option Latch)
  il : Bool
  handler : Bool
  promoted : Bool
  /-- how long it has been a candidate without issuing, in clocked time (R192) -/
  waited : Nat
  /-- a pre-emption has been requested: an active loop drains (R195, R343) -/
  draining : Bool
  /-- remaining pad issues, and the program counter fetched after them when a transfer was made -/
  pad : Nat
  target : Option W64
  /-- the bundle whose pad is running: where it starts and how many bytes it has -/
  padPc : W64
  padLen : Nat
  /-- the same, with the transfer's target, of the bundle that a handler interrupted before its end check (R391, R397) -/
  trapPad : Option (W64 × Nat × Option W64)
  /-- the target is a changed resume address: the end check of the interrupted bundle is made in spite of it (R397) -/
  endDue : Bool
  lanes : List Lane
  staged : List Staged
  x0cnt : Nat
  ldr : List REntry
  amr : List REntry
  q0r : List REntry
  deferred : List Deferred
  /-- am.rb lanes still to be filled, by entry (R207) -/
  rbPend : List (Nat × Nat)
  varPend : List VarRes
  amrbFull : Mask
  cpFull : Mask
  mxFull : Mask
  xeFull : Mask
  ldq : List MemEntry
  stq : List MemEntry
  amq : List MemEntry
  cpq : List CpHold
  q0q : List QOp
  /-- next number in group order, also the id of queue entries (R82) -/
  ord : Nat
  shapes : List Shape
  chans : List Channel
  nextBatch : Nat
  /-- numbers of the sealed batches that are not finished, oldest first (R314) -/
  batches : List Nat
  segCount : Nat
  segSig : W32
  region : Option Region
  xeIdle : Bool
  xeBroken : Bool
  xeUnmatched : Nat
  /-- the phase it takes part in and the next phase cycle (R325) -/
  phase : Option (Nat × Nat)
  ident : Nat
  nextSer : Nat
  tracked : List Tracked
  waits : List Wait
  pend : List TrapInfo
  held : List TrapInfo
  /-- traps it has held so far: the place of the next in the held area, modulo 16 (R398) -/
  heldNext : Nat
  lastRec : Option (List W64)
  /-- a debugger stop has been requested (R356, R407) -/
  dbgReq : Option W64
  /-- the group has reached its stop point of a pre-emption (R195) -/
  stopped : Bool
  /-- clock at its last sample of the time, and the issues it has made since: each takes a cycle or more (R349) -/
  sampledAt : Nat
  issues : Nat
  deriving DecidableEq, Repr

/-! ### Workgroups, gangs, phases -/

/-- A queue operation waiting at its queue: who, which operation (R322). -/
structure QWait where
  g : GRef
  op : QOp
  deriving DecidableEq, Repr

/-- A named queue (R320, R321): its slots lie in the owner's scratchpad from byte base. -/
structure Queue where
  valid : Bool
  base : Nat
  depth : Nat
  head : Nat
  tail : Nat
  waiting : List QWait
  deriving DecidableEq, Repr

/-- A barrier (R344). -/
structure Barrier where
  valid : Bool
  n : Nat
  rem : Nat
  bytes : Int
  phase : Bool
  deriving DecidableEq, Repr

/-- The states of a command slot (R360). -/
inductive SlotSt where
  | free | opened | ready | running
  deriving DecidableEq, Repr

/-- A command slot of the nest table (R359 to R361, R377). -/
structure NSlot where
  st : SlotSt
  words : List W32
  seq : Nat
  tag : Nat
  /-- the group whose go sealed it, the go's place in its group order, its bundle, and the order of go triggers -/
  byGroup : Nat
  ord : Nat
  pc : W32
  order : Nat
  deriving DecidableEq, Repr

/-- The matrix state of a workgroup (R359, R377, R379, R386). -/
structure Nest where
  slots : List NSlot
  last : List W32
  cmdSeq : Nat
  doneSeq : Nat
  faulted : Bool
  fault : List W64
  zeroing : List Nat
  /-- the engine is executing the RUNNING command, and the steps of it that are done -/
  active : Bool
  steps : Nat
  /-- clock at which the engine started it (R384) -/
  began : Nat
  deriving DecidableEq, Repr

/-- A workgroup (R174). -/
structure Workgroup where
  wid : Nat
  lid : Nat
  ctx : Nat
  num : Nat
  core : CoreId
  /-- gang number of the launch and member index -/
  gang : Option Nat
  member : Nat
  created : Nat
  residentSince : Nat
  scratchSize : Nat
  scratchBase : Nat
  scratch : Memory
  /-- the 8-byte words of the scratchpad, and the accumulator elements, whose data reports an uncorrectable error (R303, R387) -/
  scratchBad : List Nat
  accumBanks : List Nat
  accum : List (Nat × W32)
  accumBad : List Nat
  queues : List Queue
  bars : List Barrier
  nest : Nest
  groups : List Group
  /-- switched out: its state stands for the image (R401) -/
  out : Bool
  /-- a pre-emption is requested (R195) -/
  preempt : Bool
  /-- its groups have stopped and their outstanding covered operations are waited for: since when (R157) -/
  saveFrom : Option Nat
  /-- retired: its resources are free, its groups' stores still complete (R191) -/
  retired : Bool
  deriving DecidableEq, Repr

/-- A gang: its cluster barriers (R344) and its members' workgroups in member order. -/
structure Gang where
  lid : Nat
  num : Nat
  die : Nat
  members : List Nat
  bars : List Barrier
  deriving DecidableEq, Repr

/-- A send of an Encke phase (R326). -/
structure XeSend where
  cycle : Nat
  core : Nat
  tag : Nat
  wires : List W32
  deriving DecidableEq, Repr

/-- An Encke phase (R324 to R328). -/
structure Phase where
  pid : Nat
  die : Nat
  mask : Nat
  members : List (Nat × GRef)
  sends : List XeSend
  closed : List (Nat × Nat)
  broken : Bool
  deriving DecidableEq, Repr

/-! ### Cores: translation, firmware faults, caches -/

/-- A translation buffer entry: a valid leaf with its level (R38). -/
structure TbEntry where
  ctx : Nat
  /-- first virtual address of the page -/
  base : Nat
  level : Nat
  leaf : W64
  deriving DecidableEq, Repr

/-- A miss outstanding to the die's walkers (R40): the page VA[55:16], the waiting group, or the copy channel of it that waits,
and a faulting walk's code. -/
structure Miss where
  ctx : Nat
  page : Nat
  slot : Nat
  g : GRef
  chan : Option Nat
  fault : Option Nat
  deriving DecidableEq, Repr

/-- A walk request of a die (R41). -/
structure Walk where
  ctx : Nat
  page : Nat
  running : Bool
  deriving DecidableEq, Repr

/-- A firmware-serviced fault that stops a core (R45). -/
structure FwFault where
  code : Nat
  g : GRef
  ctx : Nat
  /-- the page-mapped address -/
  va : Nat
  since : Nat
  expired : Bool
  /-- Phobos has taken the copy over and the core runs on (R315) -/
  taken : Bool
  /-- the copy channel when a copy met it (R315) -/
  chan : Option Nat
  deriving DecidableEq, Repr

/-- The states of an L1 line (R56). -/
inductive L1St where
  | m | o | e | s
  deriving DecidableEq, Repr

/-- A line of an L1 with its view: 0 committed, otherwise a version (R80). -/
structure L1Line where
  line : Nat
  view : Nat
  ctx : Nat
  st : L1St
  deriving DecidableEq, Repr

/-- An entry of a victim buffer (R57). -/
structure Victim where
  line : Nat
  dirty : Bool
  deriving DecidableEq, Repr

/-- A line of the code cache: the context that filled it, the bytes it was filled with, and what memory has held there since,
oldest first (R58). -/
structure CodeLine where
  line : Nat
  ctx : Nat
  bytes : List Byte
  past : List (List Byte)
  deriving DecidableEq, Repr

/-- A core. Only cores with something to hold are listed. -/
structure Core where
  id : CoreId
  slotTb : List (Nat × TbEntry)
  tb : List TbEntry
  misses : List Miss
  fw : List FwFault
  l1 : List L1Line
  victims : List Victim
  code : List CodeLine
  copyFrozen : Bool
  slotsFrozen : List Nat
  /-- launch and die order for which this core is reserved (R189) -/
  reservedFor : Option Nat
  deriving DecidableEq, Repr

/-- A line of an L2 slice (R63, R80). -/
structure L2Line where
  at_ : SliceId
  set : Nat
  way : Nat
  line : Nat
  view : Nat
  ctx : Nat
  rrpv : Nat
  remote : Bool
  deriving DecidableEq, Repr

/-- A region-directory entry of a home slice (R64). -/
structure RegionEntry where
  at_ : SliceId
  base : Nat
  size : Nat
  mask : BitVec 4
  lastFill : Nat
  lastSplit : Nat
  deriving DecidableEq, Repr

/-- A region invalidation under way: the half to be dropped and the dies still to acknowledge (R64). -/
structure RegionInval where
  at_ : SliceId
  base : Nat
  size : Nat
  half : Nat
  halfSize : Nat
  /-- the line written, and the die that writes it -/
  line : Nat
  byDie : Nat
  awaited : List Nat
  deriving DecidableEq, Repr

/-! ### Charon -/

/-- The states of a part (R70). -/
inductive PartSt where
  | single | readDup | migrating | collapsing
  deriving DecidableEq, Repr

/-- The placement of a leaf (R32 PM). -/
inductive Placement where
  | auto | pinned | interleaved
  deriving DecidableEq, Repr

/-- A leaf walk that Charon has learnt of: the parts the leaf maps and what it says of them (R76). Of walks that say the same
of the same parts the latest is kept. -/
structure LeafWalk where
  ctx : Nat
  base : Nat
  count : Nat
  epoch : Nat
  order : Nat
  pm : Placement
  pd : Nat
  rd : Bool
  deriving DecidableEq, Repr

/-- Charon's record of a 64 KiB part (R68 to R77). -/
structure Part where
  num : Nat
  home : Nat
  st : PartSt
  /-- dies that hold a usable copy, the home excluded, with the reserve frame of each -/
  copies : List (Nat × Nat)
  /-- the same for dies whose copy is being filled -/
  filling : List (Nat × Nat)
  reads : List Nat
  writes : List Nat
  extReads : Nat
  extWrites : Nat
  /-- the reads of the epoch just ended, which a new copy's frame is decided by (R72) -/
  lastReads : List Nat
  /-- a counted write of the epoch that is one for R70: any but an attempt's into its overlay (R131) -/
  wrote : Bool
  /-- a collapse request is on its way to the home (R74) -/
  requested : Bool
  /-- dies whose acknowledgement a collapse awaits -/
  awaited : List Nat
  partner : Option Nat
  deriving DecidableEq, Repr

/-- A 2 MiB unit (R68): whether it is split, and the time of its last write. -/
structure PUnit where
  num : Nat
  split : Bool
  lastWrite : Nat
  deriving DecidableEq, Repr

/-! ### Contexts, streams, launches -/

/-- A held write of EN = 1 (R144). -/
structure HeldEnable where
  wrapped : Option Nat
  deriving DecidableEq, Repr

/-- A fault report (R393): the context's and the words of its record. -/
structure Report where
  ctx : Nat
  words : List W64
  deriving DecidableEq, Repr

/-- A context (R11, R12, R118, R144, R423, R425). -/
structure Context where
  num : Nat
  en : Bool
  root : Nat
  ringBase : Nat
  ringSize : Nat
  lowWater : Nat
  prod : Nat
  cons : Nat
  faultLimit : Nat
  stallNs : Nat
  spare : List Nat
  /-- current table frame and the next free offset in it (R447) -/
  tableFrame : Option (Nat × Nat)
  lowRaised : Bool
  /-- high-water marks: segment, pages of its group area, pages of its lane area (R24) -/
  segMarks : List (Nat × Nat × Nat)
  heldEn : Option HeldEnable
  /-- when EN last went from 1 to 0 -/
  disabledAt : Option Nat
  awaitSlices : List SliceId
  awaitPeers : List Nat
  /-- those of them that were silent for 100 ms (R144) -/
  givenUp : List Nat
  key : Option Nat
  cTicket : Nat
  cVer : Nat
  quota : Nat
  used : Nat
  nextVer : Nat
  nextTicket : Nat
  aborts : Nat
  commits : Nat
  /-- next serial by requester position (R144), 0 when not listed -/
  serials : List (Nat × Nat)
  repBase : W64
  repSize : Nat
  repProd : Nat
  repCons : Nat
  debugger : Bool
  /-- its execution contains a data race: what its memory accesses do is undefined from there on (R94) -/
  raced : Bool
  deriving DecidableEq, Repr

/-- A launch record (R177), its fields as numbers. -/
structure LaunchRec where
  ntxn : Bool
  policy : Bool
  retry : Nat
  persist : Bool
  armed : Bool
  rearm : Bool
  consume : Bool
  overlap : Bool
  flushH : Bool
  divTrap : Bool
  txStall : Nat
  width : Nat
  groups : Nat
  vregs8 : Nat
  gang : Nat
  accum : Nat
  nbar : Nat
  ncbar : Nat
  stagger : Nat
  dieMask : Nat
  priv : Nat
  armCmp : Nat
  scratch : Nat
  argSize : Nat
  gridX : Nat
  gridY : Nat
  gridZ : Nat
  code : W64
  entry : Nat
  waitKind : Nat
  waitStream : Nat
  args : W64
  doneWord : W64
  waitSeq : Nat
  waitAddr : W64
  armAddr : W64
  armVal : W64
  deriving DecidableEq, Repr

/-- What the front end reads of a code object's header and of the argument block (R179, R180). -/
structure CodeHdr where
  textLen : Nat
  textOff : Nat
  qdepths : List Nat
  userVa : W64
  affinity : List (W64 × Nat)
  deriving DecidableEq, Repr

/-- A checked head record (R176, R182, R184). -/
structure Head where
  lrec : LaunchRec
  hdr : CodeHdr
  /-- the previous firing of a REARM record whose completion word is awaited -/
  prev : Option Nat
  deriving DecidableEq, Repr

/-- The states of a stream (R175). -/
inductive StreamSt where
  | idle | active | halted
  deriving DecidableEq, Repr

/-- A stream (R175, R183). -/
structure Stream where
  num : Nat
  en : Bool
  ctx : Nat
  prio : Nat
  ringLog2 : Nat
  st : StreamSt
  err : Nat
  ringVa : W64
  wridxVa : W64
  rdIdx : Nat
  head : Option Head
  /-- the address of a page in the host-attached tier that the read of the head record waits for, and since when (R45) -/
  absent : Option (Nat × Nat)
  /-- the launch that started last in the stream -/
  last : Option Nat
  statuses : List (Nat × Nat)
  deriving DecidableEq, Repr

/-- The states of an attempt (R138); a non-transactional launch is running, aborting (R193) or done. -/
inductive LPhase where
  | queued | running | ended | ticketed | committing | committed | aborting | done
  deriving DecidableEq, Repr

/-- A launch (R174, R138). -/
structure Launch where
  lid : Nat
  stream : Nat
  seq : Nat
  ctx : Nat
  lrec : LaunchRec
  hdr : CodeHdr
  phase : LPhase
  retries : Nat
  version : Nat
  ticket : Option Nat
  /-- the place of the attempt's end among those of the launches that stand (R124) -/
  endOrder : Nat
  startCut : Nat
  rank : List Nat
  nextWg : Nat
  retired : Nat
  /-- cores on which a workgroup of it started and when (R186) -/
  starts : List (CoreId × Nat)
  status : Option Nat
  /-- dies that have received the prepare, and the release -/
  prepared : List Nat
  released : List Nat
  reservedAt : Option Nat
  /-- since when a workgroup of it, or of its context at its priority, waits for a core (R196) -/
  waitSince : Option Nat
  /-- since when Phobos serves the page of its completion word (R45, R137) -/
  doneSince : Option Nat
  deriving DecidableEq, Repr

/-- An overlay entry (R120), or a ghost mask when it has no frame (R130). -/
structure Overlay where
  ctx : Nat
  lid : Nat
  ver : Nat
  ticket : Option Nat
  part : Nat
  frame : Option Nat
  lines : List Nat
  bytes : List Nat
  discarded : Bool
  pending : Bool
  deriving DecidableEq, Repr

/-- A write stalled for overlay capacity (R132, R448), oldest first. -/
structure Stall where
  lid : Nat
  ctx : Nat
  part : Nat
  since : Nat
  deriving DecidableEq, Repr

/-! ### Covered operations and counters -/

/-- The states of a covered operation (R153). -/
inductive OpSt where
  | sent | draining | quiet
  deriving DecidableEq, Repr

/-- A store, atomic or reduction as its home performs it: requester's core and context, the launch whose overlay it goes to, address,
bytes, and the data: am is none for a store. -/
structure HomeOp where
  ctx : Nat
  core : CoreId
  own : Option Nat
  /-- the attempt's version (R134) -/
  ver : Nat
  pa : Nat
  len : Nat
  kind : OrdKind
  c : Bool
  am : Option AmOp
  t : W64
  b : W64
  deriving DecidableEq, Repr

/-- Who reads and writes memory from outside: a virtual function, a peer, the host by CXL.mem (R415, R418, R423). -/
inductive ExtSource where
  | vf (n : Nat)
  | peer (n : Nat)
  | cxlMem
  deriving DecidableEq, Repr

/-- An access from outside at its home, with its context, when it has one, the physical addresses of its bytes, and what a covered
request of a peer carries. -/
structure ExtWait where
  src : ExtSource
  ctx : Option Nat
  pas : List Nat
  kind : ExtKind
  head : Option CovHead
  deriving DecidableEq, Repr

/-- What a covered operation does at its home. -/
inductive OpBody where
  /-- a lane's piece of a queue entry -/
  | access (p : PieceRef) (op : HomeOp)
  /-- a die allowance cache asks its counter's home for an amount, for a take of n (R164, R169) -/
  | grant (word n need : Nat) (p : PieceRef)
  /-- an amount goes home from a die allowance cache; p is the give that waits for its status (R166, R168, R169) -/
  | giveBack (word amount : Nat) (p : Option PieceRef)
  /-- an operation of another device at a home of this one (R419) -/
  | peer (x : ExtWait)
  deriving DecidableEq, Repr

/-- A covered operation of another device that a home of this one has been sent and has not answered for good (R139, R149). -/
structure PeerOp where
  ref : OpRef
  x : ExtWait
  deriving DecidableEq, Repr

/-- A covered operation that has no final response (R146, R152). -/
structure CovOp where
  ref : OpRef
  ctx : Nat
  die : Nat
  home : HomeId
  slice : Nat
  stamp : Nat
  pred : Option Nat
  body : OpBody
  st : OpSt
  /-- when its present timer runs out (R152, R153) -/
  due : Nat
  firstSent : Nat
  lastSent : Nat
  interval : Nat
  answered : Bool
  nonBusy : Bool
  incCause : Bool
  deriving DecidableEq, Repr

/-- What a packet carries (R148, R149, R151). -/
inductive PktKind where
  | request (stamp : Nat) (pred : Option Nat) (wm : Nat)
  | answer (status : Nat) (val : W64) (flag : Bool) (busy : Bool)
  | notice (wm : Nat)
  deriving DecidableEq, Repr

/-- A packet in flight (R141). -/
structure Packet where
  pid : Nat
  ref : OpRef
  home : HomeId
  slice : Nat
  /-- the fabric port it goes by, when its home is on another device (R417) -/
  port : Option Nat
  sentAt : Nat
  kind : PktKind
  deriving DecidableEq, Repr

/-- A result-cache entry (R149). -/
structure RCEntry where
  home : HomeId
  slice : Nat
  ref : OpRef
  inc : Nat
  status : Nat
  val : W64
  flag : Bool
  retire : Option Nat
  deriving DecidableEq, Repr

/-- The states of a counter's home entry (R173). -/
inductive CtrSt where
  | live | frozen | poisoned
  deriving DecidableEq, Repr

/-- Whom the home of a counter answers: a lane's piece, or a die's take, on its own die; or a covered operation. -/
inductive Asker where
  | lane (p : PieceRef)
  | op (ref : OpRef)
  deriving DecidableEq, Repr

/-- What a request waiting at a counter's home asks for (R163, R165). -/
inductive CtrReq where
  /-- a die asks for `need` on behalf of a take of n -/
  | grant (die n need : Nat) (by_ : Asker)
  /-- an operation sent to the home, with its operands -/
  | op (o : AmOp) (t b : W64) (die : Nat) (by_ : Asker)
  deriving DecidableEq, Repr

/-- A take, or a give behind one, that waits at a die in the order of arrival (R164): its word, core, amount and piece, the time of
the core's request for a refill, once it has made one, whether the die has asked the home for it, and the grant that has reached the
die. -/
structure TakeWait where
  die : Nat
  word : Nat
  ctx : Nat
  core : Nat
  n : Nat
  give : Bool
  p : PieceRef
  since : Option Nat
  asked : Bool
  granted : Option Nat
  deriving DecidableEq, Repr

/-- A die's part of a counter: free part F and grant size S_d (R162, R166). -/
structure DieAllow where
  die : Nat
  f : Nat
  sd : Nat
  lastGrant : Option Nat
  deriving DecidableEq, Repr

/-- A core's allowance of a counter: C, S_c, time of its previous request (R162, R166). -/
structure CoreAllow where
  core : CoreId
  c : Nat
  sc : Nat
  lastReq : Option Nat
  deriving DecidableEq, Repr

/-- A live counter (R161), with what is held below its home. -/
structure Counter where
  word : Nat
  ctx : Nat
  /-- C of the page through which it was made: its line may lie in the home's L2 (R62) -/
  cached : Bool
  h : Nat
  g : Nat
  st : CtrSt
  rr : Nat
  ovf : Bool
  dies : List DieAllow
  cores : List CoreAllow
  /-- amounts on their way home over the on-die network, or waiting to be sent, oldest first: die, amount, and the give it is, when it
  is one that has gone to the home -/
  inflight : List (Nat × Nat × Option PieceRef)
  waiting : List CtrReq
  /-- the recall round under way for the first waiting request, and the dies and cores still to answer (R165) -/
  round : Nat
  recallDies : List Nat
  recallCores : List CoreId
  /-- dies visited in round one -/
  visited : List Nat
  deriving DecidableEq, Repr

/-! ### Host, fabric, platform -/

/-- The command block (R426). -/
structure CmdBlock where
  op : Nat
  ctx : Nat
  busy : Bool
  status : Nat
  /-- the status the running command ends with -/
  result : Nat
  addr : W64
  len : W64
  aux : W64
  deriving DecidableEq, Repr

/-- A virtual function's binding (R415). -/
structure VfBind where
  num : Nat
  tenants : List Nat
  apctx : Nat
  hce : Bool
  frozen : Bool
  deriving DecidableEq, Repr

/-- A fabric port (R416). -/
structure Port where
  num : Nat
  up : Bool
  stop : List Nat
  replays : Nat
  deriving DecidableEq, Repr

/-- An export entry (R418). -/
structure ExportEntry where
  num : Nat
  v : Bool
  r : Bool
  w : Bool
  a : Bool
  base : Nat
  len : Nat
  dev : Nat
  dmask : Nat
  deriving DecidableEq, Repr

/-- An interrupt raised to the driver. -/
inductive Irq where
  | poolLow (ctx : Nat)
  | poolEmpty (ctx : Nat)
  | streamHalted (stream : Nat)
  | faultReport (ctx : Nat)
  | command
  | frozen (m : Master)
  deriving DecidableEq, Repr

/-- What Phobos logs to the driver. -/
inductive LogLine where
  | skippedRingEntry (ctx : Nat) (entry : W64)
  | spareFrame (ctx frame : Nat)
  | malformed (ctx va : Nat)
  | keyMismatch (ctx va : Nat)
  | violation (m : Master)
  | measurement (digest : Nat)
  | attestation (report : List Nat) (signature : Nat)
  | checkpointDone (cut : List (Nat × Nat)) (frames : List Nat) (digest signature : Nat)
  | readReply (bytes : List Byte)
  | unsupported
  | refusedPeer (peer : Nat)
  /-- an answer to a covered request of a peer: identity, serial, status, value, flag, whether it is BUSY (R149) -/
  | peerAnswer (ref : OpRef) (status : Nat) (val : W64) (flag busy : Bool)
  | resentPosted (port : Nat)
  /-- an uncorrectable error in a committed line (R136) -/
  | memoryError (line : Nat)
  deriving DecidableEq, Repr

/-- An entry of the agenda: dt ns pass, then the step ev happens (log 1). -/
structure Sched where
  dt : Nat
  ev : Instr
  deriving DecidableEq, Repr

/-- The platform's registers and flags (R420 to R427). -/
structure Platform where
  step : Nat
  devNum : Nat
  gate : Nat
  pcap : Nat
  power : Nat
  celsius : Nat
  holdover : Bool
  bootErr : Bool
  tErr : Bool
  slew : Int
  /-- ns of the slew that have not amounted to a whole ns of correction yet, in 2,000ths (R420) -/
  slewFrac : Nat
  lastPps : Option Nat
  /-- the compute dies have left reset -/
  released : Bool
  /-- the dies were halted at 110 °C -/
  halted : Bool
  fwMin : Nat
  measured : List Nat
  nextKey : Nat
  deriving DecidableEq, Repr

/-- The machine. -/
structure State where
  agenda : List Sched
  /-- the global time stamp in ns (R420), and the ns since reset on which intervals are measured (log 2) -/
  time : Nat
  clock : Nat
  /-- the clocked part of that time, gated cycles left out (R199), in 32nds of a cycle -/
  clocked : Nat
  draws : Nat
  plat : Platform
  cmd : CmdBlock
  irqs : List Irq
  log : List LogLine
  reports : List Report
  mem : Memory
  /-- 128-byte lines whose data reports an uncorrectable error when read (R303, log 27) -/
  badLines : List Nat
  /-- 64 KiB parts of peer and host memory whose owner refuses accesses, with the cause: 1 a peer's exports table, 2 a completion
  error of the host (R303, R308, log 27) -/
  refusing : List (Nat × Nat)
  /-- 128-byte data units whose stored bytes CXL.mem wrote (R423) -/
  rawUnits : List Nat
  /-- the key generation under which each 128-byte data unit was written last, where a context wrote it (R423) -/
  unitKeys : List (Nat × Nat)
  contexts : List Context
  streams : List Stream
  launches : List Launch
  nextLid : Nat
  wgs : List Workgroup
  nextWid : Nat
  gangs : List Gang
  phases : List Phase
  nextPid : Nat
  cores : List Core
  walks : List (Nat × Walk)
  /-- non-leaf entries cached by each die: die, context, level, table index path, entry (R38) -/
  nonLeaf : List (Nat × Nat × Nat × Nat × W64)
  lastWalkCtx : List (Nat × Nat)
  l2 : List L2Line
  /-- insertion selectors and bimodal fill counts that differ from 512 and 0: slice, class, selector, count (R63) -/
  selectors : List (SliceId × Nat × Nat × Nat)
  regions : List RegionEntry
  regionInvals : List RegionInval
  parts : List Part
  units : List PUnit
  leafWalks : List LeafWalk
  /-- freed ranges of parts: first part, parts, place among the walks (R76, R79) -/
  frees : List (Nat × Nat × Nat)
  epoch : Nat
  walkCount : Nat
  /-- reserve frames taken: (die, frame number) (R67) -/
  reserveUsed : List (Nat × Nat)
  overlays : List Overlay
  stalls : List Stall
  /-- stores performed ahead of earlier writes of their groups (R88, R107) -/
  early : List EarlyStore
  covOps : List CovOp
  packets : List Packet
  nextPkt : Nat
  results : List RCEntry
  holds : List Packet
  /-- home slices that an identity without a living group has had a response from: that of a die allowance cache, or of an aborted
  group (R151, R159, R169) -/
  dieTracked : List (Nat × Tracked)
  /-- incarnation of each die's home of this device (R154) -/
  incs : List Nat
  /-- incarnation tables: (die, home, incarnation) -/
  incTable : List (Nat × HomeId × Nat)
  /-- incarnations of the homes of peers (R154) -/
  peerIncs : List (HomeId × Nat)
  counters : List Counter
  /-- takes and gives that wait at dies, oldest first (R164) -/
  takes : List TakeWait
  /-- covered operations of other devices at homes of this one -/
  peerOps : List PeerOp
  /-- sequence number of the posted write that each peer sends next (R417) -/
  peerSeqs : List (Nat × Nat)
  vfs : List VfBind
  ports : List Port
  routes : List (Nat × Nat)
  exports : List ExportEntry
  frozenPeers : List Nat
  /-- accesses from outside that wait to be performed, oldest first (R109) -/
  extQueue : List ExtWait
  /-- go triggers issued, for the order the engines serve commands in (R359) -/
  goCount : Nat
  deriving DecidableEq, Repr

/-- The machine right after reset (R10 reset columns). Every value the manual gives no reset for is named in the log
entries 1 to 4. -/
def State.reset : State where
  agenda := []
  time := 0
  clock := 0
  clocked := 0
  draws := 0
  plat :=
    { step := 0x10, devNum := 0, gate := 0, pcap := 3000, power := 0, celsius := 25, holdover := false, bootErr := false,
      tErr := false, slew := 0, slewFrac := 0, lastPps := none, released := false, halted := false, fwMin := 0, measured := [], nextKey := 1 }
  cmd := { op := 0, ctx := 0, busy := false, status := 0, result := 0, addr := 0, len := 0, aux := 0 }
  irqs := []
  log := []
  reports := []
  mem := []
  badLines := []
  refusing := []
  rawUnits := []
  unitKeys := []
  contexts := []
  streams := []
  launches := []
  nextLid := 1
  wgs := []
  nextWid := 1
  gangs := []
  phases := []
  nextPid := 1
  cores := []
  walks := []
  nonLeaf := []
  lastWalkCtx := []
  l2 := []
  selectors := []
  regions := []
  regionInvals := []
  parts := []
  units := []
  leafWalks := []
  frees := []
  epoch := 0
  walkCount := 0
  reserveUsed := []
  overlays := []
  stalls := []
  early := []
  covOps := []
  packets := []
  nextPkt := 1
  results := []
  holds := []
  dieTracked := []
  incs := [1, 1, 1, 1]
  incTable := []
  peerIncs := []
  counters := []
  takes := []
  peerOps := []
  peerSeqs := []
  vfs := []
  ports := []
  routes := []
  exports := []
  frozenPeers := []
  extQueue := []
  goCount := 0

end Sys2Proof.Machine
end

