-- ==== Sys2Proof/Machine/Bits.lean ====
section
/-!
DEFINITION. Bits: bit fields, little-endian bytes (R5), lane masks, list updates, and the CRC-32C of R352.
-/

namespace Sys2Proof.Machine

/-- Bits lo to lo + n − 1 of a number. -/
def bits (v lo n : Nat) : Nat := (v >>> lo) % 2 ^ n

/-- Bits lo to lo + n − 1 of a 64-bit word, as a number. -/
def fld (v : W64) (lo n : Nat) : Nat := bits v.toNat lo n

/-- Bit i of a number. -/
def bit (v i : Nat) : Bool := (v >>> i) % 2 == 1

/-- 1 for true. -/
def b2n (b : Bool) : Nat := if b then 1 else 0

/-- A 64-bit word from a number, modulo 2^64. -/
def w64 (n : Nat) : W64 := BitVec.ofNat 64 n
/-- A 32-bit word from a number, modulo 2^32. -/
def w32 (n : Nat) : W32 := BitVec.ofNat 32 n

/-- The low half of a 64-bit word. -/
def lo32 (v : W64) : W32 := v.extractLsb' 0 32
/-- The high half of a 64-bit word. -/
def hi32 (v : W64) : W32 := v.extractLsb' 32 32
/-- Zero extension to 64 bits (R203). -/
def zx (v : W32) : W64 := v.zeroExtend 64
/-- Sign extension to 64 bits. -/
def sx (v : W32) : W64 := v.signExtend 64
/-- A pair: low half in the even register (R201). -/
def pair (lo hi : W32) : W64 := hi ++ lo

/-- `n` little-endian bytes of a number (R5). -/
def natBytes : Nat → Nat → List Byte
  | 0, _ => []
  | n + 1, v => BitVec.ofNat 8 v :: natBytes n (v / 256)

/-- The number of a little-endian byte string (R5). -/
def bytesNat : List Byte → Nat
  | [] => 0
  | b :: bs => b.toNat + 256 * bytesNat bs

/-- The number a two's-complement value of n bits stands for. -/
def signedOf (n v : Nat) : Int := if v % 2 ^ n < 2 ^ (n - 1) then (v % 2 ^ n : Nat) else (v % 2 ^ n : Nat) - (2 ^ n : Nat)

/-- Round up to a multiple of m. -/
def roundUp (n m : Nat) : Nat := (n + m - 1) / m * m

/-! ### Lane masks -/

/-- The mask of the lanes below w that satisfy p. -/
def maskOf (w : Nat) (p : Nat → Bool) : Mask :=
  BitVec.ofNat 64 ((List.range w).foldl (fun m l => if p l then m + 2 ^ l else m) 0)

/-- The lanes of a mask below w, ascending. -/
def lanesOf (w : Nat) (m : Mask) : List Nat := (List.range w).filter m.getLsbD

/-- Bits 0 to w − 1 set. -/
def fullMask (w : Nat) : Mask := BitVec.ofNat 64 (2 ^ w - 1)

/-- Lowest lane of a mask. -/
def lowestLane (w : Nat) (m : Mask) : Option Nat := (lanesOf w m).head?

/-- Is any lane below w in the mask? -/
def anyLane (w : Nat) (m : Mask) : Bool := (List.range w).any m.getLsbD

/-! ### Lists -/

/-- Apply f to the entries that satisfy p. -/
def upd {α : Type} (p : α → Bool) (f : α → α) (l : List α) : List α := l.map fun x => if p x then f x else x

/-- Apply f to the entries that satisfy p, or append a new entry when there is none. -/
def upsert {α : Type} (p : α → Bool) (new : α) (f : α → α) (l : List α) : List α :=
  if l.any p then upd p f l else l ++ [f new]

/-- Drop the entries that satisfy p. -/
def drop {α : Type} (p : α → Bool) (l : List α) : List α := l.filter fun x => !p x

/-- Set entry i, when the list has one. -/
def setAt {α : Type} (l : List α) (i : Nat) (x : α) : List α := l.set i x

/-- Change entry i, when the list has one. -/
def modAt {α : Type} (l : List α) (i : Nat) (f : α → α) : List α :=
  match l[i]? with
  | some x => l.set i (f x)
  | none => l

/-- Append when absent. -/
def addNew {α : Type} [BEq α] (l : List α) (x : α) : List α := if l.contains x then l else l ++ [x]

/-- The entry with the least key, the earliest among equals. -/
def minBy {α : Type} (key : α → Nat) : List α → Option α
  | [] => none
  | x :: xs =>
    match minBy key xs with
    | none => some x
    | some y => if key x ≤ key y then some x else some y

/-- Insertion by ascending key, stable. -/
def insertBy {α : Type} (key : α → Nat) (x : α) : List α → List α
  | [] => [x]
  | y :: ys => if key x ≤ key y then x :: y :: ys else y :: insertBy key x ys

/-- Stable sort by ascending key. -/
def sortBy {α : Type} (key : α → Nat) (l : List α) : List α := l.foldr (insertBy key) []

/-- Numbers without repeats. -/
def dedup {α : Type} [BEq α] (l : List α) : List α := l.foldl (fun acc x => if acc.contains x then acc else acc ++ [x]) []

/-! ### CRC-32C (R352) -/

/-- One bit of the reflected CRC with polynomial 0x82F63B78. -/
def crcBit (c : Nat) : Nat := if c % 2 == 1 then Nat.xor (c / 2) 0x82F63B78 else c / 2

/-- One byte. -/
def crcByte (c : Nat) (b : Byte) : Nat :=
  (List.range 8).foldl (fun c _ => crcBit c) (Nat.xor c b.toNat)

/-- The register after a run of bytes, without the final xor. -/
def crcRun (c : Nat) (bs : List Byte) : Nat := bs.foldl crcByte c

/-- Initial value of the register (R352). -/
def crcInit : Nat := 0xFFFFFFFF

/-- The CRC-32C of a run of bytes (R352). -/
def crc32c (bs : List Byte) : Nat := Nat.xor (crcRun crcInit bs) 0xFFFFFFFF

end Sys2Proof.Machine
end

