-- ==== Sys2Proof/Machine/NumFmt.lean ====
section
/-!
DEFINITION. NumFmt: the floating-point formats, exact arithmetic over the extended reals, and RoundToFormat (spec/08).
A finite value is a sign, a magnitude and a power of two, so sums and products are exact.
-/

namespace Sys2Proof.Machine

/-- The floating-point formats (R247). -/
inductive FFmt where
  | fp32 | fp16 | bf16 | e4m3 | e5m2 | fp4
  deriving DecidableEq, Repr

/-- Fraction bits (R247). -/
def FFmt.mant : FFmt → Nat
  | .fp32 => 23
  | .fp16 => 10
  | .bf16 => 7
  | .e4m3 => 3
  | .e5m2 => 2
  | .fp4 => 1

/-- Exponent bits (R247). -/
def FFmt.exps : FFmt → Nat
  | .fp32 => 8
  | .fp16 => 5
  | .bf16 => 8
  | .e4m3 => 4
  | .e5m2 => 5
  | .fp4 => 2

/-- Exponent bias (R247). -/
def FFmt.bias : FFmt → Nat
  | .fp32 => 127
  | .fp16 => 15
  | .bf16 => 127
  | .e4m3 => 7
  | .e5m2 => 15
  | .fp4 => 1

/-- Width in bits. -/
def FFmt.width (f : FFmt) : Nat := 1 + f.exps + f.mant

/-- Code of the largest finite value (R247). -/
def FFmt.maxCode : FFmt → Nat
  | .fp32 => 0x7F7FFFFF
  | .fp16 => 0x7BFF
  | .bf16 => 0x7F7F
  | .e4m3 => 0x7E
  | .e5m2 => 0x7B
  | .fp4 => 0x7

/-- Code of +∞ in the formats that have one (R247). -/
def FFmt.infCode : FFmt → Nat
  | .fp32 => 0x7F800000
  | .fp16 => 0x7C00
  | .bf16 => 0x7F80
  | .e4m3 => 0x7E
  | .e5m2 => 0x7C
  | .fp4 => 0x7

/-- Code of the canonical NaN; FP4 gives 0x0 (R247, R257). -/
def FFmt.nanCode : FFmt → Nat
  | .fp32 => 0x7FC00000
  | .fp16 => 0x7E00
  | .bf16 => 0x7FC0
  | .e4m3 => 0x7F
  | .e5m2 => 0x7E
  | .fp4 => 0

/-- Exponent of the smallest normal value. -/
def FFmt.emin (f : FFmt) : Int := 1 - (f.bias : Int)

/-- The code of −x from the code of x: the sign bit set. -/
def FFmt.signed (f : FFmt) (neg : Bool) (code : Nat) : Nat := if neg then code + 2 ^ (f.exps + f.mant) else code

/-- A value of the extended reals: a finite one is (−1)^neg × m × 2^e, with signed zeros. -/
inductive Fp where
  | nan
  | inf (neg : Bool)
  | fin (neg : Bool) (m : Nat) (e : Int)
  deriving DecidableEq, Repr

/-- The value of a code (R248). -/
def fpOf (f : FFmt) (code : Nat) : Fp :=
  let neg := bit code (f.exps + f.mant)
  let e := bits code f.mant f.exps
  let m := bits code 0 f.mant
  let top := 2 ^ f.exps - 1
  let normal : Fp := .fin neg (2 ^ f.mant + m) ((e : Int) - f.bias - f.mant)
  if e == 0 then .fin neg m (f.emin - f.mant)
  else if e < top then normal
  else
    match f with
    | .fp32 | .fp16 | .bf16 | .e5m2 => if m == 0 then .inf neg else .nan
    | .e4m3 => if m == 7 then .nan else normal
    | .fp4 => normal

/-- Is the code a nonzero subnormal? -/
def isSubnormal (f : FFmt) (code : Nat) : Bool := bits code f.mant f.exps == 0 && bits code 0 f.mant != 0

/-! ### Exact arithmetic (R269 Exact) -/

/-- The rounding directions of R255. -/
inductive Rm where
  | rne | rtz | up | down | sr
  deriving DecidableEq, Repr

/-- The direction of a rounding-control word; codes 5 to 7 act as 0 (R255). -/
def rmOf (d : W64) : Rm :=
  match fld d 0 3 with
  | 1 => .rtz
  | 2 => .up
  | 3 => .down
  | 4 => .sr
  | _ => .rne

/-- The direction of every trigger that is no rounding conversion: stochastic acts as nearest even (R256). -/
def Rm.noDraw : Rm → Rm
  | .sr => .rne
  | .rne => .rne
  | .rtz => .rtz
  | .up => .up
  | .down => .down

/-- SATF of a rounding-control word (R255). -/
def satfOf (d : W64) : Bool := d.getLsbD 3

/-- −x. A NaN stays one. -/
def Fp.neg : Fp → Fp
  | .nan => .nan
  | .inf n => .inf (!n)
  | .fin n m e => .fin (!n) m e

/-- The signed integer of a finite value at a lower exponent. -/
def atExp (neg : Bool) (m : Nat) (e base : Int) : Int :=
  let v : Int := (m * 2 ^ (e - base).toNat : Nat)
  if neg then -v else v

/-- The exact sum. An exact zero sum of operands of opposite sign is −0 toward −∞ and +0 otherwise (R249, R269). -/
def Fp.add (rm : Rm) : Fp → Fp → Fp
  | .nan, _ => .nan
  | _, .nan => .nan
  | .inf a, .inf b => if a == b then .inf a else .nan
  | .inf a, .fin _ _ _ => .inf a
  | .fin _ _ _, .inf b => .inf b
  | .fin na ma ea, .fin nb mb eb =>
    let base := if ea ≤ eb then ea else eb
    let v := atExp na ma ea base + atExp nb mb eb base
    if v == 0 then
      if na == nb then .fin na 0 0 else .fin (rm == .down) 0 0
    else .fin (decide (v < 0)) v.natAbs base

/-- The exact product. -/
def Fp.mul : Fp → Fp → Fp
  | .nan, _ => .nan
  | _, .nan => .nan
  | .inf a, .inf b => .inf (a != b)
  | .inf a, .fin b m _ => if m == 0 then .nan else .inf (a != b)
  | .fin a m _, .inf b => if m == 0 then .nan else .inf (a != b)
  | .fin na ma ea, .fin nb mb eb => .fin (na != nb) (ma * mb) (ea + eb)

/-- x × y + z, exactly. -/
def Fp.fma (rm : Rm) (x y z : Fp) : Fp := (x.mul y).add rm z

/-- Order of two values that are no NaN; the zeros are equal. -/
def Fp.lt : Fp → Fp → Bool
  | .nan, _ => false
  | _, .nan => false
  | .inf a, .inf b => a && !b
  | .inf a, .fin _ _ _ => a
  | .fin _ _ _, .inf b => !b
  | .fin na ma ea, .fin nb mb eb =>
    let base := if ea ≤ eb then ea else eb
    decide (atExp na ma ea base < atExp nb mb eb base)

/-- Is it a NaN? -/
def Fp.isNan : Fp → Bool
  | .nan => true
  | .inf _ => false
  | .fin _ _ _ => false

/-- Equality of two values that are no NaN; −0 equals +0 (R285). -/
def Fp.eq (x y : Fp) : Bool := !x.isNan && !y.isNan && !x.lt y && !y.lt x

/-! ### Rounding (R257) -/

/-- The next word of a generator state, and the state after it (R258). -/
def nextRandom (st : W64) : W32 × W64 :=
  let st := st * 6364136223846793005 + 1442695040888963407
  (hi32 st, st)

/-- Does rounding go up from lo? `frac` / `one` is the distance from lo in units of the spacing, `frac` not 0. -/
def roundsUp (rm : Rm) (neg odd : Bool) (frac one : Nat) (w : W32) : Bool :=
  match rm with
  | .rne => one < 2 * frac || (2 * frac == one && odd)
  | .rtz => false
  | .up => !neg
  | .down => neg
  | .sr => w.toNat < frac * 2 ^ 32 / one

/-- The multiple of the spacing 2^q that a positive magnitude m × 2^e rounds to. -/
def roundMag (rm : Rm) (neg : Bool) (m : Nat) (e q : Int) (w : W32) : Nat :=
  if q ≤ e then m * 2 ^ (e - q).toNat
  else
    let one := 2 ^ (q - e).toNat
    let lo := m / one
    let frac := m % one
    if frac == 0 then lo else if roundsUp rm neg (lo % 2 == 1) frac one w then lo + 1 else lo

/-- A result beyond the largest finite value (R257 Overflow). -/
def overflowCode (f : FFmt) (neg : Bool) (rm : Rm) (satf : Bool) : Nat :=
  let finite := f.signed neg f.maxCode
  let infinite := f.signed neg f.infCode
  match f with
  | .e4m3 | .fp4 => finite
  | .fp32 | .fp16 | .bf16 | .e5m2 =>
    if satf then finite
    else match rm with
      | .rne | .sr => infinite
      | .rtz => finite
      | .up => if neg then finite else infinite
      | .down => if neg then infinite else finite

/-- RoundToFormat with the drawn word given (R257). The code of a value n × 2^q of exponent E is (E − emin) × 2^mant + n,
for normal and subnormal values alike. -/
def roundCode (f : FFmt) (rm : Rm) (satf : Bool) (w : W32) : Fp → Nat
  | .nan => f.nanCode
  | .inf neg => f.signed neg f.infCode
  | .fin neg m e =>
    if m == 0 then f.signed neg 0
    else
      let lg : Int := (Nat.log2 m : Int) + e
      let ex := if lg < f.emin then f.emin else lg
      let n := roundMag rm neg m e (ex - f.mant) w
      let code := (ex - f.emin).toNat * 2 ^ f.mant + n
      if f.maxCode < code then overflowCode f neg rm satf else f.signed neg code

/-- Does RoundToFormat draw for this value under stochastic rounding (R257, R279)? -/
def Fp.draws : Fp → Bool
  | .fin _ m _ => m != 0
  | .nan => false
  | .inf _ => false

/-- RoundToFormat with the control word of a rounding conversion: the code, and the generator state after the draw. -/
def roundDraw (f : FFmt) (d : W64) (x : Fp) (st : W64) : Nat × W64 :=
  if rmOf d == .sr && x.draws then
    let (w, st) := nextRandom st
    (roundCode f .sr (satfOf d) w x, st)
  else (roundCode f (rmOf d) (satfOf d) 0 x, st)

/-- Rnd of R269: FP32 under D with RM = 100 replaced by 000. -/
def rnd32 (d : W64) (x : Fp) : W32 := w32 (roundCode .fp32 (rmOf d).noDraw (satfOf d) 0 x)

/-- RN of R269: FP32, nearest even. -/
def rn32 (x : Fp) : W32 := w32 (roundCode .fp32 .rne false 0 x)

/-- F32 of R269. -/
def f32 (v : W32) : Fp := fpOf .fp32 v.toNat

/-- FmaN of R269. -/
def fmaN (x y z : Fp) : W32 := rn32 (Fp.fma .rne x y z)

/-- Rounding to an integer with spacing 1, as a signed integer (R262). -/
def roundInt (rm : Rm) (w : W32) (neg : Bool) (m : Nat) (e : Int) : Int :=
  let n : Int := (roundMag rm neg m e 0 w : Nat)
  if neg then -n else n

/-- FP32 to an integer between lo and hi (R262), with the generator state after the draw. -/
def toInteger (lo hi : Int) (d : W64) (x : Fp) (st : W64) : W32 × W64 :=
  let clamp (v : Int) : W32 := BitVec.ofInt 32 (if v < lo then lo else if hi < v then hi else v)
  match x with
  | .nan => (0, st)
  | .inf neg => (if neg then clamp lo else clamp hi, st)
  | .fin neg m e =>
    if rmOf d == .sr && m != 0 then
      let (w, st) := nextRandom st
      (clamp (roundInt .sr w neg m e), st)
    else (clamp (roundInt (rmOf d) 0 neg m e), st)

/-- An exact integer (R263): 0 is +0. -/
def fpOfInt (v : Int) : Fp := .fin (decide (v < 0)) v.natAbs 0

/-- The integral value of R278: a zero keeps the sign of its operand; magnitudes of 2^23 and more are unchanged. -/
def integral (rm : Rm) (v : W32) : W32 :=
  match f32 v with
  | .nan => w32 FFmt.fp32.nanCode
  | .inf _ => v
  | .fin neg m e =>
    if 0 ≤ e then v
    else w32 (roundCode .fp32 .rne false 0 (.fin neg (roundMag rm neg m e 0 0) 0))

end Sys2Proof.Machine
end

