-- ==== Sys2Proof/Machine/Flags.lean ====
section
/-!
DEFINITION. Flags: the conditions the units compute: carry and borrow (R270), saturation, integer and FP32 comparisons
(R284, R285), the class of an FP32 value (R286), and the comparison codes of wake words (R177, R348). The machine keeps no
flag register beside the group status and the check-interval register.
-/

namespace Sys2Proof.Machine

/-- Sum with carry in, and the carry out (R270). -/
def addCarry (a t : W32) (c : Bool) : W32 × Bool :=
  let v := a.toNat + t.toNat + b2n c
  (w32 v, decide (2 ^ 32 ≤ v))

/-- Difference with borrow in, and the borrow out (R270). -/
def subBorrow (a t : W32) (c : Bool) : W32 × Bool :=
  (a - t - w32 (b2n c), decide (a.toNat < t.toNat + b2n c))

/-- Sat of R269, as a 32-bit pattern. -/
def satW32 (v lo hi : Int) : W32 := BitVec.ofInt 32 (if v < lo then lo else if hi < v then hi else v)

/-- Signed limits of 32 bits. -/
def i32Min : Int := -2147483648
def i32Max : Int := 2147483647

/-- Integer comparisons (R284). -/
def cmpEq (a t : W32) : Bool := a == t
def cmpLt (a t : W32) : Bool := a.slt t
def cmpLe (a t : W32) : Bool := a.sle t
def cmpLtn (a t : W32) : Bool := a.ult t
def cmpLen (a t : W32) : Bool := a.ule t

/-- Either operand a NaN (R285). -/
def fUnordered (a t : W32) : Bool := (f32 a).isNan || (f32 t).isNan

/-- FP32 comparisons (R285). -/
def fEq (a t : W32) : Bool := (f32 a).eq (f32 t)
def fNe (a t : W32) : Bool := !(f32 a).eq (f32 t)
def fLt (a t : W32) : Bool := (f32 a).lt (f32 t)
def fLe (a t : W32) : Bool := !fUnordered a t && !(f32 t).lt (f32 a)

/-- Class of an FP32 value, 0 to 8 (R286). -/
def fpClass (a : W32) : Nat :=
  let neg := a.getLsbD 31
  let e := bits a.toNat 23 8
  let m := bits a.toNat 0 23
  if e == 255 then if m != 0 then 8 else if neg then 0 else 7
  else if e == 0 then
    if m == 0 then if neg then 3 else 4
    else if neg then 2 else 5
  else if neg then 1 else 6

/-- A comparison code of a wake word: equal, not equal, ≥, < over n64 (R177, R348). -/
def wakeCmpOf (code : Nat) : WakeCmp :=
  match code % 4 with
  | 0 => .eq
  | 1 => .ne
  | 2 => .ge
  | _ => .lt

/-- Does a word satisfy a comparison with a value? -/
def WakeCmp.holds (c : WakeCmp) (word v : W64) : Bool :=
  match c with
  | .eq => word == v
  | .ne => word != v
  | .ge => v.ule word
  | .lt => word.ult v

end Sys2Proof.Machine
end

