-- ==== Sys2Proof/Machine/Memory.lean ====
section
/-!
DEFINITION. Memory: the list of bytes in its one canonical form (log 4): addresses strictly rising, no byte zero. A wider
access is made of bytes, the least significant at the lowest address (R5).
-/

namespace Sys2Proof.Machine

/-- The byte at an address; an unlisted one is 0 (R48, R91, log 4). -/
def Memory.read : Memory → Nat → Byte
  | [], _ => 0
  | (x, v) :: m, a => if x == a then v else if a < x then 0 else Memory.read m a

/-- Put a byte at the head of a canonical list of higher addresses. -/
def Memory.put (a : Nat) (b : Byte) (m : Memory) : Memory := if b == 0 then m else (a, b) :: m

/-- Write a byte. -/
def Memory.write : Memory → Nat → Byte → Memory
  | [], a, b => Memory.put a b []
  | (x, v) :: m, a, b =>
    if a < x then Memory.put a b ((x, v) :: m)
    else if x == a then Memory.put a b m
    else (x, v) :: Memory.write m a b

/-- Write a run of bytes from an address up. -/
def Memory.writeBytes (m : Memory) (a : Nat) : List Byte → Memory
  | [] => m
  | b :: bs => Memory.writeBytes (m.write a b) (a + 1) bs

/-- Read n bytes from an address up. -/
def Memory.readBytes (m : Memory) (a : Nat) : Nat → List Byte
  | 0 => []
  | n + 1 => m.read a :: Memory.readBytes m (a + 1) n

/-- The little-endian number of n bytes. -/
def Memory.readNat (m : Memory) (a n : Nat) : Nat := bytesNat (m.readBytes a n)

/-- Write a number as n little-endian bytes. -/
def Memory.writeNat (m : Memory) (a n v : Nat) : Memory := m.writeBytes a (natBytes n v)

/-- Zero every byte from a up to a + len − 1. -/
def Memory.zero (m : Memory) (a len : Nat) : Memory := m.filter fun c => c.1 < a || a + len ≤ c.1

/-- Addresses rise strictly. -/
def Memory.rising : Memory → Bool
  | [] => true
  | [_] => true
  | (x, _) :: (y, w) :: m => decide (x < y) && Memory.rising ((y, w) :: m)

/-- The canonical form. -/
def Memory.wf (m : Memory) : Bool := m.rising && m.all fun c => c.2 != 0

end Sys2Proof.Machine
end

