-- ==== Sys2Proof/Machine/Ops.lean ====
section
/-!
DEFINITION. Ops: finding and changing the parts of the state: workgroups, groups, lanes, launches, contexts, cores.
-/

namespace Sys2Proof.Machine

/-! ### Workgroups and groups -/

/-- The workgroup with this number in the model's list. -/
def State.wg? (s : State) (wid : Nat) : Option Workgroup := s.wgs.find? (·.wid == wid)

/-- Change a workgroup. -/
def State.modWg (s : State) (wid : Nat) (f : Workgroup → Workgroup) : State :=
  { s with wgs := upd (·.wid == wid) f s.wgs }

/-- A group of a workgroup. -/
def Workgroup.group? (w : Workgroup) (gi : Nat) : Option Group := w.groups.find? (·.gi == gi)

/-- A group. -/
def State.group? (s : State) (g : GRef) : Option Group := (s.wg? g.wg).bind (·.group? g.gi)

/-- Change a group of a workgroup. -/
def Workgroup.modGroup (w : Workgroup) (gi : Nat) (f : Group → Group) : Workgroup :=
  { w with groups := upd (·.gi == gi) f w.groups }

/-- Change a group. -/
def State.modGroup (s : State) (g : GRef) (f : Group → Group) : State := s.modWg g.wg fun w => w.modGroup g.gi f

/-- Replace a group. -/
def State.setGroup (s : State) (g : GRef) (grp : Group) : State := s.modGroup g fun _ => grp

/-- The width of a group (R174). -/
def Group.width (g : Group) : Nat := g.lanes.length

/-- The number of vector registers a lane has (R201). -/
def Group.vregCount (g : Group) : Nat :=
  match g.lanes with
  | l :: _ => l.vregs.length
  | [] => 0

/-- Lane width of a WIDTH code (R177). -/
def widthOf (code : Nat) : Nat := 8 * 2 ^ code

/-- Every group that is resident, with its workgroup. -/
def State.allGroups (s : State) : List (Workgroup × Group) :=
  s.wgs.flatMap fun w => w.groups.map fun g => (w, g)

/-- The reference of a group of a workgroup. -/
def refOf (w : Workgroup) (g : Group) : GRef := ⟨w.wid, g.gi⟩

/-! ### Launches, contexts, streams, cores -/

/-- The launch with this number in the model's list. -/
def State.launch? (s : State) (lid : Nat) : Option Launch := s.launches.find? (·.lid == lid)

/-- Change a launch. -/
def State.modLaunch (s : State) (lid : Nat) (f : Launch → Launch) : State :=
  { s with launches := upd (·.lid == lid) f s.launches }

/-- The launch of a group's workgroup. -/
def State.launchOf? (s : State) (g : GRef) : Option Launch := (s.wg? g.wg).bind fun w => s.launch? w.lid

/-- A context at reset (R12, R118, R425). -/
def Context.reset (n : Nat) : Context where
  num := n
  en := false
  root := 0
  ringBase := 0
  ringSize := 0
  lowWater := 0
  prod := 0
  cons := 0
  faultLimit := 10000
  stallNs := 0
  spare := []
  tableFrame := none
  lowRaised := false
  segMarks := []
  heldEn := none
  disabledAt := none
  awaitSlices := []
  awaitPeers := []
  givenUp := []
  key := none
  cTicket := 0
  cVer := 0
  quota := 0
  used := 0
  nextVer := 1
  nextTicket := 1
  aborts := 0
  commits := 0
  serials := []
  repBase := 0
  repSize := 0
  repProd := 0
  repCons := 0
  debugger := false
  raced := false

/-- A context; one that is not listed stands at its reset values. -/
def State.ctx (s : State) (n : Nat) : Context := (s.contexts.find? (·.num == n)).getD (Context.reset n)

/-- Change a context. -/
def State.modCtx (s : State) (n : Nat) (f : Context → Context) : State :=
  { s with contexts := upsert (·.num == n) (Context.reset n) f s.contexts }

/-- A stream at reset (R175). -/
def Stream.reset (n : Nat) : Stream where
  num := n
  en := false
  ctx := 0
  prio := 3
  ringLog2 := 0
  st := .idle
  err := 0
  ringVa := 0
  wridxVa := 0
  rdIdx := 0
  head := none
  absent := none
  last := none
  statuses := []

/-- A stream; one that is not listed stands at its reset values. -/
def State.strm (s : State) (n : Nat) : Stream := (s.streams.find? (·.num == n)).getD (Stream.reset n)

/-- Change a stream. -/
def State.modStrm (s : State) (n : Nat) (f : Stream → Stream) : State :=
  { s with streams := upsert (·.num == n) (Stream.reset n) f s.streams }

/-- A core with empty buffers and caches. -/
def Core.reset (c : CoreId) : Core where
  id := c
  slotTb := []
  tb := []
  misses := []
  fw := []
  l1 := []
  victims := []
  code := []
  copyFrozen := false
  slotsFrozen := []
  reservedFor := none

/-- A core; one that is not listed has nothing in its buffers and caches. -/
def State.core (s : State) (c : CoreId) : Core := (s.cores.find? (·.id == c)).getD (Core.reset c)

/-- Change a core. -/
def State.modCore (s : State) (c : CoreId) (f : Core → Core) : State :=
  { s with cores := upsert (·.id == c) (Core.reset c) f s.cores }

/-- The cores of a die, ascending. -/
def coresOf (d : Nat) : List CoreId := (List.range Config.coresPerDie).map (⟨d, ·⟩)

/-- A gang of a launch. -/
def State.gang? (s : State) (lid num : Nat) : Option Gang := s.gangs.find? fun g => g.lid == lid && g.num == num

/-- Change a gang. -/
def State.modGang (s : State) (lid num : Nat) (f : Gang → Gang) : State :=
  { s with gangs := upd (fun g => g.lid == lid && g.num == num) f s.gangs }

/-- A phase. -/
def State.phase? (s : State) (pid : Nat) : Option Phase := s.phases.find? (·.pid == pid)

/-- Change a phase. -/
def State.modPhase (s : State) (pid : Nat) (f : Phase → Phase) : State :=
  { s with phases := upd (·.pid == pid) f s.phases }

/-- The text base of a launch: CODE + TEXTOFF (R333). -/
def Launch.textBase (l : Launch) : W64 := l.lrec.code + w64 l.hdr.textOff

/-- Is the launch a transactional attempt that has not ended its life (R138)? -/
def Launch.txnLive (l : Launch) : Bool :=
  !l.lrec.ntxn && (l.phase == .running || l.phase == .ended || l.phase == .ticketed || l.phase == .committing)

/-- Text offset of an address of a launch (R333, R394). -/
def Launch.textOffset (l : Launch) (pc : W64) : W32 := lo32 (pc - l.textBase)

/-! ### Registers of a group -/

/-- A guard register; bits at or above the width read 0 (R204). -/
def Group.k (g : Group) (i : Nat) : W64 := (g.kregs[i]?.getD 0) &&& fullMask g.width

/-- Set a guard register; bits at or above the width are not written (R174). -/
def Group.setK (g : Group) (i : Nat) (v : W64) : Group :=
  { g with kregs := setAt g.kregs i (v &&& fullMask g.width), kbad := drop (· == i) g.kbad }

/-- A guard register as a lane reads it: with an uncorrectable error every lane receives 0 (R408). -/
def Group.kVal (g : Group) (i : Nat) : W64 := if g.kbad.contains i then 0 else g.k i

/-- The active mask (R200). -/
def Group.k0 (g : Group) : Mask := g.k 0

/-- A scalar register. -/
def Group.s (g : Group) (i : Nat) : W64 := g.sregs[i]?.getD 0

/-- Set a scalar register. -/
def Group.setS (g : Group) (i : Nat) (v : W64) : Group :=
  { g with sregs := setAt g.sregs i v, sbad := drop (· == i) g.sbad }

/-- A lane. -/
def Group.lane? (g : Group) (l : Nat) : Option Lane := g.lanes[l]?

/-- Change a lane. -/
def Group.modLane (g : Group) (l : Nat) (f : Lane → Lane) : Group := { g with lanes := modAt g.lanes l f }

/-- A vector register of a lane. -/
def Group.v (g : Group) (l i : Nat) : W32 :=
  match g.lane? l with
  | some x => x.vregs[i]?.getD 0
  | none => 0

/-- Is a vector register of a lane full (R201)? -/
def Group.vFull (g : Group) (l i : Nat) : Bool :=
  match g.lane? l with
  | some x => x.vfull[i]?.getD true
  | none => true

/-- Does a read of a vector register of a lane find an uncorrectable error (R408)? -/
def Group.vBad (g : Group) (l i : Nat) : Bool :=
  match g.lane? l with
  | some x => x.vbad.contains i
  | none => false

/-- Write a vector register of a lane; it becomes full (R207), and an error in its old bits is gone. -/
def Group.setV (g : Group) (l i : Nat) (v : W32) : Group :=
  g.modLane l fun x => { x with vregs := setAt x.vregs i v, vfull := setAt x.vfull i true, vbad := drop (· == i) x.vbad }

/-- Mark a vector register of a lane empty (R207). -/
def Group.emptyV (g : Group) (l i : Nat) : Group := g.modLane l fun x => { x with vfull := setAt x.vfull i false }

/-- Operand ports of the units, in ascending destination code (R405): unit and port of index i. -/
def operandIndex : List (Nat × Nat) :=
  [(0x04, 0), (0x04, 1), (0x05, 0), (0x05, 1), (0x06, 0), (0x06, 1), (0x07, 0), (0x07, 1), (0x07, 3),
   (0x08, 0), (0x08, 1), (0x08, 3), (0x09, 0), (0x0A, 0), (0x0B, 0), (0x0C, 0), (0x0C, 1), (0x0C, 2),
   (0x0D, 0), (0x0D, 1), (0x0D, 2), (0x0D, 3), (0x0E, 0), (0x0F, 0), (0x10, 0), (0x10, 1), (0x10, 2),
   (0x11, 0), (0x11, 1), (0x12, 0), (0x12, 1), (0x13, 0), (0x13, 1), (0x13, 2)]

/-- Index of an operand port in a lane's list. -/
def opIdx (unit port : Nat) : Nat := operandIndex.findIdx (· == (unit, port))

/-- An operand port of a lane: its 64 bits (R203). -/
def Group.opnd (g : Group) (l unit port : Nat) : W64 :=
  match g.lane? l with
  | some x => x.opnd[opIdx unit port]?.getD 0
  | none => 0

/-- Write an operand port of a lane. -/
def Group.setOpnd (g : Group) (l unit port : Nat) (v : W64) : Group :=
  g.modLane l fun x => { x with opnd := setAt x.opnd (opIdx unit port) v }

/-- Visible result ports in the order of R405: unit, and true for rb. -/
def resultIndex : List (Nat × Bool) :=
  [(0x04, false), (0x04, true), (0x05, false), (0x05, true), (0x06, false), (0x06, true), (0x07, false), (0x08, false),
   (0x09, false), (0x09, true), (0x0A, false), (0x0B, false), (0x0D, false), (0x0F, false), (0x10, true), (0x11, false),
   (0x12, false), (0x13, false), (0x13, true)]

/-- Index of a visible result port in a lane's list. -/
def resIdx (unit : Nat) (rb : Bool) : Nat := resultIndex.findIdx (· == (unit, rb))

/-- A visible result port of a lane. -/
def Group.res (g : Group) (l unit : Nat) (rb : Bool) : W64 :=
  match g.lane? l with
  | some x => x.res[resIdx unit rb]?.getD 0
  | none => 0

/-- Write a visible result port of a lane. -/
def Group.setRes (g : Group) (l unit : Nat) (rb : Bool) (v : W64) : Group :=
  g.modLane l fun x => { x with res := setAt x.res (resIdx unit rb) v }

/-- Write a visible result port in each lane of a mask. -/
def Group.setResLanes (g : Group) (unit : Nat) (rb : Bool) (lanes : Mask) (v : Nat → W64) : Group :=
  (lanesOf g.width lanes).foldl (fun g l => g.setRes l unit rb (v l)) g

/-- Number the next operation of the group in group order (R82). -/
def Group.takeOrd (g : Group) : Nat × Group := (g.ord, { g with ord := g.ord + 1 })

/-- Return-stack depth, spilled entries included (R396). -/
def Group.rasAll (g : Group) : Nat := g.ras.length + g.spilled

/-- A loop that is not active. -/
def LoopState.off : LoopState := ⟨false, 0, 0, 0, 0, 0, 0, 0⟩

/-- k8 to k15 for execution J of an active loop (R341). -/
def Group.driveStages (g : Group) : Group :=
  (List.range 8).foldl (fun g st =>
    let on := decide (st < g.loop.stages) && decide (g.loop.b + st ≤ g.loop.j) && decide (g.loop.j < g.loop.u + st)
    g.setK (8 + st) (if on then fullMask g.width else 0)) g

/-- What a pre-emption request does to an active loop: no iteration after the one in progress begins, unless the loop is in its
epilogue already (R343). -/
def Group.drain (g : Group) : Group :=
  let lp := g.loop
  if g.draining && lp.active && lp.j + 3 < lp.u + lp.stages then { g with loop := { lp with u := min lp.u (lp.j + 1) } } else g

/-- End the loop: LOOP and k8 to k15 become 0 (R341, R342). -/
def Group.endLoop (g : Group) : Group :=
  (List.range 8).foldl (fun g st => g.setK (8 + st) 0) { g with loop := { g.loop with active := false } }

/-- Empty hold latches (R218). -/
def noLatches : List (Option Latch) := [none, none, none, none, none, none]

/-- Add a wait of the group. -/
def Group.addWait (g : Group) (w : Wait) : Group := { g with waits := g.waits ++ [w] }

/-- Remove every wait that satisfies p. -/
def Group.dropWaits (g : Group) (p : Wait → Bool) : Group := { g with waits := drop p g.waits }

/-! ### Requester identities and the serial table (R142, R144) -/

/-- The identity of a requester slot of this device. -/
def identOf (dev ctx die core slot entry : Nat) : Nat :=
  ctx + entry * 2 ^ 7 + slot * 2 ^ 11 + core * 2 ^ 13 + die * 2 ^ 18 + dev * 2 ^ 20

/-- Context, die and device of an identity. -/
def identCtx (i : Nat) : Nat := bits i 0 7
def identDie (i : Nat) : Nat := bits i 18 2
def identDev (i : Nat) : Nat := bits i 20 10
/-- Does it name a die allowance cache (R169)? -/
def identIsCache (i : Nat) : Bool := bits i 13 5 == 31
/-- Its position in the context's serial table (R144). -/
def identPos (i : Nat) : Nat := bits i 7 13

/-- The serial table's entry of a position. -/
def Context.serial (c : Context) (pos : Nat) : Nat :=
  match c.serials.find? fun (x : Nat × Nat) => x.1 == pos with
  | some (_, n) => n
  | none => 0

/-- Set it. -/
def State.setSerial (s : State) (ctx pos n : Nat) : State :=
  s.modCtx ctx fun c => { c with serials := drop (fun (x : Nat × Nat) => x.1 == pos) c.serials ++ [(pos, n)] }

/-! ### The scratchpad -/

/-- Does a word of n bytes at an offset of a scratchpad report an uncorrectable error (R303)? -/
def Workgroup.scratchUe (w : Workgroup) (off n : Nat) : Bool := w.scratchBad.any fun k => off < 8 * k + 8 && 8 * k < off + n

/-- Write n bytes of a scratchpad: a word that is written whole is good from then on. -/
def Workgroup.scratchPut (w : Workgroup) (off n v : Nat) : Workgroup :=
  { w with scratch := w.scratch.writeNat off n v, scratchBad := drop (fun k => off ≤ 8 * k && 8 * k + 8 ≤ off + n) w.scratchBad }

/-! ### Free values (log 2) -/

/-- dt ns pass on the clock that counts cycles. Of its cycles GATE sixteenths are gated (R199); 1 ns is one and a half. -/
def State.tick (s : State) (dt : Nat) : State :=
  { s with clock := s.clock + dt, clocked := s.clocked + dt * 3 * (16 - s.plat.gate) }

/-- A number of clocked cycles, as State.clocked counts them. -/
def clockedCycles (n : Nat) : Nat := 32 * n

/-- Sample the global time: a free amount passes first (R349, R394). -/
def State.sampleTime (s : State) : Nat × State :=
  let d := Config.freeElapsed s.draws
  (s.time + d, { s.tick d with time := s.time + d, draws := s.draws + 1 })

/-- The time, read by a group: its issues since it last read it have taken a cycle each at least (R349). -/
def State.groupTime (s : State) (g : Group) : Nat × State :=
  let d := g.sampledAt + g.issues * 2 / 3 - s.clock
  ({ s.tick d with time := s.time + d } : State).sampleTime

/-- A free choice. -/
def State.choose (s : State) : Bool × State := (Config.freeChoice s.draws, { s with draws := s.draws + 1 })

/-- A free choice among several (R58, log 2). -/
def State.pick (s : State) : Nat × State := (Config.freePick s.draws, { s with draws := s.draws + 1 })

/-! ### Interrupts and logs -/

/-- Interrupt the driver. -/
def State.irq (s : State) (i : Irq) : State := { s with irqs := s.irqs ++ [i] }

/-- Log to the driver. -/
def State.note (s : State) (l : LogLine) : State := { s with log := s.log ++ [l] }

end Sys2Proof.Machine
end

