-- ==== Sys2Proof/Machine/Phys.lean ====
section
/-!
DEFINITION. Phys: physical addresses, homes (R59, R68), and the bytes a requester reads and writes at them: committed
state, transactional overlays (R120 to R122), and data units that CXL.mem wrote (R423).
-/

namespace Sys2Proof.Machine

/-- Are the registers beyond the identity block served: Phobos runs its firmware (R421)? -/
def State.served (s : State) : Bool := s.plat.released

/-- Class of a physical address, PA[51:50] (R35). -/
def paClass (pa : Nat) : Nat := bits pa 50 2

/-- Local device memory, reserve included (R35). -/
def paLocal (pa : Nat) : Bool := pa < Config.localBytes

/-- Local device memory that programs and tables may use: below the hardware reserve (R31, R67). -/
def paUsable (pa : Nat) : Bool := pa < Config.reserveBase

/-- The 64 KiB part of a local address (R68). -/
def partOf (pa : Nat) : Nat := pa / 65536

/-- The 2 MiB unit of a part (R68). -/
def unitOfPart (p : Nat) : Nat := p / 32

/-- The 128-byte line of an address. -/
def lineOf (pa : Nat) : Nat := pa / 128

/-- Home slice number of a line (R59). -/
def sliceOfLine (l : Nat) : Nat :=
  16 * (l % 3) + Nat.xor (Nat.xor (bits l 0 4) (bits l 4 4)) (Nat.xor (bits l 8 4) (bits l 12 4))

/-- L2 set of a line (R59). -/
def setOfLine (l : Nat) : Nat := bits l 4 10

/-- Line number used by the formulas of R59: PA[39:7] of a local address, PA[49:7] of a host one. -/
def lineIndex (pa : Nat) : Nat := if paClass pa == 0 then bits pa 7 33 else bits pa 7 43

/-! ### Parts -/

/-- Charon's record of a part before anything has happened to it: SINGLE at die PA[17:16] (R68, R76). -/
def Part.reset (p : Nat) : Part where
  num := p
  home := p % 4
  st := .single
  copies := []
  filling := []
  reads := [0, 0, 0, 0]
  writes := [0, 0, 0, 0]
  extReads := 0
  extWrites := 0
  lastReads := [0, 0, 0, 0]
  wrote := false
  requested := false
  awaited := []
  partner := none

/-- A part's record. -/
def State.part (s : State) (p : Nat) : Part := (s.parts.find? (·.num == p)).getD (Part.reset p)

/-- Change a part's record. -/
def State.modPart (s : State) (p : Nat) (f : Part → Part) : State :=
  { s with parts := upsert (·.num == p) (Part.reset p) f s.parts }

/-- A unit that is not split. -/
def PUnit.reset (u : Nat) : PUnit := { num := u, split := false, lastWrite := 0 }

/-- A unit's record. -/
def State.unit (s : State) (u : Nat) : PUnit := (s.units.find? (·.num == u)).getD (PUnit.reset u)

/-- Change a unit's record. -/
def State.modUnit (s : State) (u : Nat) (f : PUnit → PUnit) : State :=
  { s with units := upsert (·.num == u) (PUnit.reset u) f s.units }

/-! ### Governing attributes (R76) -/

/-- The leaf walks that map a part. -/
def State.walksOf (s : State) (p : Nat) : List LeafWalk := s.leafWalks.filter fun w => w.base ≤ p && p < w.base + w.count

/-- Does a leaf of 2 MiB or more map the unit (R68)? -/
def State.largeUnit (s : State) (u : Nat) : Bool := (s.walksOf (u * 32)).any fun w => 32 ≤ w.count

/-- Is the part in a merged unit (R70)? -/
def State.mergedPart (s : State) (p : Nat) : Bool := s.largeUnit (unitOfPart p) && !(s.unit (unitOfPart p)).split

/-- Was the walk made in the current or the previous epoch? -/
def State.recentWalk (s : State) (w : LeafWalk) : Bool := s.epoch ≤ w.epoch + 1

/-- The walk that was made last. -/
def lastWalk (ws : List LeafWalk) : Option LeafWalk :=
  ws.foldl (fun acc w => match acc with
    | some a => if a.order ≤ w.order then some w else acc
    | none => some w) none

/-- The governing placement of a part, with the die of a pin. -/
def State.governing (s : State) (p : Nat) : Placement × Nat :=
  let ws := s.walksOf p
  match ws.filter s.recentWalk with
  | [] => match lastWalk ws with
    | some w => (w.pm, w.pd)
    | none => (.auto, 0)
  | rs =>
    match lastWalk (rs.filter (·.pm == .pinned)) with
    | some w => (.pinned, w.pd)
    | none => if rs.any (·.pm == .interleaved) then (.interleaved, 0) else (.auto, 0)

/-- Place among the walks of the part's last free-frame command. -/
def State.freedAt (s : State) (p : Nat) : Nat :=
  s.frees.foldl (fun m (b, n, o) => if b ≤ p && p < b + n then max m o else m) 0

/-- Is read duplication allowed for a part? -/
def State.rdAllowed (s : State) (p : Nat) : Bool :=
  let ws := s.walksOf p
  (ws.any fun w => w.rd && s.freedAt p ≤ w.order) && !(ws.any fun w => s.recentWalk w && !w.rd)

/-- Home die of a part: an interleaved one is always at die PA[17:16] (R68). -/
def State.homeDie (s : State) (p : Nat) : Nat := if (s.governing p).1 == .interleaved then p % 4 else (s.part p).home

/-- Home slice of a local address (R59, R68). -/
def State.homeSlice (s : State) (pa : Nat) : SliceId := ⟨s.homeDie (partOf pa), sliceOfLine (lineIndex pa)⟩

/-! ### Stored and plain bytes (R423) -/

/-- The key that a part's data is stored under: that of the context whose tables were last seen to map it, 0 for none (log 7). -/
def State.keyAt (s : State) (p : Nat) : Nat :=
  match lastWalk (s.walksOf p) with
  | some w => (s.ctx w.ctx).key.getD 0
  | none => 0

/-- The key under which a data unit was written last; of one that no context has written, its part's. -/
def State.unitKey (s : State) (u : Nat) : Nat :=
  match s.unitKeys.find? fun (x : Nat × Nat) => x.1 == u with
  | some (_, k) => k
  | none => s.keyAt (u / 512)

/-- A data unit as one number, its first byte the lowest. -/
def unitBits (bytes : List Byte) : BitVec 1024 := BitVec.ofNat 1024 (bytesNat bytes)

/-- A byte of a data unit. -/
def unitByte (v : BitVec 1024) (i : Nat) : Byte := BitVec.ofNat 8 (v.toNat / 256 ^ i)

/-- The stored bits of a data unit: as CXL.mem wrote them, or encrypted. -/
def State.storedUnit (s : State) (u : Nat) : BitVec 1024 :=
  let v := unitBits (s.mem.readBytes (u * 128) 128)
  if s.rawUnits.contains u then v else (Config.cipher (s.unitKey u) u).enc v

/-- Does a context read a data unit otherwise than memory holds it: CXL.mem wrote it, or a context did under another key? -/
def State.sealedFor (s : State) (ctx u : Nat) : Bool :=
  s.rawUnits.contains u || (s.unitKeys.any fun x => x.1 == u && match (s.ctx ctx).key with
    | some k => k != x.2
    | none => false)

/-- The plain byte a context reads at an address: its unit's stored bits decrypted with the context's key. -/
def State.plainByte (s : State) (ctx pa : Nat) : Byte :=
  let u := pa / 128
  if s.sealedFor ctx u then
    unitByte ((Config.cipher ((s.ctx ctx).key.getD (s.unitKey u)) u).dec (s.storedUnit u)) (pa % 128)
  else s.mem.read pa

/-- A unit about to be written by a context: held as the bytes the context reads, under its key, from then on. -/
def State.plainUnit (s : State) (ctx pa : Nat) : State :=
  let u := pa / 128
  let t : State := if s.sealedFor ctx u then
      { s with
        mem := s.mem.writeBytes (u * 128) ((List.range 128).map fun i => s.plainByte ctx (u * 128 + i))
        rawUnits := drop (· == u) s.rawUnits }
    else s
  match (s.ctx ctx).key with
  | some k => { t with unitKeys := upsert (fun (x : Nat × Nat) => x.1 == u) (u, k) (fun _ => (u, k)) t.unitKeys }
  | none => t

/-! ### Overlays (R120 to R122) -/

/-- a ≤ b for tickets, within a window of 2^31 (R124). -/
def ticketLe (a b : Nat) : Bool := (b + 2 ^ 32 - a % 2 ^ 32) % 2 ^ 32 < 2 ^ 31

/-- Is the entry committed (R122)? -/
def State.committed (s : State) (o : Overlay) : Bool :=
  match o.ticket with
  | none => false
  | some t => !o.discarded && ticketLe t (s.ctx o.ctx).cTicket

/-- Does the entry hold the byte of a local address? -/
def Overlay.holds (o : Overlay) (pa : Nat) : Bool :=
  o.part == partOf pa && !o.discarded && o.frame.isSome && o.bytes.contains (pa % 65536)

/-- The entry that R122 resolves an address to for a requester of attempt own: its own entry first, otherwise the last
published committed entry. The list keeps committed entries in the order of their publishes. -/
def State.resolve (s : State) (own : Option Nat) (pa : Nat) : Option Overlay :=
  let mine := match own with
    | some lid => s.overlays.find? fun (o : Overlay) => o.lid == lid && o.holds pa && !s.committed o
    | none => none
  match mine with
  | some o => some o
  | none => (s.overlays.filter fun (o : Overlay) => o.holds pa && s.committed o).getLast?

/-- Where the byte that a requester reads at a local address lies (R122). -/
def State.bytePlace (s : State) (own : Option Nat) (pa : Nat) : Nat :=
  match s.resolve own pa with
  | some o => o.frame.getD 0 + pa % 65536
  | none => pa

/-- The byte a requester of context ctx reads at a physical address. -/
def State.readByte (s : State) (own : Option Nat) (ctx pa : Nat) : Byte :=
  s.plainByte ctx (if paUsable pa then s.bytePlace own pa else pa)

/-- A run of bytes. -/
def State.readPhys (s : State) (own : Option Nat) (ctx pa : Nat) : Nat → List Byte
  | 0 => []
  | n + 1 => s.readByte own ctx pa :: State.readPhys s own ctx (pa + 1) n

/-- The entry an attempt writes a part through, when it has one (R121). -/
def State.ownEntry? (s : State) (lid pa : Nat) : Option Overlay :=
  s.overlays.find? fun o => o.lid == lid && o.part == partOf pa && o.frame.isSome && !o.discarded && !s.committed o

/-- Record in an entry's masks that a byte was written (R120). -/
def Overlay.mark (o : Overlay) (pa : Nat) : Overlay :=
  { o with lines := addNew o.lines (pa % 65536 / 128), bytes := addNew o.bytes (pa % 65536) }

/-- A write of one byte. An attempt's write to a T page goes to its overlay entry (R121); any other write goes to committed
state (R115), which for a byte of a committed entry that is not folded is that entry's frame (R122). Host and peer memory have no
overlay: a write is made there at once (log 71). -/
def State.writeByte (s : State) (own : Option Nat) (ctx pa : Nat) (b : Byte) : State :=
  if paUsable pa then
    match own with
    | some lid =>
      match s.ownEntry? lid pa with
      | some o =>
        let s := s.plainUnit ctx (o.frame.getD 0 + pa % 65536)
        { s with
          mem := s.mem.write (o.frame.getD 0 + pa % 65536) b
          overlays := upd (fun x => x.lid == lid && x.part == partOf pa && x.frame.isSome && !x.discarded && !s.committed x)
            (·.mark pa) s.overlays }
      | none => s
    | none =>
      let s := s.plainUnit ctx (s.bytePlace none pa)
      { s with mem := s.mem.write (s.bytePlace none pa) b }
  else { s with mem := s.mem.write pa b }

/-- Write a run of bytes. -/
def State.writePhys (s : State) (own : Option Nat) (ctx pa : Nat) : List Byte → State
  | [] => s
  | b :: bs => State.writePhys (s.writeByte own ctx pa b) own ctx (pa + 1) bs

/-- Zero a range of committed state and forget that CXL.mem wrote it (R25, R48, R79). -/
def State.zeroPhys (s : State) (pa len : Nat) : State :=
  { s with
    mem := s.mem.zero pa len
    badLines := drop (fun u => pa / 128 ≤ u && u < (pa + len) / 128) s.badLines
    rawUnits := drop (fun u => pa / 128 ≤ u && u < (pa + len) / 128) s.rawUnits
    unitKeys := drop (fun x => pa / 128 ≤ x.1 && x.1 < (pa + len) / 128) s.unitKeys }

/-- The 8-byte word that the device itself reads at a local address: a table entry, a ring entry. -/
def State.readWord (s : State) (ctx pa : Nat) : W64 := w64 (bytesNat (s.readPhys none ctx pa 8))

/-- The device's own write of an 8-byte word. -/
def State.writeWord (s : State) (ctx pa : Nat) (v : W64) : State := s.writePhys none ctx pa (natBytes 8 v.toNat)

end Sys2Proof.Machine
end

