-- ==== Sys2Proof/Machine/Caches.lean ====
section
/-!
DEFINITION. Caches: which lines the L1s, the victim buffers, the L2 slices and the region directories hold (R56 to R66, R80).
They hold no data: memory has one value for every byte, and what a cache holds decides only what reaches a home slice, what
Charon counts (R69), and what an access waits for.
-/

namespace Sys2Proof.Machine

/-- Drop lines from the L1s, victim buffers and slices of some dies. -/
def State.dropLines (s : State) (die : Nat → Bool) (p : Nat → Bool) : State :=
  { s with
    cores := s.cores.map fun (c : Core) =>
      if die c.id.die then
        { c with l1 := drop (fun (x : L1Line) => p x.line) c.l1, victims := drop (fun (x : Victim) => p x.line) c.victims }
      else c
    l2 := drop (fun (x : L2Line) => die x.at_.die && p x.line) s.l2 }

/-- The lines of a part. -/
def lineInPart (part line : Nat) : Bool := line / 512 == part

/-- A code-cache line that memory is about to change under: what stands there now is one of the things a later fetch may return
(R58, log 55). -/
def CodeLine.saw (x : CodeLine) (now : List Byte) : CodeLine :=
  if now == (x.past.getLast?).getD x.bytes then x else { x with past := x.past ++ [now] }

/-- Memory is about to change under some lines (R58). -/
def State.noteCode (s : State) (p : Nat → Bool) : State :=
  let saw (x : CodeLine) : CodeLine := if p x.line then x.saw (s.readPhys none x.ctx (x.line * 128) 128) else x
  { s with cores := s.cores.map fun (c : Core) => { c with code := c.code.map saw } }

/-! ### L1 (R56, R57) -/

/-- An access as the caches see it: core, line, view with its context (R80), home die, whether the core's die serves reads
from a copy, whether the line is the host's, which is cached as a remote line on the core's die (R62), and the insertion class of
R63: 0 demand, 1 copies, 2 matrix operands. -/
structure CacheReq where
  core : CoreId
  line : Nat
  view : Nat
  ctx : Nat
  home : Nat
  copy : Bool
  host : Bool
  cls : Nat
  deriving DecidableEq, Repr

/-- Does the core's die cache the line in its remote ways (R63)? -/
def CacheReq.remote (q : CacheReq) : Bool := q.host || (q.home != q.core.die && !q.copy)

/-- Is it the line of the request, as a tag of its view? -/
def CacheReq.tags (q : CacheReq) (line view ctx : Nat) : Bool := line == q.line && view == q.view && (view == 0 || ctx == q.ctx)

/-- The state in which a core's L1 holds the request's line. -/
def Core.l1State (c : Core) (q : CacheReq) : Option L1St := (c.l1.find? fun (x : L1Line) => q.tags x.line x.view x.ctx).map (·.st)

/-- Make room in the line's set of 8 ways: the oldest line leaves (log 12), a dirty one into the victim buffer. None when the
fill has to wait: it needs an eviction while all 16 entries of that buffer wait for grants (R57). -/
def Core.l1Room (c : Core) (q : CacheReq) : Option Core :=
  let set := c.l1.filter fun (x : L1Line) => x.line % 256 == q.line % 256 && !q.tags x.line x.view x.ctx
  if set.length < 8 then some c
  else
    match set with
    | [] => some c
    | v :: _ =>
      let c' := { c with l1 := drop (fun (x : L1Line) => x == v) c.l1 }
      if 16 ≤ c.victims.length then none
      else if v.st == .m || v.st == .o then some { c' with victims := c.victims ++ [{ line := v.line, dirty := true }] }
      else some c'

/-- Put the line into the L1 in a state. -/
def Core.l1Put (c : Core) (q : CacheReq) (st : L1St) : Core :=
  { c with l1 := drop (fun (x : L1Line) => q.tags x.line x.view x.ctx) c.l1 ++
      [{ line := q.line, view := q.view, ctx := q.ctx, st := st }] }

/-- Answer a snoop from the cache or the victim buffer: give the line up, or keep it shared; a victim entry that answers is
marked clean (R57). -/
def Core.snoop (c : Core) (line : Nat) (inval : Bool) : Core :=
  let down (x : L1Line) : L1Line :=
    if x.line == line then { x with st := match x.st with
      | .m => .o
      | .e => .s
      | .o => .o
      | .s => .s } else x
  { c with
    l1 := if inval then drop (fun (x : L1Line) => x.line == line) c.l1 else c.l1.map down
    victims := upd (fun (x : Victim) => x.line == line) (fun x => { x with dirty := false }) c.victims }

/-- Snoop every core that satisfies p. -/
def State.snoopAll (s : State) (p : CoreId → Bool) (line : Nat) (inval : Bool) : State :=
  { s with cores := s.cores.map fun (c : Core) => if p c.id then c.snoop line inval else c }

/-! ### L2 slices (R59, R60, R63) -/

/-- Slice and set of a line on a die (R59). -/
def sliceAt (die line : Nat) : SliceId × Nat :=
  let l := lineIndex (line * 128)
  (⟨die, sliceOfLine l⟩, setOfLine l)

/-- The selector and the count of bimodal fills of a slice and class. -/
def State.selector (s : State) (sl : SliceId) (cls : Nat) : Nat × Nat :=
  match s.selectors.find? fun (x : SliceId × Nat × Nat × Nat) => x.1 == sl && x.2.1 == cls with
  | some (_, _, sel, n) => (sel, n)
  | none => (512, 0)

/-- Set them. -/
def State.setSelector (s : State) (sl : SliceId) (cls sel n : Nat) : State :=
  let rest := drop (fun (x : SliceId × Nat × Nat × Nat) => x.1 == sl && x.2.1 == cls) s.selectors
  { s with selectors := rest ++ [(sl, cls, sel, n)] }

/-- The value a fill is inserted at, after the miss has been counted in a leader set (R63). The selector stops at 0 and 1,023, and
the 32nd bimodal fill is the one inserted at 2 (log 61). -/
def State.insertion (s : State) (sl : SliceId) (set cls : Nat) : Nat × State :=
  let (sel, n) := s.selector sl cls
  let leader := Config.leaderSet cls set
  let sel := if leader == 1 then min 1023 (sel + 1) else if leader == 2 then sel - 1 else sel
  let static := leader == 1 || (leader != 2 && sel < 512)
  (if static || n % 32 == 31 then 2 else 3, s.setSelector sl cls sel (if static then n else (n + 1) % 32))

/-- The victim of a set: the lowest way at value 3, every value of the set rising until one is there. -/
def pickVictim (mine : List L2Line) : (fuel : Nat) → Nat → Option (L2Line × Nat)
  | 0, _ => none
  | fuel + 1, rise =>
    match minBy (·.way) (mine.filter fun (x : L2Line) => 3 ≤ x.rrpv + rise) with
    | some v => some (v, rise)
    | none => pickVictim mine fuel (rise + 1)

/-- Fill a line into a slice: the lowest free way, or the victim's. A set holds at most 4 remote lines (R63); among the 4 only
their own values rise (log 61). An evicted line leaves the L1s of the die first (R60). -/
def State.l2Fill (s : State) (die : Nat) (q : CacheReq) (remote : Bool) : State :=
  let (sl, set) := sliceAt die q.line
  let (ins, s) := s.insertion sl set (if remote then 3 else q.cls)
  let here := s.l2.filter fun (x : L2Line) => x.at_ == sl && x.set == set
  let remotes := here.filter (·.remote)
  let full := if remote && 4 ≤ remotes.length then remotes else if 16 ≤ here.length then here else []
  let (way, s) : Nat × State :=
    match pickVictim full 4 0 with
    | some (v, rise) =>
      let s := s.snoopAll (fun c => c.die == die) v.line true
      (v.way, { s with l2 := (drop (fun (x : L2Line) => x == v) s.l2).map fun (x : L2Line) =>
        if full.contains x then { x with rrpv := min 3 (x.rrpv + rise) } else x })
    | none => (((List.range 16).find? fun w => here.all fun x => x.way != w).getD 0, s)
  { s with l2 := s.l2 ++ [{ at_ := sl, set := set, way := way, line := q.line, view := q.view, ctx := q.ctx, rrpv := ins,
                            remote := remote }] }

/-- Look a line up in the slice of a die, filling it on a miss. Answers whether it hit. -/
def State.l2Access (s : State) (die : Nat) (q : CacheReq) (remote : Bool) : Bool × State :=
  let (sl, _) := sliceAt die q.line
  let mine (x : L2Line) : Bool := x.at_ == sl && q.tags x.line x.view x.ctx
  if s.l2.any mine then (true, { s with l2 := upd mine (fun x => { x with rrpv := 0 }) s.l2 })
  else (false, s.l2Fill die q remote)

/-! ### Region directory (R64 to R66) -/

/-- Does a region of this base and size cover the line? -/
def covers (base size line : Nat) : Bool := base ≤ line * 128 && line * 128 < base + size

/-- The entry of the line's home slice that covers it. -/
def State.region? (s : State) (sl : SliceId) (line : Nat) : Option RegionEntry :=
  s.regions.find? fun (r : RegionEntry) => r.at_ == sl && covers r.base r.size line

/-- The dies of a mask. -/
def maskDies (m : BitVec 4) : List Nat := (List.range 4).filter m.getLsbD

/-- Drop the lines that a home slice homes in a range from some dies. -/
def State.dropRange (s : State) (sl : SliceId) (base size : Nat) (die : Nat → Bool) : State :=
  s.dropLines die fun line => covers base size line && (sliceAt sl.die line).1.slice == sl.slice

/-- The set of the directory that a region falls in: that of its 64 KiB region, modulo the 1,024 sets (R66, log 12). -/
def regionSet (base : Nat) : Nat := base / 65536 % 1024

/-- Install an entry. In a full set of 8 the entry that has gone longest without a fill leaves, its range invalidated on its
sharers first (R66). -/
def State.installRegion (s : State) (e : RegionEntry) : State :=
  let mine := s.regions.filter fun (r : RegionEntry) => r.at_ == e.at_ && regionSet r.base == regionSet e.base
  let s :=
    if mine.length < 8 then s
    else
      match minBy (·.lastFill) mine with
      | some v =>
        let s := s.dropRange e.at_ v.base v.size fun d => v.mask.getLsbD d
        { s with regions := drop (fun (x : RegionEntry) => x == v) s.regions }
      | none => s
  { s with regions := s.regions ++ [e] }

/-- The largest aligned region of a line, 64 KiB or a fraction of it, that meets no entry of the slice (R64). -/
def State.freeRegion (s : State) (sl : SliceId) (line : Nat) : (size : Nat) → (fuel : Nat) → Nat × Nat
  | size, 0 => (line * 128 / size * size, size)
  | size, fuel + 1 =>
    let base := line * 128 / size * size
    if s.regions.any fun (r : RegionEntry) => r.at_ == sl && r.base < base + size && base < r.base + r.size then
      State.freeRegion s sl line (size / 2) fuel
    else (base, size)

/-- Note that a die has filled a remote line: in the entry that covers the line, or in a new one (R64). -/
def State.noteShare (s : State) (sl : SliceId) (line die : Nat) : State :=
  let bit4 : BitVec 4 := BitVec.ofNat 4 (2 ^ die)
  match s.region? sl line with
  | some r =>
    let noted := { r with mask := r.mask ||| bit4, lastFill := s.clock }
    { s with regions := upd (fun (x : RegionEntry) => x == r) (fun _ => noted) s.regions }
  | none =>
    let (base, size) := s.freeRegion sl line 65536 9
    s.installRegion { at_ := sl, base := base, size := size, mask := bit4, lastFill := s.clock, lastSplit := s.clock }

/-- Dies other than the writer that a write to a line has to be invalidated on first. -/
def State.otherSharers (s : State) (sl : SliceId) (line die : Nat) : List Nat :=
  match s.region? sl line with
  | some r => (maskDies r.mask).filter (· != die)
  | none => []

/-- Start the invalidation of the half that holds the line, or of the whole of a region that is one line (R64 step 1). -/
def State.startInval (s : State) (sl : SliceId) (line die : Nat) : State :=
  match s.region? sl line with
  | none => s
  | some r =>
    if s.regionInvals.any fun x => x.at_ == sl && x.base == r.base && x.size == r.size then s
    else
      let hs := if r.size == 128 then 128 else r.size / 2
      let half := if r.size == 128 || line * 128 < r.base + hs then r.base else r.base + hs
      { s with regionInvals := s.regionInvals ++
          [{ at_ := sl, base := r.base, size := r.size, half := half, halfSize := hs, line := line, byDie := die,
             awaited := (maskDies r.mask).filter (· != die) }] }

/-- Does a die's L2 hold a line in its remote ways? -/
def State.cachesLine (s : State) (die line : Nat) : Bool := s.l2.any fun x => x.at_.die == die && x.remote && x.line == line

/-- Every sharer has acknowledged: split the region. The written half keeps the writer when it caches the line, and no die
otherwise; the other half keeps the mask; both stay in the directory with the time of the split (R64 step 2, R65). -/
def State.endInval (s : State) (v : RegionInval) : State :=
  let s := { s with regionInvals := drop (fun (x : RegionInval) => x == v) s.regionInvals }
  match s.regions.find? fun (r : RegionEntry) => r.at_ == v.at_ && r.base == v.base && r.size == v.size with
  | none => s
  | some r =>
    let keep : BitVec 4 := if s.cachesLine v.byDie v.line then BitVec.ofNat 4 (2 ^ v.byDie) else 0
    let written := { r with base := v.half, size := v.halfSize, mask := keep, lastSplit := s.clock }
    let s := { s with regions := upd (fun (x : RegionEntry) => x == r) (fun _ => written) s.regions }
    if v.halfSize == v.size then s
    else
      let other := if v.half == v.base then v.base + v.halfSize else v.base
      s.installRegion { r with base := other, size := v.halfSize, lastSplit := s.clock }

/-! ### Accesses -/

/-- What an access to a cacheable line comes to: done, and whether it arrived at a home or replica slice for Charon's
counts (R69); or a wait, for a victim buffer or for other dies' copies. -/
inductive CacheRes where
  | done (arrived : Bool) (s : State)
  | wait (s : State)
  deriving DecidableEq, Repr

/-- A read of a line by way of the L2 of the core's die: from there, or from its home. Answers whether it missed in the L2. -/
def State.l2Read (s : State) (q : CacheReq) : Bool × State :=
  let (hit, s) := s.l2Access q.core.die q q.remote
  let s := if q.remote && !q.host && !hit then
      (s.l2Access q.home q false).2.noteShare (sliceAt q.home q.line).1 q.line q.core.die
    else s
  (!hit, s)

/-- A read of a cacheable line. A miss demotes the copies that other L1s of the device hold dirty or alone. -/
def State.cacheRead (s : State) (q : CacheReq) : CacheRes :=
  let c := s.core q.core
  if (c.l1State q).isSome then .done false s
  else
    match c.l1Room q with
    | none => .wait s
    | some c' =>
      let (missed, s) := (s.modCore q.core fun _ => c').l2Read q
      let (sl, _) := sliceAt q.home q.line
      let held := s.cores.any fun x => x.id != q.core && x.l1.any fun y => y.line == q.line
      let s := s.snoopAll (· != q.core) q.line false
      let sole := !held && !q.remote && !q.copy && (s.otherSharers sl q.line q.core.die).isEmpty
      .done missed (s.modCore q.core fun c => c.l1Put q (if sole then .e else .s))

/-- A write of a cacheable line. One to an S page is written through (R56). One that hits M or E is the sole copy and asks
nobody; any other obtains ownership, after the invalidations of R64. A host line leaves the other dies: its home grants it to
one (R62). -/
def State.cacheWrite (s : State) (q : CacheReq) (through : Bool) : CacheRes :=
  let s := s.noteCode (· == q.line)
  let c := s.core q.core
  let (sl, _) := sliceAt q.home q.line
  if !through && (c.l1State q == some .m || c.l1State q == some .e) then
    .done false (s.modCore q.core fun c => c.l1Put q .m)
  else if !q.host && !(s.otherSharers sl q.line q.core.die).isEmpty then .wait (s.startInval sl q.line q.core.die)
  else
    let s := s.snoopAll (fun x => x != q.core) q.line true
    let s := if q.host then s.dropLines (· != q.core.die) (· == q.line) else s
    if through then
      let (hit, s) := s.l2Access q.home q q.host
      .done (!hit || q.remote) s
    else
      match (s.core q.core).l1Room q with
      | none => .wait s
      | some c' =>
        let s := s.modCore q.core fun _ => c'
        let (hit, s) := s.l2Access q.core.die q q.remote
        let s := if q.remote && !q.host && !hit then s.noteShare sl q.line q.core.die else s
        .done (!hit) (s.modCore q.core fun c => c.l1Put q .m)

/-- An access performed at the home slice itself: an operation of R61, or any access to a page with C = 0 (R62). A write recalls
the line from every L1, invalidates it under R64 on dies other than the requester's, and leaves no copy outside its home. -/
def State.homeAccess (s : State) (q : CacheReq) (write fill : Bool) : CacheRes :=
  let (sl, _) := sliceAt q.home q.line
  if write && !q.host && !(s.otherSharers sl q.line q.core.die).isEmpty then .wait (s.startInval sl q.line q.core.die)
  else
    let s := s.snoopAll (fun _ => true) q.line write
    let s := if write then (s.noteCode (· == q.line)).dropLines (· != q.home) (· == q.line) else s
    .done true (if fill then (s.l2Access q.home q q.host).2 else s)

end Sys2Proof.Machine
end

