-- ==== Sys2Proof/Machine/Homes.lean ====
section
/-!
DEFINITION. Homes: the reserve, Charon's counts, collapses and exchanges as an access meets them, and the writes that do not come
from a program: from outside the compute dies, and of the device itself (R61, R64, R67, R69 to R74, R109, R128).
-/

namespace Sys2Proof.Machine

/-! ### The hardware reserve (R67) -/

/-- Address of a frame of a die's reserve; the four dies' shares lie one after the other (log 26). -/
def reservePa (die n : Nat) : Nat := Config.reserveBase + die * 2 ^ 32 + n * 65536

/-- The lowest free frame of a die's reserve. -/
def State.freeReserve (s : State) (die : Nat) : Option Nat :=
  let used := (s.reserveUsed.filter fun (x : Nat × Nat) => x.1 == die).map (·.2)
  ((List.range (used.length + 1)).find? fun n => !used.contains n).filter (· < Config.reserveFramesPerDie)

/-- Take a frame of a die's reserve; it reads as zero to its new owner (R48). -/
def State.takeReserve (s : State) (die : Nat) : Option Nat × State :=
  match s.freeReserve die with
  | some n =>
    let pa := reservePa die n
    (some pa, { s.zeroPhys pa 65536 with reserveUsed := s.reserveUsed ++ [(die, n)] })
  | none => (none, s)

/-- Give a frame back. -/
def State.giveReserve (s : State) (pa : Nat) : State :=
  let off := pa - Config.reserveBase
  { s with reserveUsed := drop (fun (x : Nat × Nat) => x == (off / 2 ^ 32, off % 2 ^ 32 / 65536)) s.reserveUsed }

/-! ### Counts (R69) -/

/-- One more access of a die. -/
def countUp (l : List Nat) (die : Nat) : List Nat := modAt l die fun n => min 0xFFFF (n + 1)

/-- Count an access of a die that arrives at a part's home or replica slice. -/
def State.countAccess (s : State) (part die : Nat) (write : Bool) : State :=
  s.modPart part fun p =>
    if write then { p with writes := countUp p.writes die, wrote := true } else { p with reads := countUp p.reads die }

/-- Count a write of an attempt into its overlay: no write for the rules of R70 (R131). -/
def State.countOverlay (s : State) (part die : Nat) : State := s.modPart part fun p => { p with writes := countUp p.writes die }

/-- Count an access of the host or of a peer. -/
def State.countExt (s : State) (part : Nat) (write : Bool) : State :=
  s.modPart part fun p =>
    if write then { p with extWrites := min 0xFFFF (p.extWrites + 1), wrote := true }
    else { p with extReads := min 0xFFFF (p.extReads + 1) }

/-- Note the time of a write in the part's unit, for the quiet time of R70. -/
def State.noteWrite (s : State) (part : Nat) : State :=
  if s.largeUnit (unitOfPart part) then s.modUnit (unitOfPart part) fun u => { u with lastWrite := s.clock } else s

/-- Reads plus writes of a die. -/
def Part.count (p : Part) (die : Nat) : Nat := p.reads[die]?.getD 0 + p.writes[die]?.getD 0

/-- Every access of every die in the epoch. -/
def Part.total (p : Part) : Nat := p.reads.foldl (· + ·) 0 + p.writes.foldl (· + ·) 0

/-- Does a die hold a usable copy? While the part collapses, only until the die has acknowledged (R73). -/
def Part.usable (p : Part) (die : Nat) : Bool :=
  (p.copies.any fun (x : Nat × Nat) => x.1 == die) && (p.st == .readDup || p.awaited.contains die)

/-! ### Requests to the caches (R80, R128) -/

/-- Is the line of an address pending at a die that holds reads of it (R128 step 4)? -/
def State.readHeld (s : State) (own : Option Nat) (pa : Nat) : Bool :=
  s.overlays.any fun o => o.pending && !o.discarded && own != some o.lid && o.part == partOf pa &&
    o.lines.contains (pa % 65536 / 128) && match s.launch? o.lid with
      | some l => l.prepared.contains (s.homeDie (partOf pa)) && !l.released.contains (s.homeDie (partOf pa))
      | none => false

/-- Are an entry's lines pending at the slices of their part's home die: its commit is under way, and that die has not had the release
(R128 steps 2 and 6)? -/
def State.pendingAt (s : State) (o : Overlay) : Bool :=
  o.pending && match s.launch? o.lid with
    | some l => !l.released.contains (s.homeDie o.part)
    | none => true

/-- Is the line in the masks of a commit under way (R128 step 2)? -/
def State.linePending (s : State) (pa : Nat) : Bool :=
  s.overlays.any fun o => s.pendingAt o && !o.discarded && o.part == partOf pa && o.lines.contains (pa % 65536 / 128)

/-- The request an access makes of the caches. The view is the attempt's own for a line of its mask, or one it writes (R80). -/
def State.cacheReq (s : State) (core : CoreId) (ctx : Nat) (own : Option Nat) (pa cls : Nat) (write : Bool) : CacheReq :=
  let view := match own with
    | none => 0
    | some lid =>
      match s.launch? lid with
      | none => 0
      | some l =>
        if write || (match s.ownEntry? lid pa with
          | some o => o.lines.contains (pa % 65536 / 128)
          | none => false) then l.version else 0
  let local_ := paClass pa == 0
  let p := s.part (partOf pa)
  { core := core, line := lineOf pa, view := view, ctx := ctx, home := if local_ then s.homeDie (partOf pa) else core.die,
    copy := local_ && view == 0 && p.usable core.die, host := !local_, cls := cls }

/-! ### Collapse (R70, R73, R74) -/

/-- The parts that share one set of copies with a part: its merged unit, or the part alone (R70). -/
def State.fellows (s : State) (part : Nat) : List Nat :=
  if s.mergedPart part then (List.range 32).map (part / 32 * 32 + ·) else [part]

/-- A READ-DUP part turns COLLAPSING: each copy-holding die has to drop its lines. -/
def State.startCollapse (s : State) (part : Nat) : State :=
  if (s.part part).st == .readDup then
    s.modPart part fun p =>
      { p with st := .collapsing, awaited := (p.copies ++ p.filling).map (·.1), requested := false }
  else s.modPart part fun p => { p with requested := false }

/-- Split the unit of a part, when it is merged. -/
def State.splitUnit (s : State) (part : Nat) : State :=
  if s.mergedPart part then s.modUnit (unitOfPart part) fun u => { u with split := true, lastWrite := s.clock } else s

/-- Parts whose copies are withdrawn collapse one by one, their merged unit split first (R70, R74). -/
def State.withdraw (s : State) (ps : List Nat) : State := ps.foldl (fun s p =>
  if (s.part p).st == .readDup then (s.splitUnit p).startCollapse p else s) s

/-- Every acknowledgement is there: the part is SINGLE on the same home and its copies' frames are free. -/
def State.endCollapse (s : State) (part : Nat) : State :=
  let p := s.part part
  let s := (p.copies ++ p.filling).foldl (fun s (_, f) => s.giveReserve f) s
  s.modPart part fun p => { p with st := .single, copies := [], filling := [], awaited := [], requested := false }

/-- A whole collapse at once, for an access that is one step of its own. -/
def State.collapseNow (s : State) (part : Nat) : State :=
  let p := s.part part
  if p.st == .readDup || p.st == .collapsing then
    let dies := (p.copies ++ p.filling).map (·.1)
    ((s.splitUnit part).dropLines (fun d => dies.contains d) (lineInPart part)).endCollapse part
  else s

/-- What a write or home operation of a die meets at a part: none when it may be performed, otherwise the state in which it
waits, with the write-protection fault of R74 on its way (R71, R74). -/
def State.writeGate (s : State) (part die : Nat) : Option State :=
  let p := s.part part
  match p.st with
  | .single => none
  | .readDup =>
    if die == s.homeDie part then some ((s.splitUnit part).startCollapse part)
    else some (s.modPart part fun p => { p with requested := true })
  | .migrating => some s
  | .collapsing => some s

/-! ### An exchange, and what an access of one step meets (R71, R73, R74) -/

/-- A part and its partner swap homes, their lines dropped everywhere. -/
def State.swapHomes (s : State) (part : Nat) : State :=
  let p := s.part part
  match p.partner with
  | none => s
  | some q =>
    let hq := (s.part q).home
    let s := s.dropLines (fun _ => true) fun line => lineInPart part line || lineInPart q line
    (s.modPart part fun x => { x with home := hq, st := .single, partner := none }).modPart q fun x =>
      { x with home := p.home, st := .single, partner := none }

/-- The exchanges of a part's unit up to its own, in ascending part order. -/
def State.exchangeNow (s : State) (part : Nat) : State :=
  let upTo (p : Nat) : List Nat := (s.fellows p).filter (· ≤ p)
  let q := match (s.part part).partner with
    | some q => upTo q
    | none => []
  (upTo part ++ q).foldl (fun s p => s.swapHomes p) s

/-- A part that is about to be written by an access of one step: its exchange or its collapse comes to its end first. -/
def State.settlePart (s : State) (part : Nat) : State :=
  if (s.part part).st == .migrating then s.exchangeNow part else s.collapseNow part

/-- The invalidations of R64 for a write to a line by a die, all at once: half after half, until no other die shares the line. -/
def invalNow (sl : SliceId) (line die : Nat) : (fuel : Nat) → State → State
  | 0, s => s
  | fuel + 1, s =>
    if (s.otherSharers sl line die).isEmpty then s
    else
      let s := s.startInval sl line die
      match s.regionInvals.find? fun v => v.at_ == sl && covers v.base v.size line with
      | none => s
      | some v => invalNow sl line die fuel ((s.dropRange sl v.half v.halfSize fun d => v.awaited.contains d).endInval v)

/-! ### Writes of the device itself (R137, R184, R339, R393, R395, R25, R37) -/

/-- The I/O die as a requester: it has no slice, no L1 and no copy (R1). -/
def ioDie : CoreId := ⟨Config.numDies, 0⟩

/-- An operation of the device itself at a local line's home slice, in one step: the line's copies go (R61, R64). -/
def State.lineNow (s : State) (core : CoreId) (ctx pa : Nat) (fill : Bool) : State :=
  let q := s.cacheReq core ctx none pa 0 true
  match (invalNow (sliceAt q.home q.line).1 q.line core.die 10 s).homeAccess q true fill with
  | .done _ s => s
  | .wait s => s

/-- A write of the device itself stands before these local bytes, as one step of its own: their parts are SINGLE at their homes
(R71, R74), no copy of their lines is left (R61, R64), and a write of a core's die is counted (R69, log 62). -/
def State.ownWrite (s : State) (core : CoreId) (ctx : Nat) (pas : List Nat) : State :=
  let parts := dedup (pas.map partOf)
  let s := parts.foldl (fun s p => s.settlePart p) s
  let s := (dedup (pas.map fun pa => lineOf pa * 128)).foldl (fun s pa => s.lineNow core ctx pa true) s
  parts.foldl (fun s p => (if core.die < Config.numDies then s.countAccess p core.die true else s).noteWrite p) s

/-- The device's own write of bytes, for a core, or on the I/O die. Those outside local memory have their home elsewhere. -/
def State.deviceWrite (s : State) (core : CoreId) (ctx pa : Nat) (bytes : List Byte) : State :=
  let s := if paClass pa == 0 then s.ownWrite core ctx ((List.range bytes.length).map (pa + ·)) else s
  s.writePhys none ctx pa bytes

/-- The device's own write of an 8-byte word. -/
def State.deviceWord (s : State) (core : CoreId) (ctx pa : Nat) (v : W64) : State := s.deviceWrite core ctx pa (natBytes 8 v.toNat)

/-- All of a part is about to be written by the device itself. -/
def State.clearPart (s : State) (part : Nat) : State :=
  ((s.noteCode (lineInPart part)).settlePart part).dropLines (fun _ => true) (lineInPart part) |>.noteWrite part

/-- The device zeroes a frame (R25, R28, R447). -/
def State.zeroFrame (s : State) (pa : Nat) : State := (s.clearPart (partOf pa)).zeroPhys pa 65536

/-! ### Writes that wait (R69, R74, R109, R137, R184) -/

/-- A write from outside the compute dies is about to be performed at local bytes: their parts collapse first (R69, R74), and every
copy of their lines is recalled (R61, R64); with C = 0 none is filled (R62). The second answer is false where it has to wait. -/
def State.outsideWrite (s : State) (ctx : Nat) (pas : List Nat) (fill : Bool) : State × Bool :=
  let parts := dedup (pas.map partOf)
  match parts.findSome? fun p => s.writeGate p (s.homeDie p) with
  | some s => (s, false)
  | none =>
    let takeBack (acc : State × Bool) (pa : Nat) : State × Bool :=
      match acc.1.homeAccess (acc.1.cacheReq ioDie ctx none pa 0 true) true fill with
      | .done _ s => (s, acc.2)
      | .wait s => (s, false)
    match (dedup (pas.map fun pa => lineOf pa * 128)).foldl takeBack (s, true) with
    | (s, true) => (parts.foldl (fun s p => s.noteWrite p) s, true)
    | r => r

/-- The same for a write of the host or of a peer, which is counted (R69). -/
def State.hostWrite (s : State) (ctx : Nat) (pas : List Nat) : State × Bool :=
  match s.outsideWrite ctx pas true with
  | (s, true) => ((dedup (pas.map partOf)).foldl (fun s p => s.countExt p true) s, true)
  | r => r

end Sys2Proof.Machine
end

