-- ==== Sys2Proof/Machine/Translate.lean ====
section
/-!
DEFINITION. Translate: windows, private memory and its growth, page walks, the translation buffers, translation faults
(spec/01).
-/

namespace Sys2Proof.Machine

/-! ### Fault codes (R44) -/

def fcNotMapped : Nat := 0x01
def fcMalformed : Nat := 0x02
def fcWriteDenied : Nat := 0x03
def fcExecDenied : Nat := 0x04
def fcWindowKind : Nat := 0x05
def fcHole : Nat := 0x06
def fcWindowBound : Nat := 0x07
def fcPrivateBound : Nat := 0x08
def fcKeyMismatch : Nat := 0x09
def fcPaClass : Nat := 0x0A
def fcPoolEmpty : Nat := 0x11
def fcNotResident : Nat := 0x12

/-- What an access does, as far as translation asks. -/
inductive Acc where
  | load | store | atomic | fetch | query
  deriving DecidableEq, Repr

/-- Does the access need W = 1 and set M (R32)? -/
def Acc.writes : Acc → Bool
  | .store | .atomic => true
  | .load | .fetch | .query => false

/-! ### Table entries (R30 to R34) -/

/-- Bytes a leaf of a level maps, as a power of two (R30). -/
def levelShift (level : Nat) : Nat :=
  match level with
  | 0 => 16
  | 1 => 21
  | 2 => 30
  | _ => 45

/-- Index bits of a level. -/
def levelBits (level : Nat) : Nat :=
  match level with
  | 0 => 5
  | 1 => 9
  | 2 => 15
  | _ => 11

/-- Index of a virtual address in a table of a level (R30). -/
def levelIndex (level va : Nat) : Nat := bits va (levelShift level) (levelBits level)

/-- Size in bytes of a table of a level (R30). -/
def tableBytes (level : Nat) : Nat := 8 * 2 ^ levelBits level

/-- What a walk finds at a table entry. -/
inductive Entry where
  | fault (code : Nat)
  | table (pa : Nat)
  | leaf
  deriving DecidableEq, Repr

/-- A table entry of a level, read for a context (R31 to R34). The checks are made in the order of their rules. -/
def readEntry (ctx level : Nat) (e : W64) : Entry :=
  if !e.getLsbD 0 then
    if e.getLsbD 1 && e.getLsbD 2 then .fault fcNotResident else .fault fcNotMapped
  else if !e.getLsbD 1 then
    let next := fld e 8 44 * 256
    if level == 0 || fld e 2 6 != 0 || fld e 52 12 != 0 || next % tableBytes (level - 1) != 0 || !paUsable next then
      .fault fcMalformed
    else .table next
  else
    let pfn := fld e 16 36 * 65536
    if level == 3 || fld e 6 2 == 3 || fld e 9 2 == 3 || pfn % 2 ^ levelShift level != 0 || fld e 59 5 != 0 ||
        (e.getLsbD 2 && (e.getLsbD 3 || e.getLsbD 8)) then
      .fault fcMalformed
    else if fld e 52 7 != ctx then .fault fcKeyMismatch
    else .leaf

/-- The result of a walk. -/
inductive WalkRes where
  | fault (code : Nat)
  /-- level, address of the entry, entry -/
  | leaf (level entryPa : Nat) (e : W64)
  deriving DecidableEq, Repr

/-- A non-leaf entry that a die's cache holds for a level of a path (R38). -/
def State.cachedEntry (s : State) (die ctx level va : Nat) : Option W64 :=
  (s.nonLeaf.find? fun (d, c, l, p, _) => d == die && c == ctx && l == level && p == va >>> levelShift level).map
    fun (_, _, _, _, e) => e

/-- Keep a non-leaf entry in a die's cache of 256 entries; the oldest leaves a full cache (R38, log 12). -/
def State.cacheEntry (s : State) (die ctx level va : Nat) (e : W64) : State :=
  if (s.cachedEntry die ctx level va).isSome then s
  else
    let mine := s.nonLeaf.filter fun (x : Nat × Nat × Nat × Nat × W64) => x.1 == die
    let rest := s.nonLeaf.filter fun (x : Nat × Nat × Nat × Nat × W64) => x.1 != die
    let mine := if mine.length < 256 then mine else mine.drop 1
    { s with nonLeaf := rest ++ mine ++ [(die, ctx, level, va >>> levelShift level, e)] }

/-- A die's walker reads a word of a table at its home slice, which counts (R69, log 62). -/
def State.countWalk (s : State) (die : Option Nat) (pa : Nat) : State :=
  match die with
  | some d => s.countAccess (partOf pa) d false
  | none => s

/-- Walk from a table of a level down (R30). With a die, its cache of non-leaf entries is used and filled. -/
def walkFrom (s : State) (die : Option Nat) (ctx va : Nat) : (level : Nat) → (table : Nat) → WalkRes × State
  | 0, table =>
    let epa := table + 8 * levelIndex 0 va
    let e := s.readWord ctx epa
    let s := s.countWalk die epa
    match readEntry ctx 0 e with
    | .fault c => (.fault c, s)
    | .table _ => (.fault fcMalformed, s)
    | .leaf => (.leaf 0 epa e, s)
  | level + 1, table =>
    let epa := table + 8 * levelIndex (level + 1) va
    let cached := die.bind fun d => s.cachedEntry d ctx (level + 1) va
    let e := cached.getD (s.readWord ctx epa)
    let s := if cached.isSome then s else s.countWalk die epa
    match readEntry ctx (level + 1) e with
    | .fault c => (.fault c, s)
    | .leaf => (.leaf (level + 1) epa e, s)
    | .table t =>
      let s := match die with
        | some d => s.cacheEntry d ctx (level + 1) va e
        | none => s
      walkFrom s die ctx va level t

/-- A walk of a context's tables. In a context with EN = 0 nothing is walked (R445); a ROOT outside the table area is
MALFORMED (R31). -/
def walk (s : State) (die : Option Nat) (ctx va : Nat) : WalkRes × State :=
  let c := s.ctx ctx
  if !c.en then (.fault fcNotMapped, s)
  else if !paUsable c.root then (.fault fcMalformed, s)
  else walkFrom s die ctx va 3 c.root

/-! ### Leaves -/

/-- What a leaf says of an address it maps. -/
structure Leaf where
  level : Nat
  e : W64
  deriving DecidableEq, Repr

/-- Ordering kind of a leaf (R32, R84). -/
def Leaf.kind (l : Leaf) : OrdKind :=
  match fld l.e 6 2 with
  | 0 => .s
  | 1 => .r
  | _ => .u

/-- Physical address of a virtual address under a leaf. -/
def Leaf.pa (l : Leaf) (va : Nat) : Nat := fld l.e 16 36 * 65536 + va % 2 ^ levelShift l.level

/-- Transactional page (R32). -/
def Leaf.t (l : Leaf) : Bool := l.e.getLsbD 8
/-- Cacheable page (R32). -/
def Leaf.c (l : Leaf) : Bool := l.e.getLsbD 5

/-- Is host caching disabled for the virtual function whose tenant set holds the context (R35, R415)? A context of no
function is not so restricted (log 13). -/
def State.hostCachingOff (s : State) (ctx : Nat) : Bool :=
  s.vfs.any fun v => v.tenants.contains ctx && !v.hce

/-- Is a physical address refused (R35, R67)? -/
def State.paBad (s : State) (ctx pa : Nat) : Bool :=
  match paClass pa with
  | 0 => bits pa 40 10 != 0 || !paUsable pa
  | 1 => s.hostCachingOff ctx
  | 2 => false
  | _ => true

/-- The address and permission checks of an access through a leaf (R18, R32, R35, R67): the address belongs to translation,
which R300 puts before the permission (log 14). -/
def State.leafFault (s : State) (ctx : Nat) (l : Leaf) (va : Nat) (a : Acc) : Option Nat :=
  if s.paBad ctx (l.pa va) then some fcPaClass
  else if a.writes && !l.e.getLsbD 3 then some fcWriteDenied
  else if a == .fetch && !l.e.getLsbD 2 then some fcExecDenied
  else none

/-! ### Translation buffers (R38) -/

/-- Does a buffer entry map the address? -/
def TbEntry.maps (t : TbEntry) (ctx va : Nat) : Bool :=
  t.ctx == ctx && t.base ≤ va && va < t.base + 2 ^ levelShift t.level

/-- The entry for an address: in the slot's buffer, or in the core's second-level buffer. -/
def Core.lookup (c : Core) (slot ctx va : Nat) : Option TbEntry :=
  match c.slotTb.find? fun (x : Nat × TbEntry) => x.1 == slot && x.2.maps ctx va with
  | some (_, t) => some t
  | none => c.tb.find? (·.maps ctx va)

/-- The set of the second-level buffer an entry falls in: its page number modulo 256 (R38; the index is log 12's choice). -/
def TbEntry.set (t : TbEntry) : Nat := t.base / 2 ^ levelShift t.level % 256

/-- Append to a list that holds at most n entries satisfying p: the oldest of them leaves a full one. -/
def appendIn {α : Type} (p : α → Bool) (n : Nat) (x : α) (l : List α) : List α :=
  match l.filter p with
  | [] => l ++ [x]
  | _ :: _ =>
    if (l.filter p).length < n then l ++ [x]
    else l.eraseP p ++ [x]

/-- Put an entry into a slot's buffer of 64 and into its set of 8 ways of the second-level buffer; the oldest leaves a full
buffer or set (R38, log 12). -/
def Core.fillTb (c : Core) (slot : Nat) (t : TbEntry) : Core :=
  let slotTb := drop (fun (x : Nat × TbEntry) => x.1 == slot && x.2.ctx == t.ctx && x.2.base == t.base) c.slotTb
  let tb := drop (fun x => x.ctx == t.ctx && x.base == t.base) c.tb
  { c with slotTb := appendIn (fun (x : Nat × TbEntry) => x.1 == slot) 64 (slot, t) slotTb,
           tb := appendIn (fun x => x.set == t.set) 8 t tb }

/-! ### Who translates -/

/-- The engine an access comes from: its context, core and slot, its group, with a copy channel of it when the copy engine makes
the access, the group's segment and private bytes. -/
structure Who where
  ctx : Nat
  core : CoreId
  slot : Nat
  g : GRef
  chan : Option Nat
  seg : Nat
  privBytes : Nat
  deriving DecidableEq, Repr

/-- The engine of a group. -/
def State.who? (s : State) (g : GRef) : Option Who := do
  let w ← s.wg? g.wg
  let grp ← w.group? g.gi
  let l ← s.launch? w.lid
  return { ctx := w.ctx, core := w.core, slot := grp.slot, g := g, chan := none, seg := grp.seg, privBytes := l.lrec.priv * 65536 }

/-- Is the miss one of this engine for a page? -/
def Who.owns (w : Who) (page : Nat) (m : Miss) : Bool :=
  m.ctx == w.ctx && m.page == page && m.g == w.g && m.chan == w.chan

/-- The code of a walk or a growth that has failed for an engine's page, until the access it failed takes it (R41, R44). -/
def State.missFault (s : State) (w : Who) (page : Nat) : Option Nat :=
  ((s.core w.core).misses.find? fun (m : Miss) => w.owns page m && m.fault.isSome).bind (·.fault)

/-- The result of translating one piece of an access. -/
inductive TrRes where
  | ok (t : Target) (entry : Option TbEntry)
  | fault (code : Nat)
  /-- no buffer maps the page VA[55:16] and no walk of it has faulted -/
  | miss (page : Nat)
  /-- the page of a private area lies above its high-water mark: segment, lane area, page of the area -/
  | grow (seg : Nat) (laneArea : Bool) (page : Nat)
  deriving DecidableEq, Repr

/-- A page-mapped address. A walk that ended in a fault answers the miss that asked for it (R41, R44). -/
def State.trPaged (s : State) (w : Who) (va : Nat) (a : Acc) : TrRes :=
  if !(s.ctx w.ctx).en then .fault fcNotMapped
  else
    let c := s.core w.core
    match c.lookup w.slot w.ctx va with
    | some t =>
      let l : Leaf := ⟨t.level, t.leaf⟩
      match s.leafFault w.ctx l va a with
      | some f => .fault f
      | none => .ok (.phys (l.pa va) l.kind l.t l.c) (some t)
    | none =>
      match s.missFault w (va / 65536) with
      | some f => .fault f
      | none => .miss (va / 65536)

/-- The scratchpad windows (R15, R16): workgroup, offset, when the piece lies inside the allocation. -/
def State.trWindow (s : State) (w : Who) (va len : Nat) : TrRes :=
  let off := bits va 0 44
  match bits va 44 4 with
  | 0 =>
    match s.wg? w.g.wg with
    | some wg => if off + len ≤ wg.scratchSize then .ok (.scratch wg.wid off) none else .fault fcWindowBound
    | none => .fault fcWindowBound
  | 1 =>
    let c := off / 4194304
    let o := off % 4194304
    match s.wg? w.g.wg with
    | none => .fault fcWindowBound
    | some wg =>
      let member := match wg.gang with
        | none => if c == wg.core.core then some wg else none
        | some num => s.wgs.find? fun (x : Workgroup) =>
            x.lid == wg.lid && x.gang == some num && x.core == (⟨wg.core.die, c⟩ : CoreId) && !x.out
      match member with
      | some m => if c < 24 && o + len ≤ m.scratchSize then .ok (.scratch m.wid o) none else .fault fcWindowBound
      | none => .fault fcWindowBound
  | 2 => .fault fcWindowKind
  | _ => .fault fcHole

/-- First linear address of a private segment (R20). -/
def segBase (seg : Nat) : Nat := 0xFD000000000000 + seg * 2 ^ 30

/-- Linear address of a lane-view offset (R22). -/
def laneLinear (seg p lane : Nat) : Nat := segBase seg + 8388608 + p / 4 * 256 + lane * 4 + p % 4

/-- High-water marks of a segment: pages of the group area and of the lane area (R24). -/
def Context.marks (c : Context) (seg : Nat) : Nat × Nat :=
  match c.segMarks.find? fun (x : Nat × Nat × Nat) => x.1 == seg with
  | some (_, g, l) => (g, l)
  | none => (0, 0)

/-- A private address above its area's mark: the area grows, unless its growth has failed for this access (R24, R447). -/
def State.trGrow (s : State) (w : Who) (lin : Nat) (laneArea : Bool) (page : Nat) : TrRes :=
  match s.missFault w (lin / 65536) with
  | some c => .fault c
  | none => .grow w.seg laneArea page

/-- The private windows (R22, R24). -/
def State.trPrivate (s : State) (w : Who) (lane va : Nat) (a : Acc) : TrRes :=
  let o := bits va 0 47
  let m := (s.ctx w.ctx).marks w.seg
  if bit va 47 then
    if 8388608 ≤ o then .fault fcPrivateBound
    else if m.1 ≤ o / 65536 then s.trGrow w (segBase w.seg + o) false (o / 65536)
    else s.trPaged w (segBase w.seg + o) a
  else if w.privBytes ≤ o then .fault fcPrivateBound
  else
    let area := o / 4 * 256 + lane * 4 + o % 4
    if m.2 ≤ area / 65536 then s.trGrow w (laneLinear w.seg o lane) true (area / 65536)
    else s.trPaged w (laneLinear w.seg o lane) a

/-- Is the address in the hole (R14, R15, R297)? -/
def isHole (a : Nat) : Bool :=
  let top := bits a 48 8
  2 ^ 56 ≤ a || (0xF0 ≤ top && top ≤ 0xFB) || (top == 0xFC && bits a 40 8 != 0) || (top == 0xFF && 3 ≤ bits a 44 4)

/-- The region decode of a fetch, which comes before its every other check (R18). -/
def fetchRegion (va : Nat) : Option Nat :=
  if isHole va then some fcHole else if bits va 48 8 != 0xFC then some fcExecDenied else none

/-- Translate one piece of an access of a lane (R14 to R18, R22). -/
def State.translate (s : State) (w : Who) (lane va len : Nat) (a : Acc) : TrRes :=
  let top := bits va 48 8
  if a == .fetch then
    match fetchRegion va with
    | some c => .fault c
    | none => s.trPaged w va a
  else if top ≤ 0xEF then s.trPaged w va a
  else if top ≤ 0xFB then .fault fcHole
  else if top == 0xFC then
    if bits va 40 8 != 0 then .fault fcHole
    else if a.writes then
      -- the page is translated before the window is checked (R300)
      match s.trPaged w va .load with
      | .ok _ _ => .fault fcWindowKind
      | r => r
    else s.trPaged w va a
  else if top == 0xFD then .fault fcWindowKind
  else if top == 0xFE then s.trPrivate w lane va a
  else s.trWindow w va len

/-! ### Misses and walks (R40, R41) -/

/-- The walk requests of a die, queued or running. -/
def State.dieWalks (s : State) (die : Nat) : List Walk := (s.walks.filter fun (x : Nat × Walk) => x.1 == die).map (·.2)

/-- Ask a die's walkers for a page: a request of the same key is joined; a queue of 1,024 takes no more (R40, R41). -/
def State.queueWalk (s : State) (die ctx page : Nat) : State :=
  let mine := s.dieWalks die
  if (mine.any fun x => x.ctx == ctx && x.page == page) || 1024 ≤ mine.length then s
  else { s with walks := s.walks ++ [(die, { ctx := ctx, page := page, running := false })] }

/-- Outstanding misses of a core (R40). -/
def Core.outstanding (c : Core) : Nat := (c.misses.filter fun (m : Miss) => m.fault.isNone).length

/-- Has the group asked for the page already? -/
def Core.asked (c : Core) (w : Who) (page : Nat) : Bool := c.misses.any (w.owns page)

/-- A miss of an engine, or its answer. -/
def Who.miss (w : Who) (page : Nat) (fault : Option Nat) : Miss :=
  { ctx := w.ctx, page := page, slot := w.slot, g := w.g, chan := w.chan, fault := fault }

/-- Register a miss of a group with its core, and ask the die's walkers. A core keeps 32 misses outstanding: a further one is
not registered. A miss that finds its die's queue full waits in the core, and is queued when there is room (R40). -/
def State.addMiss (s : State) (w : Who) (page : Nat) : State :=
  let c := s.core w.core
  if c.asked w page || 32 ≤ c.outstanding then s
  else
    (s.modCore w.core fun c => { c with misses := c.misses ++ [w.miss page none] }).queueWalk w.core.die w.ctx page

/-- Misses that waited in their cores for room in their die's queue are queued as far as there is room (R40). -/
def State.queueMisses (s : State) (die : Nat) : State :=
  (s.cores.filter fun (c : Core) => c.id.die == die).foldl (fun s c =>
    (c.misses.filter fun (m : Miss) => m.fault.isNone).foldl (fun s m => s.queueWalk die m.ctx m.page) s) s

/-- Forget the answered misses of an engine. -/
def State.clearMisses (s : State) (w : Who) : State :=
  let hit (m : Miss) : Bool := m.g == w.g && m.chan == w.chan && m.fault.isSome
  if (s.core w.core).misses.any hit then s.modCore w.core fun c => { c with misses := drop hit c.misses } else s

/-- Phobos logs a malformed entry and a wrong key to the driver, whoever met it (R44). -/
def State.logFault (s : State) (ctx va code : Nat) : State :=
  if code == fcMalformed then s.note (.malformed ctx va)
  else if code == fcKeyMismatch then s.note (.keyMismatch ctx va) else s

/-- A growth that cannot be done: the code is kept for the access that asked for it, as that of a walk is (R44, R447). -/
def State.failGrowth (s : State) (w : Who) (lin code : Nat) : State :=
  if (s.missFault w (lin / 65536)).isSome then s
  else
    (s.logFault w.ctx lin code).modCore w.core fun c => { c with misses := c.misses ++ [w.miss (lin / 65536) (some code)] }

/-! ### Growth of private memory (R24 to R27, R447) -/

/-- Frames available: ring entries not consumed plus spare frames (R25). -/
def Context.avail (c : Context) : Nat := (c.prod + 2 ^ 32 - c.cons) % 2 ^ 32 + c.spare.length

/-- Is RINGSIZE one that allows growth (R12)? -/
def ringSizeOk (n : Nat) : Bool := 16 ≤ n && n ≤ 32768 && Nat.land n (n - 1) == 0

/-- Raise the pool-low interrupt once for each crossing of LOWWATER downward (R27). -/
def State.checkLow (s : State) (ctx : Nat) : State :=
  let c := s.ctx ctx
  if c.avail < c.lowWater then
    if c.lowRaised then s else (s.modCtx ctx fun c => { c with lowRaised := true }).irq (.poolLow ctx)
  else if c.lowRaised then s.modCtx ctx fun c => { c with lowRaised := false } else s

/-- A write of a pool register has changed the count or the threshold: nothing crosses downward (R27). -/
def State.rearmLow (s : State) (ctx : Nat) : State :=
  s.modCtx ctx fun c => { c with lowRaised := decide (c.avail < c.lowWater) }

/-- Read ring entries until one has the form of R26; others are skipped and logged. -/
def takeRing (ctx : Nat) : (fuel : Nat) → State → Option Nat × State
  | 0, s => (none, s)
  | fuel + 1, s =>
    let c := s.ctx ctx
    let e := s.readWord ctx (c.ringBase + 8 * (c.cons % c.ringSize))
    let s := s.modCtx ctx fun c => { c with cons := (c.cons + 1) % 2 ^ 32 }
    let frame := fld e 16 36 * 65536
    if fld e 0 16 == 0 && fld e 52 12 == 0 && paUsable frame then (some frame, s)
    else takeRing ctx fuel (s.note (.skippedRingEntry ctx e))

/-- Take a frame: from the spare list, otherwise from the ring (R25 step 1). -/
def State.takeFrame (s : State) (ctx : Nat) : Option Nat × State :=
  let c := s.ctx ctx
  match c.spare with
  | f :: rest => (some f, (s.modCtx ctx fun c => { c with spare := rest }).checkLow ctx)
  | [] =>
    let (f, s) := takeRing ctx ((c.prod + 2 ^ 32 - c.cons) % 2 ^ 32) s
    (f, s.checkLow ctx)

/-- A 4 KiB or 256-byte piece of the current table frame, or of a new one (R447). The current frame is kept while EN is 0 and
after the driver has taken grown pages back (log 57). -/
def State.takePiece (s : State) (ctx size : Nat) : Option Nat × State :=
  let fresh : Option Nat × State :=
    match s.takeFrame ctx with
    | (some f, s) => (some f, (s.zeroFrame f).modCtx ctx fun c => { c with tableFrame := some (f, size) })
    | (none, s) => (none, s)
  match (s.ctx ctx).tableFrame with
  | some (f, off) =>
    let o := roundUp off size
    if o + size ≤ 65536 then (some (f + o), s.modCtx ctx fun c => { c with tableFrame := some (f, o + size) })
    else fresh
  | none => fresh

/-- The result of one step of growth. -/
inductive GrowRes where
  | done (s : State)
  | fault (code : Nat) (s : State)
  deriving DecidableEq, Repr

/-- What lies below an entry of level 2 or 1: a table, or a leaf that maps the page already. -/
inductive Below where
  | table (pa : Nat)
  | mapped
  | fault (code : Nat)
  deriving DecidableEq, Repr

/-- What lies below an entry of level 2 or 1: what the entry found there points to, or a new table installed with a
compare-and-swap against zero. A valid large leaf found there maps the page: the device uses it (R25, R447). -/
def State.growTable (s : State) (ctx level epa : Nat) : Below × State :=
  let e := s.readWord ctx epa
  if e == 0 then
    match s.takePiece ctx (tableBytes (level - 1)) with
    | (some t, s) => (.table t, s.deviceWord ioDie ctx epa (w64 (t + 1)))
    | (none, s) => (.fault fcPoolEmpty, s)
  else
    match readEntry ctx level e with
    | .table t => (.table t, s)
    | .leaf => (.mapped, s)
    | .fault c => (.fault c, s)

/-- Map one page of a segment (R25, R447). The level-3 entry is the driver's; a zero entry of level 2 or 1 gets a table
(log 15). -/
def State.growPage (s : State) (ctx lin : Nat) : GrowRes :=
  let c := s.ctx ctx
  if !paUsable c.root then .fault fcMalformed s
  else
    match readEntry ctx 3 (s.readWord ctx (c.root + 8 * levelIndex 3 lin)) with
    | .fault f => .fault f s
    | .leaf => .fault fcMalformed s
    | .table t2 =>
      match s.growTable ctx 2 (t2 + 8 * levelIndex 2 lin) with
      | (.fault f, s) => .fault f s
      | (.mapped, s) => .done s
      | (.table t1, s) =>
        match s.growTable ctx 1 (t1 + 8 * levelIndex 1 lin) with
        | (.fault f, s) => .fault f s
        | (.mapped, s) => .done s
        | (.table t0, s) =>
          match s.takeFrame ctx with
          | (none, s) => .fault fcPoolEmpty s
          | (some f, s) =>
            let s := s.zeroFrame f
            let epa := t0 + 8 * levelIndex 0 lin
            if s.readWord ctx epa == 0 then
              -- V, L, W, C, K = 01, HG, KEY (R25 step 3)
              .done (s.deviceWord ioDie ctx epa (w64 (0x806B + f + ctx * 2 ^ 52)))
            else .done ((s.modCtx ctx fun c => { c with spare := c.spare ++ [f] }).checkLow ctx)

/-- Set a segment's marks. -/
def State.setMarks (s : State) (ctx seg g l : Nat) : State :=
  s.modCtx ctx fun c =>
    { c with segMarks := upsert (fun (x : Nat × Nat × Nat) => x.1 == seg) (seg, 0, 0) (fun _ => (seg, g, l)) c.segMarks }

/-- Grow an area page by page up to and including a page (R24). -/
def growTo (ctx seg : Nat) (laneArea : Bool) : (pages : Nat) → State → GrowRes
  | 0, s => .done s
  | n + 1, s =>
    let m := (s.ctx ctx).marks seg
    let page := if laneArea then m.2 else m.1
    let base := segBase seg + (if laneArea then 8388608 else 0)
    match s.growPage ctx (base + page * 65536) with
    | .fault c s => .fault c s
    | .done s =>
      growTo ctx seg laneArea n (if laneArea then s.setMarks ctx seg m.1 (page + 1) else s.setMarks ctx seg (page + 1) m.2)

/-- Growth for an access that touched a page above its area's mark (R24). A bad RINGSIZE makes every attempt POOL-EMPTY (R12). -/
def State.grow (s : State) (ctx seg : Nat) (laneArea : Bool) (page : Nat) : GrowRes :=
  let m := (s.ctx ctx).marks seg
  let mark := if laneArea then m.2 else m.1
  if !ringSizeOk (s.ctx ctx).ringSize then .fault fcPoolEmpty s
  else growTo ctx seg laneArea (page + 1 - mark) s

/-! ### Firmware-serviced faults (R45) -/

/-- The page-mapped address behind an address of a lane: a private one lies in the group's segment (R22). -/
def Who.linear (w : Who) (lane va : Nat) : Nat :=
  if bits va 48 8 == 0xFE then
    if bit va 47 then segBase w.seg + bits va 0 47 else laneLinear w.seg (bits va 0 47) lane
  else va

/-- Stop the core of a lane's access for POOL-EMPTY or NOT-RESIDENT (R45). -/
def State.stopCore (s : State) (w : Who) (code va lane : Nat) (chan : Option Nat) : State :=
  let known := (s.core w.core).fw.any fun (f : FwFault) => f.g == w.g && f.chan == chan
  if known then s
  else
    let f : FwFault :=
      { code := code, g := w.g, ctx := w.ctx, va := w.linear lane va, since := s.time, expired := false, taken := false,
        chan := chan }
    let s := s.modCore w.core fun c => { c with fw := c.fw ++ [f] }
    if code == fcPoolEmpty then s.irq (.poolEmpty w.ctx) else s

/-- The first fault of a core that is being served; two are served one after the other (R47). -/
def Core.serving (c : Core) : Option FwFault := c.fw.find? (!·.expired)

/-- Does a firmware-serviced fault stop this core itself (R45)? -/
def State.coreFaulted (s : State) (c : CoreId) : Bool := (s.core c).fw.any fun (f : FwFault) => !f.expired && !f.taken

/-- The cores that are in a phase: its members but those that have closed it (R328). -/
def Phase.coresIn (p : Phase) : List Nat := (p.members.map (·.1)).filter fun c => !p.closed.any fun x => x.1 == c

/-- Is the core stopped: by a fault of its own, or by one of a core of the same Encke phase (R45, R46)? -/
def State.coreStopped (s : State) (c : CoreId) : Bool :=
  s.coreFaulted c ||
    s.phases.any fun p => p.die == c.die && p.coresIn.contains c.core && p.coresIn.any fun m => s.coreFaulted ⟨c.die, m⟩

/-- Charge a stall to the faulting context, and extend the quanta of the other contexts of its core (R47). -/
def State.chargeStall (s : State) (f : FwFault) : State :=
  if f.taken then s
  else
    let ns := s.time - f.since
    let core := (s.wg? f.g.wg).map (·.core)
    let s := s.modCtx f.ctx fun c => { c with stallNs := (c.stallNs + ns) % 2 ^ 64 }
    let later (w : Workgroup) : Workgroup :=
      if core == some w.core && w.ctx != f.ctx then { w with residentSince := w.residentSince + ns } else w
    { s with wgs := s.wgs.map later }

/-- The stop for a fault of a core is over, and what is left of the fault. The stall of the next fault begins now: two faults
are served, and charged, one after the other (R47, log 59). -/
def State.endStop (s : State) (c : CoreId) (f : FwFault) (left : Option FwFault) : State :=
  let s := s.chargeStall f
  let after (x : FwFault) : FwFault := if x.expired || x.taken then x else { x with since := s.time }
  s.modCore c fun k => { k with fw := left.toList ++ (drop (· == f) k.fw).map after }

/-- The faults of a workgroup that leaves its core or is gone stop nothing any more; the one that is being served is charged first
(R47). -/
def quitFaults (c : CoreId) (wid : Nat) : (fuel : Nat) → State → State
  | 0, s => s
  | fuel + 1, s =>
    match (s.core c).serving with
    | some f => if f.g.wg == wid then quitFaults c wid fuel (s.endStop c f none) else s
    | none => s

/-- Misses that stalled their slots for want of room in the core are tried again once there is room (R40). -/
def State.roomAgain (s : State) (c : CoreId) : State :=
  if 32 ≤ (s.core c).outstanding then s
  else
    { s with wgs := s.wgs.map fun w => if w.core == c then
        { w with groups := w.groups.map fun g => if g.waits.contains .missRoom then g.dropWaits (· == .missRoom) else g } else w }

/-- A workgroup gives up its misses and its faults on a core (R40, R47). -/
def State.quitCore (s : State) (c : CoreId) (wid : Nat) : State :=
  let s := quitFaults c wid (s.core c).fw.length s
  let s := if (s.core c).misses.isEmpty && (s.core c).fw.isEmpty then s
    else s.modCore c fun k =>
      { k with misses := drop (fun (m : Miss) => m.g.wg == wid) k.misses, fw := drop (fun (f : FwFault) => f.g.wg == wid) k.fw }
  s.roomAgain c

/-- A fault of this engine that Phobos gave up on: its code is delivered (R45 step 4). -/
def State.expiredFw (s : State) (w : Who) (chan : Option Nat) : Option Nat :=
  ((s.core w.core).fw.find? fun (f : FwFault) => f.g == w.g && f.chan == chan && f.expired).map (·.code)

/-- Forget the expired faults of this engine. -/
def State.clearFw (s : State) (w : Who) (chan : Option Nat) : State :=
  if (s.expiredFw w chan).isSome then
    s.modCore w.core fun c => { c with fw := drop (fun (f : FwFault) => f.g == w.g && f.chan == chan && f.expired) c.fw }
  else s

/-! ### Direct translation for the device itself -/

/-- Set A, and M for a write, in the leaf entry of an address, at the home slice of the entry, for a core or on the I/O die (R37). -/
def State.setAM (s : State) (core : CoreId) (ctx va : Nat) (write : Bool) : State :=
  match walk s none ctx va with
  | (.leaf _ epa e, s) =>
    let e' := e ||| (if write then 0x6000 else 0x2000)
    if e' == e then s else s.deviceWord core ctx epa e'
  | (.fault _, s) => s

/-- A private group-view offset of a group's segment as the device reaches it for trap frames, spills and images: grown
where needed, walked without buffers (R339, R395, log 12), noted in its leaf entry (R32), a fault logged (R44). -/
def State.groupArea (s : State) (w : Who) (off : Nat) (write : Bool) : Except Nat Nat × State :=
  let va := segBase w.seg + off
  let m := (s.ctx w.ctx).marks w.seg
  let grown : GrowRes := if m.1 ≤ off / 65536 then s.grow w.ctx w.seg false (off / 65536) else .done s
  match grown with
  | .fault c s => (.error c, s.logFault w.ctx va c)
  | .done s =>
    match walk s none w.ctx va with
    | (.fault c, s) => (.error c, s.logFault w.ctx va c)
    | (.leaf level _ e, s) =>
      let l : Leaf := ⟨level, e⟩
      if s.paBad w.ctx (l.pa va) then (.error fcPaClass, s) else (.ok (l.pa va), s.setAM w.core w.ctx va write)

/-- Note an access through a buffer entry: A, and M for a write, when the entry does not show them yet (R32, R37). -/
def State.touch (s : State) (w : Who) (t : Option TbEntry) (write : Bool) : State :=
  match t with
  | none => s
  | some t =>
    let want : W64 := if write then 0x6000 else 0x2000
    if t.leaf &&& want == want then s
    else
      let f (x : TbEntry) : TbEntry := if x.ctx == t.ctx && x.base == t.base then { x with leaf := x.leaf ||| want } else x
      (s.setAM w.core t.ctx t.base write).modCore w.core fun c =>
        { c with slotTb := c.slotTb.map fun (n, x) => (n, f x), tb := c.tb.map f }

end Sys2Proof.Machine
end

