-- ==== Sys2Proof/Machine/Operands.lean ====
section
/-!
DEFINITION. Operands: every form of a move's source, destination and guard (R203 to R207, R213 to R217, R222 to R224),
the pops of queued result ports, and the landing of results.
-/

namespace Sys2Proof.Machine

/-- A move as the bundle takes it: its own, or a latched one that is repeated (R218), with the value of the extension words
it names and its resolved guard register. -/
structure PMove where
  bus : Nat
  word : W32
  ext : W64
  guard : Nat
  rep : Bool
  deriving DecidableEq, Repr

/-- The fields beside the destination. -/
def PMove.mv (m : PMove) : Mv := mvOfWord m.word

/-- The destination code. -/
def PMove.code (m : PMove) : BitVec 12 := m.word.extractLsb' 0 12

/-- The destination. -/
def PMove.dest (m : PMove) : Dest :=
  match decodeDest m.code with
  | .ok d => d
  | .error _ => .vreg 0

/-- Does the move have G = 1 and GUARD = 000 (R217)? -/
def wantsGuardWord (m : Mv) : Bool := m.g && m.k == 0

/-! ### Extension words (R215, R216) -/

/-- Class of a source (R214). -/
def srcClass (s : BitVec 13) : Nat := (s.extractLsb' 11 2).toNat
/-- Extension index of a class 11 source. -/
def extIndex (s : BitVec 13) : Nat := (s.extractLsb' 9 2).toNat
/-- Kind of a class 11 source. -/
def extKind (s : BitVec 13) : Nat := (s.extractLsb' 7 2).toNat

/-- The value of the extension words a source names: word i, with word i + 1 above it for kind 11. -/
def extValue (s : BitVec 13) (ext : List W32) : W64 :=
  if srcClass s == 3 then
    let i := extIndex s
    pair (ext[i]?.getD 0) (if extKind s == 3 then ext[i + 1]?.getD 0 else 0)
  else 0

/-- Is the source a cross-lane read? -/
def isCross (s : BitVec 13) : Bool := srcClass s == 3 && extKind s == 2

/-- Fields of a cross-lane word (R216). -/
def crossReg (x : W64) : Nat := fld x 0 8
def crossMode (x : W64) : Nat := fld x 8 3
def crossPair (x : W64) : Bool := x.getLsbD 11
def crossArg (x : W64) : Nat := fld x 12 8
def crossFill (x : W64) : Nat := fld x 20 2
def crossFillV (x : W64) : W64 := (x.extractLsb' 22 10).signExtend 64

/-- Does a cross-lane word break R216 for a group with this many vector registers? -/
def crossBad (regs : Nat) (x : W64) : Bool :=
  let idx := crossMode x == 0
  6 ≤ crossMode x || (crossPair x && crossReg x % 2 == 1) || (!idx && 64 ≤ crossArg x) ||
    regs ≤ crossReg x + (if crossPair x then 1 else 0) || (idx && regs ≤ crossArg x)

/-- Does a class 11 source break R215 or R216, with EXTN words of which the last may be the guard word? -/
def extBad (regs extn : Nat) (guardWord : Bool) (ext : List W32) (s : BitVec 13) : Bool :=
  let last := extIndex s + (if extKind s == 3 then 1 else 0)
  s.extractLsb' 0 7 != 0 || extn ≤ last || (guardWord && last + 1 == extn) ||
    (isCross s && crossBad regs (extValue s ext))

/-! ### Widths -/

/-- Is the move 64 bits wide (R203, R214, R215)? An immediate is 32 bits wide into a single vector register only. -/
def wide (s : BitVec 13) (ext : W64) (d : Dest) : Bool :=
  let immediate := match d with
    | .vreg _ => false
    | _ => true
  match srcClass s with
  | 0 => s.getLsbD 7
  | 1 => s.getLsbD 3
  | 2 => immediate
  | _ =>
    match extKind s with
    | 2 => crossPair ext
    | 3 => true
    | _ => immediate

/-! ### The checks of step 1 of R221 -/

/-- A vector register of the move word's own SRC field at or beyond the declared count (R201). -/
def srcBeyond (regs : Nat) (s : BitVec 13) : Bool :=
  srcClass s == 0 && (s.extractLsb' 9 2).toNat ≤ 1 &&
    regs ≤ 128 * (s.extractLsb' 9 2).toNat + (s.extractLsb' 0 7).toNat + (if s.getLsbD 7 then 1 else 0)

/-- Is a destination one that this group may not write (R201, R205, R224)? -/
def destBad (regs : Nat) (loop : Bool) (d : Dest) (w : Bool) : Bool :=
  match d with
  | .vreg n => regs ≤ n + (if w then 1 else 0) || (w && n % 2 == 1)
  | .kreg n => n == 0 || (loop && 8 ≤ n)
  | .sreg _ | .operand _ _ | .trigger _ _ => false

/-- The first row of R224, in ascending cause, that a move word of a bundle meets (log 9). -/
def moveCause (regs : Nat) (loop : Bool) (extn : Nat) (guardWord : Bool) (ext : List W32) (word : W32) : Option Nat :=
  let m := mvOfWord word
  match decodeDest (word.extractLsb' 0 12) with
  | .error e => some e.cause
  | .ok d =>
    if destBad regs loop d (wide m.s (extValue m.s ext) d) then some 3
    else if srcClass m.s == 0 && ((sourceError m.s).isSome || srcBeyond regs m.s) then some 4
    else if srcClass m.s == 1 && (sourceError m.s).isSome then some 5
    else if srcClass m.s == 3 && extBad regs extn guardWord ext m.s then some 6
    else if (guardError m).isSome || (wantsGuardWord m && extn == 0) then some 7
    else none

/-- Nibble of a bus in the guard word (R217). -/
def guardNibble (w : W32) (bus : Nat) : Nat := bits w.toNat (4 * bus) 4

/-- Does a bus break R217 with a guard word: its nibble, or, for a bus that takes its guard from the word, bits [31:24] (log 9)? `own`
is the bus's move word, when it carries one. -/
def nibbleBad (w : W32) (bus : Nat) (own : Option W32) : Bool :=
  let n := guardNibble w bus
  let wants := match own with
    | some x => wantsGuardWord (mvOfWord x)
    | none => false
  (wants && (n < 8 || bits w.toNat 24 8 != 0)) || (!wants && n != 0)

/-- The first error of step 1: bus and cause, the lowest bus first (log 9). -/
def bundleError (g : Group) (b : Bundle) : Option (Nat × Nat) :=
  let guardWord := b.moves.any fun (_, w) => wantsGuardWord (mvOfWord w)
  let gw := if guardWord && b.header.extn != 0 then b.ext[b.header.extn - 1]? else none
  let one (bus : Nat) : Option (Nat × Nat) :=
    let own := (b.moves.find? fun (x : Nat × W32) => x.1 == bus).map (·.2)
    let c1 := own.bind (moveCause g.vregCount g.loop.active b.header.extn guardWord b.ext)
    let c2 := match gw with
      | some w => if nibbleBad w bus own then some 7 else none
      | none => none
    ((c1.or c2).map (bus, ·))
  ((List.range 6).filterMap one).head?

/-! ### The moves of a bundle (step 2) -/

/-- A move word of the bundle with its extension value and guard resolved (R215, R217). -/
def ownMove (b : Bundle) (bus : Nat) (word : W32) : PMove :=
  let m := mvOfWord word
  let gw := b.ext[b.header.extn - 1]?.getD 0
  { bus := bus, word := word, ext := extValue m.s b.ext,
    guard := if !m.g then 0 else if m.k == 0 then 8 + guardNibble gw bus % 8 else m.k.toNat, rep := false }

/-- The moves of a bundle: its own, and the latched moves of absent buses unless CLRHOLD (R218), by ascending bus. -/
def bundleMoves (g : Group) (b : Bundle) : List PMove :=
  (List.range 6).filterMap fun bus =>
    match b.moves.find? fun (x : Nat × W32) => x.1 == bus with
    | some (_, w) => some (ownMove b bus w)
    | none =>
      if b.header.clrhold then none
      else ((g.latches[bus]?.getD none).map fun l =>
        { bus := bus, word := l.word, ext := l.ext, guard := l.guard.toNat, rep := true })

/-- The lanes where a move applies (R204). -/
def PMove.lanes (m : PMove) (g : Group) : Mask :=
  let mv := m.mv
  if mv.g then g.k0 &&& (if mv.n then ~~~(g.kVal m.guard) else g.kVal m.guard) else g.k0

/-- Is the move wide? -/
def PMove.wide (m : PMove) : Bool := Sys2Proof.Machine.wide m.mv.s m.ext m.dest

/-- A repeated move that this group may not make now: a guard register of an active loop (R205). -/
def repeatBad (g : Group) (m : PMove) : Bool := m.rep && destBad g.vregCount g.loop.active m.dest m.wide

/-- The unit a move triggers. -/
def PMove.trigUnit? (m : PMove) : Option Nat :=
  match m.dest with
  | .trigger u _ => some u
  | .vreg _ | .sreg _ | .kreg _ | .operand _ _ => none

/-- Two moves that start triggers on one unit: the bus the trap names (R222). -/
def conflictBus (ms : List PMove) : Option Nat :=
  (ms.findSome? fun a =>
    ms.findSome? fun b =>
      if a.bus < b.bus && a.trigUnit?.isSome && a.trigUnit? == b.trigUnit? then
        some (if b.rep && !a.rep then a.bus else b.bus)
      else none)

/-- A trigger of x0 too early: its bus (R222). -/
def x0Bus (g : Group) (ms : List PMove) : Option Nat :=
  if g.x0cnt < 3 then (ms.find? (·.trigUnit? == some 0x09)).map (·.bus) else none

/-! ### Reading a source (steps 3 and 4) -/

/-- What a source delivers to one lane. -/
structure LaneVal where
  val : W64
  full : Bool
  poison : Bool
  deriving DecidableEq, Repr

/-- A value that is always there. -/
def LaneVal.of (v : W64) : LaneVal := ⟨v, true, false⟩

/-- Bits [31:0], or all 64 (R203, R214). -/
def cut (w : Bool) (v : W64) : W64 := if w then v else zx (lo32 v)

/-- A vector register or pair of a lane; with an uncorrectable error the lane receives 0 (R408). -/
def Group.vecVal (g : Group) (l n : Nat) (p : Bool) : LaneVal :=
  let bad := g.vBad l n || p && g.vBad l (n + 1)
  if p then ⟨if bad then 0 else pair (g.v l n) (g.v l (n + 1)), g.vFull l n && g.vFull l (n + 1), bad⟩
  else ⟨if bad then 0 else zx (g.v l n), g.vFull l n, bad⟩

/-- A scalar register; with an uncorrectable error the lane receives 0 (R408). -/
def Group.scalarVal (g : Group) (i : Nat) (w : Bool) : LaneVal :=
  if g.sbad.contains i then ⟨0, true, true⟩ else .of (cut w (g.s i))

/-- A guard register as a source (R408). -/
def Group.guardVal (g : Group) (i : Nat) (w : Bool) : LaneVal := ⟨cut w (g.kVal i), true, g.kbad.contains i⟩

/-- The lane a cross-lane read selects for lane l; none outside the group (R216). -/
def crossLane (g : Group) (x : W64) (l : Nat) : Option Nat :=
  let a := crossArg x
  let j := match crossMode x with
    | 0 => some (g.v l a).toNat
    | 1 => some (Nat.xor l a)
    | 2 => some ((l + a) % g.width)
    | 3 => if a ≤ l then some (l - a) else none
    | 4 => some (l + a)
    | _ => some a
  j.filter (· < g.width)

/-- A cross-lane read (R216). It waits for the lane it selects, and for the index register (R207). -/
def Group.crossVal (g : Group) (x : W64) (l : Nat) : LaneVal :=
  let p := crossPair x
  let idxFull := crossMode x != 0 || g.vFull l (crossArg x)
  if crossMode x == 0 && g.vBad l (crossArg x) then ⟨0, idxFull, true⟩
  else
    match crossLane g x l with
    | some j => let v := g.vecVal j (crossReg x) p; { v with full := v.full && idxFull }
    | none =>
      match crossFill x with
      | 0 => ⟨0, idxFull, false⟩
      | 1 => ⟨cut p (-1), idxFull, false⟩
      | 2 => let v := g.vecVal l (crossReg x) p; { v with full := v.full && idxFull }
      | _ => ⟨cut p (crossFillV x), idxFull, false⟩

/-- The queued result port of a unit (R206). -/
def queuedPort (unit : Nat) (rb : Bool) : Option RPort :=
  match unit with
  | 0x0C => some .ld
  | 0x0E => some .q0
  | 0x10 => if rb then none else some .am
  | _ => none

/-- The entries of a queued result port, oldest first. -/
def Group.entries (g : Group) : RPort → List REntry
  | .ld => g.ldr
  | .am => g.amr
  | .q0 => g.q0r
  | .cp | .mx | .xe => []

/-- Replace the entries of a queued result port. -/
def Group.setEntries (g : Group) (p : RPort) (es : List REntry) : Group :=
  match p with
  | .ld => { g with ldr := es }
  | .am => { g with amr := es }
  | .q0 => { g with q0r := es }
  | .cp | .mx | .xe => g

/-- The lanes of a port that are full: variable-latency unqueued ports and am.rb (R206). -/
def Group.portFull (g : Group) (unit : Nat) (rb : Bool) : Mask :=
  match unit with
  | 0x0D => g.cpFull
  | 0x0F => g.mxFull
  | 0x11 => g.xeFull
  | 0x10 => if rb then g.amrbFull else -1
  | _ => -1

/-- The queued result port a source names. -/
def queuedSrc (s : BitVec 13) : Option RPort :=
  if srcClass s == 1 then queuedPort (s.extractLsb' 6 5).toNat (s.extractLsb' 4 2 != 0) else none

/-- What a move's source delivers to lane l. `k` is the number of earlier moves of the bundle that pop the same port: the
k-th reader reads the entry it pops (log 16). -/
def srcLane (g : Group) (m : PMove) (k l : Nat) : LaneVal :=
  let s := m.mv.s
  match srcClass s with
  | 0 =>
    let bank := (s.extractLsb' 9 2).toNat
    let idx := (s.extractLsb' 0 7).toNat
    if bank ≤ 1 then g.vecVal l (128 * bank + idx) (s.getLsbD 7)
    else if idx < 64 then g.scalarVal idx (s.getLsbD 7)
    else g.guardVal (idx - 64) (s.getLsbD 7)
  | 1 =>
    let unit := (s.extractLsb' 6 5).toNat
    let rb := s.extractLsb' 4 2 != 0
    match queuedPort unit rb with
    | some p =>
      match (g.entries p)[k]? with
      | some e => ⟨cut (s.getLsbD 3) (e.vals[l]?.getD 0), e.full.getLsbD l, e.poison.getLsbD l⟩
      | none => ⟨0, false, false⟩
    | none => ⟨cut (s.getLsbD 3) (g.res l unit rb), (g.portFull unit rb).getLsbD l, false⟩
  | 2 => .of (cut m.wide ((s.extractLsb' 0 11).signExtend 64))
  | _ =>
    match extKind s with
    | 0 => .of (cut m.wide (sx (lo32 m.ext)))
    | 1 => .of (zx (lo32 m.ext))
    | 2 => g.crossVal m.ext l
    | _ => .of m.ext

/-- Is a source uniform (R204)? -/
def uniformSrc (s : BitVec 13) : Bool :=
  match srcClass s with
  | 0 => (s.extractLsb' 9 2).toNat == 2
  | 1 => false
  | 2 => true
  | _ => extKind s != 2

/-- Is the move deferred (R207)? -/
def PMove.deferred (m : PMove) : Bool :=
  match queuedSrc m.mv.s, m.dest with
  | some _, .vreg _ => true
  | _, _ => false

/-- A move with what step 4 read for it: whether each lane was there, and the values. -/
structure RMove where
  m : PMove
  lanes : Mask
  /-- position among the readers of its queued port -/
  k : Nat
  vals : List LaneVal
  deriving DecidableEq, Repr

/-- The value read for a lane. -/
def RMove.val (r : RMove) (l : Nat) : W64 :=
  match r.vals[l]? with
  | some v => v.val
  | none => 0

/-- Step 4: read every source; all reads see the state before the bundle. -/
def readMoves (g : Group) (ms : List PMove) : List RMove :=
  ms.map fun m =>
    let k := match queuedSrc m.mv.s with
      | some p => (ms.filter fun (x : PMove) => x.bus < m.bus && queuedSrc x.mv.s == some p).length
      | none => 0
    { m := m, lanes := m.lanes g, k := k, vals := (List.range g.width).map (srcLane g m k) }

/-- The lanes where a non-deferred move finds its source empty (R207). -/
def RMove.empty (r : RMove) (g : Group) : Mask :=
  if r.m.deferred then 0
  else r.lanes &&& maskOf g.width fun l => match r.vals[l]? with
    | some v => !v.full
    | none => false

/-- Does the move pop a queued port that holds no entry for it (R206)? -/
def RMove.noEntry (r : RMove) (g : Group) : Bool :=
  match queuedSrc r.m.mv.s with
  | some p => (g.entries p)[r.k]?.isNone
  | none => false

/-! ### Engine queues (R210) -/

/-- Room of the queue a trigger needs: used entries and depth. -/
def queueUse (g : Group) (unit port : Nat) : Option (RPort × Nat × Nat) :=
  match unit with
  | 0x0C =>
    if 0x0A ≤ port && port ≤ 0x0D then some (.cp, g.stq.length, 16)
    else some (.ld, (g.ldq.filter (!·.popped)).length, 16)
  | 0x0D => if port == 0x0A then none else some (.cp, g.cpq.length, 8)
  | 0x0E => some (.q0, (g.q0q.filter fun o => !o.popped || !o.done).length, 4)
  | 0x10 => some (.am, (g.amq.filter fun e => !e.popped || !e.lanes.all (·.done)).length, 16)
  | _ => none

/-- Places of the queue of a port that n pops of a bundle free: an am entry keeps its place until it is done in every lane too, and a
q0 entry until it has been performed (R210, R307, R323). Stores and copies push to no result port. -/
def placesFreed (g : Group) (port : RPort) (n : Nat) : Nat :=
  match port with
  | .cp => 0
  | .am =>
    let popped := (g.amr.take n).map (·.id)
    (g.amq.filter fun e => !e.popped && popped.contains e.id && e.lanes.all (·.done)).length
  | .q0 =>
    let popped := (g.q0r.take n).map (·.id)
    (g.q0q.filter fun o => !o.popped && popped.contains o.id && o.done).length
  | .ld | .mx | .xe => n

/-- Does a trigger find its queue full, after this bundle's own pops of the same port (R210)? -/
def queueFull (g : Group) (rs : List RMove) (m : PMove) : Bool :=
  match m.dest with
  | .trigger u p =>
    match queueUse g u p with
    | none => false
    | some (port, used, depth) =>
      depth ≤ used - placesFreed g port (rs.filter fun r => queuedSrc r.m.mv.s == some port).length
  | .vreg _ | .sreg _ | .kreg _ | .operand _ _ => false

/-! ### Pops (step 5) -/

/-- Note a consumption of poison in the check-interval register: PSN and UECOUNT (R408, R409). -/
def consumePoison (check : W64) (n : Nat) : W64 :=
  if n == 0 then check
  else
    let ue := min 0xFFFF (fld check 16 16 + n)
    (check &&& ~~~(w64 0xFFFF0000) ||| w64 (ue * 65536)) ||| 1

/-- Give am.rb the flags of a popped am.r entry. A lane that has not landed gets its flag when it lands; a deferred move leaves it
empty until then, after any other it is full (R206) with a value the manual does not state (log 63). -/
def Group.popFlags (g : Group) (e : REntry) (deferred : Bool) : Group :=
  let flag (l : Nat) : Bool := if e.full.getLsbD l then e.flags.getLsbD l else Config.freeFlag e.id l
  let g := (lanesOf g.width (if deferred then e.full else fullMask g.width)).foldl (fun g l => g.setRes l 0x10 true (if flag l then 1 else 0)) g
  { g with amrbFull := if deferred then e.full else fullMask g.width, rbPend := (lanesOf g.width (~~~e.full)).map fun l => (e.id, l) }

/-- Take an entry off the queue its trigger stands in (R210). An operation that has not landed everywhere is kept until it has. -/
def Group.leaveQueue (g : Group) (p : RPort) (id : Nat) : Group :=
  let f (q : List MemEntry) : List MemEntry :=
    (upd (fun (e : MemEntry) => e.id == id) (fun e => { e with popped := true }) q).filter
      fun e => !(e.popped && e.lanes.all (·.landed))
  match p with
  | .ld => { g with ldq := f g.ldq }
  | .am => { g with amq := f g.amq }
  | .q0 => { g with q0q :=
      (upd (fun (o : QOp) => o.id == id) (fun o => { o with popped := true }) g.q0q).filter fun o => !(o.popped && o.done) }
  | .cp | .mx | .xe => g

/-- Lanes where the move applies whose register read finds an uncorrectable error, and the active lanes that read a guard register
with one (R408). -/
def RMove.bad (r : RMove) (g : Group) : Mask :=
  (r.lanes &&& maskOf g.width fun l => match r.vals[l]? with
    | some v => v.poison
    | none => false) ||| if r.m.mv.g && g.kbad.contains r.m.guard then g.k0 else 0

/-- Step 5 for one move: pop the head entry of its port. Poison in a lane where the move applies is consumed (R304, R408). -/
def popMove (g : Group) (r : RMove) : Group :=
  match queuedSrc r.m.mv.s with
  | none => { g with check := consumePoison g.check (lanesOf g.width (r.bad g)).length }
  | some p =>
    match g.entries p with
    | [] => g
    | e :: rest =>
      let n := (lanesOf g.width (e.poison &&& r.lanes ||| if r.m.mv.g && g.kbad.contains r.m.guard then g.k0 else 0)).length
      let g := { g.setEntries p rest with check := consumePoison g.check n }
      let g := if p == .am then g.popFlags e r.m.deferred else g
      g.leaveQueue p e.id

/-! ### Writes (step 6) -/

/-- A move writes a vector register of a lane: it is full, and a landing value still to come for it is discarded (R207). -/
def Group.writeV (g : Group) (l n : Nat) (v : W32) : Group :=
  { g.setV l n v with deferred := drop (fun (d : Deferred) => d.lane == l && d.reg == n) g.deferred }

/-- A deferred move leaves a register lane empty (R207). -/
def Group.deferV (g : Group) (p : RPort) (id l n : Nat) (hi : Bool) : Group :=
  { g.emptyV l n with
    deferred := drop (fun (d : Deferred) => d.lane == l && d.reg == n) g.deferred ++ [⟨p, id, l, n, hi⟩] }

/-- Write a vector register or pair in one lane, or defer it. `e` is the entry a deferred move popped. -/
def writeVec (g : Group) (r : RMove) (e : Option REntry) (n l : Nat) : Group :=
  let v := r.val l
  match queuedSrc r.m.mv.s, e with
  | some p, some e =>
    if e.full.getLsbD l then
      if r.m.wide then (g.writeV l n (lo32 v)).writeV l (n + 1) (hi32 v) else g.writeV l n (lo32 v)
    else if r.m.wide then (g.deferV p e.id l n false).deferV p e.id l (n + 1) true
    else g.deferV p e.id l n false
  | _, _ => if r.m.wide then (g.writeV l n (lo32 v)).writeV l (n + 1) (hi32 v) else g.writeV l n (lo32 v)

/-- Step 6 for one move (R204). `before` is the group before the bundle, for the entry a deferred move pops. -/
def writeMove (before g : Group) (r : RMove) : Group :=
  let ls := lanesOf g.width r.lanes
  match r.m.dest with
  | .vreg n =>
    let e := (queuedSrc r.m.mv.s).bind fun p => (before.entries p)[r.k]?
    ls.foldl (fun g l => writeVec g r e n l) g
  | .sreg n =>
    match ls.head? with
    | some l => g.setS n (r.val l)
    | none => g
  | .kreg n =>
    let new := maskOf g.width fun l =>
      if r.lanes.getLsbD l then
        if uniformSrc r.m.mv.s then (r.val l).getLsbD l else r.val l != 0
      else (g.k n).getLsbD l
    g.setK n new
  | .operand u p => ls.foldl (fun g l => g.setOpnd l u p (r.val l)) g
  | .trigger _ _ => g

/-! ### Landing (R206, R207) -/

/-- Fill the register lanes and the am.rb lane that a deferred pop left empty for a lane of an entry. -/
def Group.fillDeferred (g : Group) (p : RPort) (id l : Nat) (v : W64) (flag : Bool) : Group :=
  let mine := g.deferred.filter fun (d : Deferred) => d.port == p && d.id == id && d.lane == l
  let g := mine.foldl (fun g d => g.setV l d.reg (if d.hi then hi32 v else lo32 v)) g
  let g := { g with deferred := drop (fun (d : Deferred) => d.port == p && d.id == id && d.lane == l) g.deferred }
  if p == .am && g.rbPend.contains (id, l) then
    { g.setRes l 0x10 true (if flag then 1 else 0) with
      amrbFull := g.amrbFull ||| maskOf g.width (· == l), rbPend := drop (· == (id, l)) g.rbPend }
  else g

/-- A lane of a queued result lands (R206). A poisoned lane that a deferred move has popped is consumed now (R304). -/
def Group.land (g : Group) (p : RPort) (id l : Nat) (v : W64) (flag poison : Bool) : Group :=
  let one : Mask := maskOf g.width (· == l)
  if (g.entries p).any (·.id == id) then
    g.setEntries p (upd (fun (e : REntry) => e.id == id) (fun e =>
      { e with vals := setAt e.vals l v, full := e.full ||| one,
               poison := if poison then e.poison ||| one else e.poison,
               flags := if flag then e.flags ||| one else e.flags }) (g.entries p))
  else
    let waited := g.deferred.any fun (d : Deferred) => d.port == p && d.id == id && d.lane == l
    let g := if poison && waited then { g with check := consumePoison g.check 1 } else g
    g.fillDeferred p id l v flag

/-- The lanes of a variable-latency unqueued port that are full: set them. -/
def Group.setPortFull (g : Group) (p : RPort) (m : Mask) : Group :=
  match p with
  | .cp => { g with cpFull := m }
  | .mx => { g with mxFull := m }
  | .xe => { g with xeFull := m }
  | .ld | .am | .q0 => g

/-- Unit code of a result port. -/
def portUnit (p : RPort) : Nat :=
  match p with
  | .ld => 0x0C
  | .cp => 0x0D
  | .q0 => 0x0E
  | .mx => 0x0F
  | .am => 0x10
  | .xe => 0x11

/-- The results still to come of a variable-latency unqueued port, when a later trigger takes some lanes: an earlier result is
discarded in those lanes (R206), and one of cp.r altogether (R316). -/
def Group.varLeft (g : Group) (p : RPort) (lanes : Mask) : List VarRes :=
  g.varPend.filterMap fun x =>
    if x.port != p then some x
    else
      let left := x.lanes &&& ~~~lanes
      if p == .cp || left == 0 then none else some { x with lanes := left }

/-- A trigger that produces a result in a variable-latency unqueued port: the port is empty in its lanes until the result
lands (R206). What is still empty for an earlier result of cp.r waits for the later one (R316). -/
def Group.giveVar (g : Group) (p : RPort) (lanes : Mask) (v : W64) (ask : Option W64) : Group :=
  let old := if p == .cp then (g.varPend.filter fun (x : VarRes) => x.port == p).foldl (fun m x => m ||| x.lanes) 0 else 0
  let m := lanes ||| old
  let full := match p with
    | .cp => g.cpFull
    | .mx => g.mxFull
    | .ld | .am | .q0 | .xe => g.xeFull
  { g.setPortFull p (full &&& ~~~m) with
    ord := g.ord + 1
    varPend := g.varLeft p lanes ++ [{ port := p, id := g.ord, lanes := m, val := v, ask := ask }] }

/-- A result of a variable-latency unqueued port lands. -/
def Group.landVar (g : Group) (x : VarRes) (v : W64 := x.val) : Group :=
  let full := match x.port with
    | .cp => g.cpFull
    | .mx => g.mxFull
    | .ld | .am | .q0 | .xe => g.xeFull
  let g := g.setPortFull x.port (full ||| x.lanes)
  { g.setResLanes (portUnit x.port) false x.lanes fun _ => v with varPend := drop (fun (y : VarRes) => y == x) g.varPend }

/-- A new entry of a queued result port: lanes that are not waited for are full with 0 (R206). -/
def newEntry (g : Group) (id : Nat) (pending : Mask) : REntry :=
  { id := id, vals := List.replicate g.width 0, full := fullMask g.width &&& ~~~pending, poison := 0, flags := 0 }

end Sys2Proof.Machine
end

