-- ==== Sys2Proof/Machine/Ports.lean ====
section
/-!
DEFINITION. Ports: what a trigger is given and answers (R221 step 7, R266), and how a fixed-latency unit stages its result
(R208, R267).
-/

namespace Sys2Proof.Machine

/-- What a trigger is given: its group, bus, destination, the lanes where its move applies, the trigger value of each lane,
and the text offsets of its bundle and of the bundle after it. -/
structure TrigIn where
  g : GRef
  bus : Nat
  unit : Nat
  port : Nat
  lanes : Mask
  t : List W64
  pc : W32
  next : W32
  deriving DecidableEq, Repr

/-- The trigger value of a lane. -/
def TrigIn.tv (i : TrigIn) (l : Nat) : W64 := i.t[l]?.getD 0

/-- What starting a trigger comes to: the state after it; a precise trap, by which the whole bundle has no effect; or a wait
of the bundle in step 3, with what is noted in the state before the bundle (a miss, growth, a stopped core). -/
inductive TrigRes where
  | ok (s : State)
  | trap (t : TrapInfo)
  | wait (note : State → State)
  /-- it waits and there is nothing to note -/
  | hold

/-- A trigger. The state it is given has steps 5 and 6 of the bundle done. -/
abbrev Trigger := TrigIn → State → TrigRes

/-- A precise trap with nothing beside code and cause. -/
def precise (code cause bus : Nat) : TrapInfo where
  code := code
  cause := cause
  bus := bus
  imprecise := false
  exited := false
  held := false
  lane := 0
  pc := 0
  addr := 0
  info0 := 0
  info1 := 0
  lanes := 0
  time := 0
  cause2 := 0

/-- The width of the trigger's group. -/
def TrigIn.width (i : TrigIn) : Nat := i.t.length

/-- Change the trigger's group. -/
def State.onGroup (s : State) (i : TrigIn) (f : Group → Group) : State := s.modGroup i.g f

/-- Stage a result: visible after `lat` of the group's own issues, in the lanes where the trigger applied (R208, R267). -/
def Group.stage (g : Group) (unit lat : Nat) (lanes : Mask) (r rb : Option (List W64)) : Group :=
  { g with staged := g.staged ++ [{ unit := unit, rem := lat, lanes := lanes, r := r, rb := rb, old := false }] }

/-- What a lane of a fixed-latency unit reads: ports a to d, the trigger value, and its generator state (R266, R259). -/
structure LaneIn where
  a : W64
  b : W64
  c : W64
  d : W64
  t : W64
  st : W64
  deriving DecidableEq, Repr

/-- What a lane of a fixed-latency unit computes. Where rb is none, the trigger leaves rb alone (R267). -/
structure LaneOut where
  r : W64
  rb : Option W64
  st : W64
  deriving DecidableEq, Repr

/-- A result in r only. -/
def outR (i : LaneIn) (r : W64) : LaneOut := { r := r, rb := none, st := i.st }

/-- A 32-bit result, zero-extended (R267). -/
def outW (i : LaneIn) (r : W32) : LaneOut := outR i (zx r)

/-- The inputs of a lane of a unit. -/
def laneIn (g : Group) (unit l : Nat) (t : W64) : LaneIn where
  a := g.opnd l unit 0
  b := g.opnd l unit 1
  c := g.opnd l unit 2
  d := g.opnd l unit 3
  t := t
  st := match g.lane? l with
    | some x => x.gen
    | none => 0

/-- The latencies of R225. -/
def latency (unit : Nat) : Nat :=
  match unit with
  | 0x04 | 0x05 | 0x0A | 0x12 => 1
  | 0x0B => 2
  | 0x06 => 3
  | 0x07 | 0x08 => 4
  | 0x13 => 5
  | 0x09 => 12
  | _ => 1

/-- A fixed-latency trigger made of one function of a lane's inputs. In lanes where its move does not apply it computes
nothing and draws nothing (R266). -/
def laneTrigger (f : LaneIn → LaneOut) : Trigger := fun i s =>
  .ok (s.onGroup i fun g =>
    let outs := (List.range g.width).map fun l =>
      if i.lanes.getLsbD l then some (f (laneIn g i.unit l (i.tv l))) else none
    let val (p : LaneOut → W64) := outs.map fun o => match o with
      | some x => p x
      | none => 0
    let anyRb := outs.any fun o => match o with
      | some x => x.rb.isSome
      | none => false
    let lanes := (g.lanes.zip outs).map fun (x, o) => match o with
      | some y => { x with gen := y.st }
      | none => x
    let g := { g with lanes := lanes }
    if outs.any Option.isSome then
      g.stage i.unit (latency i.unit) i.lanes (some (val (·.r))) (if anyRb then some (val (·.rb.getD 0)) else none)
    else g)

/-- A fixed-latency trigger that writes the generator and no result port. -/
def genTrigger (f : LaneIn → Nat → W64) : Trigger := fun i s =>
  .ok (s.onGroup i fun g =>
    (lanesOf g.width i.lanes).foldl (fun g l =>
      let x := laneIn g i.unit l (i.tv l)
      g.modLane l fun y => { y with gen := f x (i.g.gi * g.width + l) }) g)

/-- A fixed-latency trigger that combines the lanes of the group: the function is given the participating lanes, each with
its inputs, and answers for one of them (R287). -/
def groupTrigger (f : Nat → List (Nat × LaneIn) → Nat → LaneIn → W64) : Trigger := fun i s =>
  .ok (s.onGroup i fun g =>
    let ps := (lanesOf g.width i.lanes).map fun l => (l, laneIn g i.unit l (i.tv l))
    let r := (List.range g.width).map fun l => match ps.find? fun (x : Nat × LaneIn) => x.1 == l with
      | some (_, x) => f g.width ps l x
      | none => 0
    if ps.isEmpty then g else g.stage i.unit (latency i.unit) i.lanes (some r) none)

/-- A staged result becomes visible in its port r, and in rb when it has one (R208, R267). -/
def Group.showResult (g : Group) (x : Staged) : Group :=
  let g1 := match x.r with
    | some v => g.setResLanes x.unit false x.lanes fun l => v[l]?.getD 0
    | none => g
  match x.rb with
  | some v => g1.setResLanes x.unit true x.lanes fun l => v[l]?.getD 0
  | none => g1

/-- A staged result with one issue less to go. -/
def Staged.tick (x : Staged) : Staged := { x with rem := x.rem - 1 }

/-- At the start of an issue: staged results whose issues have passed become visible (R208), and interlocked mode ends when
none of those triggered before the resume is left (R209). -/
def Group.advance (g : Group) : Group :=
  let dec := g.staged.map Staged.tick
  let g1 := (dec.filter (·.rem == 0)).foldl Group.showResult g
  let left := dec.filter (·.rem != 0)
  { g1 with staged := left, il := g.il && left.any (·.old) }

/-- Has every operation issued to a fixed-latency unit landed in its unit's staging (R195)? A result has once at most two issues are
left until it is visible (R429, log 72). -/
def Group.fixedLanded (g : Group) : Bool := g.staged.all (·.rem ≤ 2)

/-- Enter interlocked mode (R209). -/
def Group.interlock (g : Group) : Group := { g with il := true, staged := g.staged.map fun x => { x with old := true } }

/-- The result r of a sy trigger, one value for the group: visible at the next issue, or at the first after the wait (R331). -/
def Group.sySet (g : Group) (v : W64) : Group :=
  g.stage 0x12 1 (fullMask g.width) (some (List.replicate g.width v)) none

end Sys2Proof.Machine
end

