-- ==== Sys2Proof/Machine/Alu.lean ====
section
/-!
DEFINITION. Alu: what the triggers of a0 and a1 compute (R270 to R273) and those of m0 (R274, R275).
-/

namespace Sys2Proof.Machine

/-! ### a0 and a1 -/

def aAdd (i : LaneIn) : LaneOut := outW i (lo32 i.a + lo32 i.t)
def aSub (i : LaneIn) : LaneOut := outW i (lo32 i.a - lo32 i.t)

/-- Carry in from B[0], carry out in rb. -/
def aAddc (i : LaneIn) : LaneOut :=
  let (v, c) := addCarry (lo32 i.a) (lo32 i.t) (i.b.getLsbD 0)
  { outW i v with rb := some (w64 (b2n c)) }

/-- Borrow in from B[0], borrow out in rb. -/
def aSubb (i : LaneIn) : LaneOut :=
  let (v, c) := subBorrow (lo32 i.a) (lo32 i.t) (i.b.getLsbD 0)
  { outW i v with rb := some (w64 (b2n c)) }

def aAdds (i : LaneIn) : LaneOut := outW i (satW32 ((lo32 i.a).toInt + (lo32 i.t).toInt) i32Min i32Max)
def aSubs (i : LaneIn) : LaneOut := outW i (satW32 ((lo32 i.a).toInt - (lo32 i.t).toInt) i32Min i32Max)
def aAddsn (i : LaneIn) : LaneOut := outW i (w32 (min ((lo32 i.a).toNat + (lo32 i.t).toNat) 0xFFFFFFFF))
def aSubsn (i : LaneIn) : LaneOut := outW i (w32 ((lo32 i.a).toNat - (lo32 i.t).toNat))
def aAnd (i : LaneIn) : LaneOut := outW i (lo32 i.a &&& lo32 i.t)
def aOr (i : LaneIn) : LaneOut := outW i (lo32 i.a ||| lo32 i.t)
def aXor (i : LaneIn) : LaneOut := outW i (lo32 i.a ^^^ lo32 i.t)
def aAndn (i : LaneIn) : LaneOut := outW i (lo32 i.a &&& ~~~(lo32 i.t))
/-- A count of 32 or more gives 0. -/
def aShl (i : LaneIn) : LaneOut := outW i (if (lo32 i.t).toNat < 32 then lo32 i.a <<< (lo32 i.t).toNat else 0)
/-- A count of 32 or more gives 0. -/
def aShr (i : LaneIn) : LaneOut := outW i (if (lo32 i.t).toNat < 32 then lo32 i.a >>> (lo32 i.t).toNat else 0)
/-- A count of 32 or more gives the sign in every bit. -/
def aSar (i : LaneIn) : LaneOut :=
  outW i (if (lo32 i.t).toNat < 32 then (lo32 i.a).sshiftRight (lo32 i.t).toNat
    else if (lo32 i.a).getLsbD 31 then 0xFFFFFFFF else 0)
def aRol (i : LaneIn) : LaneOut := outW i ((lo32 i.a).rotateLeft ((lo32 i.t).toNat % 32))
def aMin (i : LaneIn) : LaneOut := outW i (if (lo32 i.a).sle (lo32 i.t) then lo32 i.a else lo32 i.t)
def aMax (i : LaneIn) : LaneOut := outW i (if (lo32 i.t).sle (lo32 i.a) then lo32 i.a else lo32 i.t)
def aMinn (i : LaneIn) : LaneOut := outW i (if (lo32 i.a).ule (lo32 i.t) then lo32 i.a else lo32 i.t)
def aMaxn (i : LaneIn) : LaneOut := outW i (if (lo32 i.t).ule (lo32 i.a) then lo32 i.a else lo32 i.t)
/-- 0x80000000 gives itself. -/
def aAbs (i : LaneIn) : LaneOut := outW i (if (lo32 i.t).getLsbD 31 then -(lo32 i.t) else lo32 i.t)
def aNeg (i : LaneIn) : LaneOut := outW i (-(lo32 i.t))
def aClz (i : LaneIn) : LaneOut := outW i (w32 (if lo32 i.t == 0 then 32 else 31 - Nat.log2 (lo32 i.t).toNat))
def aPopc (i : LaneIn) : LaneOut := outW i (w32 (((List.range 32).filter (lo32 i.t).getLsbD).length))
def aBrev (i : LaneIn) : LaneOut := outW i (lo32 i.t).reverse
/-- All 64 bits. -/
def aSel (i : LaneIn) : LaneOut := outR i (if lo32 i.t != 0 then i.a else i.b)

/-- Position and length of a bit field: cut at bit 31 (R273). -/
def fieldOf (t : W64) : Nat × Nat :=
  let pos := fld t 0 5
  (pos, min (fld t 8 6) (32 - pos))

def aBext (i : LaneIn) : LaneOut :=
  let (pos, len) := fieldOf i.t
  if len == 0 then outW i 0
  else
    let f := bits (lo32 i.a).toNat pos len
    outW i (if i.b.getLsbD 0 then BitVec.ofInt 32 (signedOf len f) else w32 f)

def aBins (i : LaneIn) : LaneOut :=
  let (pos, len) := fieldOf i.t
  let m : W32 := w32 ((2 ^ len - 1) * 2 ^ pos)
  outW i ((lo32 i.a &&& ~~~m) ||| ((lo32 i.b <<< pos) &&& m))

def aAdd64 (i : LaneIn) : LaneOut := outR i (i.a + i.t)
def aSub64 (i : LaneIn) : LaneOut := outR i (i.a - i.t)
def aPass (i : LaneIn) : LaneOut := outR i i.t

/-! ### m0 -/

def m0Mul (i : LaneIn) : LaneOut := outW i (lo32 i.a * lo32 i.t)
def m0Mulhi (i : LaneIn) : LaneOut := outW i (hi32 (sx (lo32 i.a) * sx (lo32 i.t)))
def m0Mulhin (i : LaneIn) : LaneOut := outW i (hi32 (zx (lo32 i.a) * zx (lo32 i.t)))
def m0Mulw (i : LaneIn) : LaneOut := outR i (sx (lo32 i.a) * sx (lo32 i.t))
def m0Mad (i : LaneIn) : LaneOut := outW i (lo32 i.a * lo32 i.t + lo32 i.b)
def m0Lea (i : LaneIn) : LaneOut := outR i (i.a + sx (lo32 i.b) * sx (lo32 i.t))

/-- Quotient and remainder of a signed division, truncated toward zero; a zero divisor gives all ones and the dividend
(R275). -/
def m0Div (i : LaneIn) : LaneOut :=
  let a := lo32 i.a
  let t := lo32 i.t
  if t == 0 then { r := 0xFFFFFFFF, rb := some (zx a), st := i.st }
  else { r := zx (a.sdiv t), rb := some (zx (a.srem t)), st := i.st }

/-- The unsigned form. -/
def m0Divn (i : LaneIn) : LaneOut :=
  let a := lo32 i.a
  let t := lo32 i.t
  if t == 0 then { r := 0xFFFFFFFF, rb := some (zx a), st := i.st }
  else { r := zx (a / t), rb := some (zx (a % t)), st := i.st }

/-- div and divn: with DIVTRAP, a zero divisor in any lane where the move applies raises the divide-error trap and the
bundle has no effect (R275). -/
def divTrigger (f : LaneIn → LaneOut) : Trigger := fun i s =>
  let zero := maskOf i.width fun l => i.lanes.getLsbD l && lo32 (i.tv l) == 0
  match s.launchOf? i.g, lowestLane i.width zero with
  | some l, some lane =>
    if l.lrec.divTrap then .trap { precise 0x08 0 i.bus with lane := lane, lanes := zero }
    else laneTrigger f i s
  | _, _ => laneTrigger f i s

end Sys2Proof.Machine
end

