-- ==== Sys2Proof/Machine/RealFn.lean ====
section
/-!
DEFINITION. RealFn: the functions of x0 (R264, R282). Roots and quotients are exact integer arithmetic with a sticky bit.
The transcendental functions are evaluated in fixed point with 640 fraction bits, far below any rounding decision an FP32
operand can meet, and then rounded once (log 17).
-/

namespace Sys2Proof.Machine

/-- Fraction bits of the fixed-point evaluation. -/
def fxBits : Nat := 640

/-- 1.0 in fixed point. -/
def fxOne : Nat := 2 ^ fxBits

/-- Product of two fixed-point numbers, rounded down. -/
def fxMul (a b : Int) : Int := a * b / (fxOne : Int)

/-- A finite value in fixed point, rounded toward −∞. -/
def fxOf (neg : Bool) (m : Nat) (e : Int) : Int :=
  let sh := e + fxBits
  let v : Nat := if 0 ≤ sh then m * 2 ^ sh.toNat else m / 2 ^ (-sh).toNat
  if neg then -(v : Int) else v

/-- A fixed-point number as a value to be rounded: one sticky bit below the last place, so that no tie arises from the
evaluation. -/
def fxVal (v : Int) : Fp := .fin (decide (v < 0)) (2 * v.natAbs + 1) (-(fxBits : Int) - 1)

/-- floor(√n) by trial of the bits below 2^k. -/
def isqrt (n : Nat) : Nat → Nat → Nat
  | 0, r => r
  | k + 1, r => isqrt n k (if (r + 2 ^ k) * (r + 2 ^ k) ≤ n then r + 2 ^ k else r)

/-- A quotient as a value to be rounded: 96 bits more than the divisor needs, and a sticky bit. -/
def quotient (neg : Bool) (ma : Nat) (ea : Int) (mb : Nat) (eb : Int) : Fp :=
  let k := 96 + Nat.log2 mb
  let n := ma * 2 ^ k
  .fin neg (2 * (n / mb) + (if n % mb == 0 then 0 else 1)) (ea - eb - k - 1)

/-- A square root as a value to be rounded. -/
def root (m : Nat) (e : Int) : Fp :=
  let (m, e) := if e % 2 == 0 then (m, e) else (2 * m, e - 1)
  let n := m * 2 ^ 128
  let r := isqrt n (Nat.log2 n / 2 + 1) 0
  .fin false (2 * r + (if r * r == n then 0 else 1)) (e / 2 - 64 - 1)

/-- 1/√x as a value to be rounded. -/
def invRoot (m : Nat) (e : Int) : Fp :=
  let (m, e) := if e % 2 == 0 then (m, e) else (2 * m, e - 1)
  let n := 2 ^ 256 / m
  let r := isqrt n (Nat.log2 n / 2 + 1) 0
  .fin false (2 * r + (if r * r * m == 2 ^ 256 then 0 else 1)) (-(e / 2) - 128 - 1)

/-! ### Series -/

/-- Σ (±1)^i y^(2i+1) / (2i+1) for y = num/den: `t` holds y^(2i+1) and loses y² at each term. -/
def atanhSum (num2 den2 : Nat) (alt : Bool) : (fuel i : Nat) → (t acc : Int) → Int
  | 0, _, _, acc => acc
  | fuel + 1, i, t, acc =>
    let term := t / (2 * i + 1 : Nat)
    let acc := if alt && i % 2 == 1 then acc - term else acc + term
    atanhSum num2 den2 alt fuel (i + 1) (t * (num2 : Int) / (den2 : Int)) acc

/-- arctan(1/k) (alt) or artanh(1/k) in fixed point. -/
def invSeries (alt : Bool) (k : Nat) : Int :=
  atanhSum 1 (k * k) alt 420 0 ((fxOne : Int) / (k : Int)) 0

/-- π in fixed point. -/
def fxPi : Int := 16 * invSeries true 5 - 4 * invSeries true 239

/-- ln 2 in fixed point. -/
def fxLn2 : Int := 2 * invSeries false 3

/-- Σ r^i / i! from i on: `t` holds r^i / i!. -/
def expSum (r : Int) : (fuel i : Nat) → (t acc : Int) → Int
  | 0, _, _, acc => acc
  | fuel + 1, i, t, acc => expSum r fuel (i + 1) (fxMul t r / (i + 1 : Nat)) (acc + t)

/-- e^r for |r| ≤ 1. -/
def fxExpSmall (r : Int) : Int := expSum r 160 0 fxOne 0

/-- e^x in fixed point, as a mantissa in [1, 2) or so and a power of two. -/
def fxExp (x : Int) : Int × Int :=
  let k := x / fxLn2
  (fxExpSmall (x - k * fxLn2), k)

/-- Σ (−1)^i r^(2i) / (2i)! or r^(2i+1) / (2i+1)!: `t` holds the current term, `n` its power. -/
def trigSum (r2 : Int) : (fuel n : Nat) → (t acc : Int) → Int
  | 0, _, _, acc => acc
  | fuel + 1, n, t, acc => trigSum r2 fuel (n + 2) (-(fxMul t r2) / ((n + 1) * (n + 2) : Nat)) (acc + t)

/-- sin r for |r| ≤ 2. -/
def fxSin (r : Int) : Int := trigSum (fxMul r r) 110 1 r 0

/-- cos r for |r| ≤ 2. -/
def fxCos (r : Int) : Int := trigSum (fxMul r r) 110 0 fxOne 0

/-- ln of a fixed-point number in [1, 2). -/
def fxLn (m : Int) : Int :=
  let one : Int := fxOne
  let y := (m - one) * one / (m + one)
  let y2 := fxMul y y
  let rec go (fuel i : Nat) (t acc : Int) : Int :=
    match fuel with
    | 0 => acc
    | fuel + 1 => go fuel (i + 1) (fxMul t y2) (acc + t / (2 * i + 1 : Nat))
  2 * go 230 0 y 0

/-- Σ (−1)^i z^(2i+1) / (i! (2i+1)): `t` holds z^(2i+1) / i!. -/
def erfSum (z2 : Int) : (fuel i : Nat) → (t acc : Int) → Int
  | 0, _, _, acc => acc
  | fuel + 1, i, t, acc =>
    erfSum z2 fuel (i + 1) (-(fxMul t z2) / (i + 1 : Nat)) (acc + t / (2 * i + 1 : Nat))

/-- Square root of a fixed-point number. -/
def fxSqrt (v : Int) : Int := (isqrt (v.toNat * fxOne) (fxBits + 8) 0 : Nat)

/-- erf(x/√2) for |x| ≤ 32. -/
def fxErfHalf (x : Int) : Int :=
  let z := x * fxOne / fxSqrt (2 * fxOne)
  let s := erfSum (fxMul z z) 2600 0 z 0
  2 * s * fxOne / fxSqrt (fxPi * 1)

/-! ### The functions (R282) -/

/-- rcp. -/
def fnRcp : Fp → Fp
  | .nan => .nan
  | .inf n => .fin n 0 0
  | .fin n m e => if m == 0 then .inf n else quotient n 1 0 m e

/-- rsqrt. -/
def fnRsqrt : Fp → Fp
  | .nan => .nan
  | .inf n => if n then .nan else .fin false 0 0
  | .fin n m e => if m == 0 then .inf n else if n then .nan else invRoot m e

/-- sqrt. -/
def fnSqrt : Fp → Fp
  | .nan => .nan
  | .inf n => if n then .nan else .inf false
  | .fin n m e => if m == 0 then .fin n 0 0 else if n then .nan else root m e

/-- A fixed-point number times a power of two, as a value to be rounded. -/
def fxScaled (v k : Int) : Fp := .fin (decide (v < 0)) (2 * v.natAbs + 1) (k - fxBits - 1)

/-- exp2. An integral operand has an exact result, and no other has one. A magnitude far below the smallest subnormal, or far above the
largest value, stands for every one of its kind. -/
def fnExp2 : Fp → Fp
  | .nan => .nan
  | .inf n => if n then .fin false 0 0 else .inf false
  | .fin n m e =>
    if m == 0 then .fin false 1 0
    else if 12 ≤ (Nat.log2 m : Int) + e then
      if n then .fin false 1 (-1000) else .fin false 1 1000
    else
      let x := fxOf n m e
      let k := x / fxOne
      if x == k * fxOne then .fin false 1 k else fxScaled (fxExpSmall (fxMul (x - k * fxOne) fxLn2)) k

/-- log2. -/
def fnLog2 : Fp → Fp
  | .nan => .nan
  | .inf n => if n then .nan else .inf false
  | .fin n m e =>
    if m == 0 then .inf true
    else if n then .nan
    else
      let k : Int := (Nat.log2 m : Int) + e
      if m == 2 ^ Nat.log2 m then fpOfInt k
      else fxVal (k * fxOne + fxLn (fxOf false m (-(Nat.log2 m : Int))) * fxOne / fxLn2)

/-- x mod 2 in fixed point, for a finite x. -/
def mod2 (n : Bool) (m : Nat) (e : Int) : Int :=
  if 1 ≤ e then 0
  else fxOf n m e % (2 * fxOne)

/-- sin(πr) for r in [0, 2) in fixed point, reduced to at most a quarter turn. -/
def fxSinPi (r : Int) : Int :=
  let one : Int := fxOne
  let (r, s) := if one ≤ r then (r - one, true) else (r, false)
  let r := if one < 2 * r then one - r else r
  let v := if one < 4 * r then fxCos (fxMul (one / 2 - r) fxPi) else fxSin (fxMul r fxPi)
  if s then -v else v

/-- sinpi. -/
def fnSinpi : Fp → Fp
  | .nan => .nan
  | .inf _ => .nan
  | .fin n m e =>
    let r := mod2 n m e
    if m == 0 || r % fxOne == 0 then .fin n 0 0 else fxVal (fxSinPi r)

/-- cospi. -/
def fnCospi : Fp → Fp
  | .nan => .nan
  | .inf _ => .nan
  | .fin n m e =>
    let r := mod2 n m e
    if r % fxOne == (fxOne / 2 : Nat) then .fin false 0 0
    else fxVal (fxSinPi ((r + (fxOne / 2 : Nat)) % (2 * fxOne)))

/-- tanh; beyond 2^7 it lies nearer to ±1 than any rounding can tell. -/
def fnTanh : Fp → Fp
  | .nan => .nan
  | .inf n => .fin n 1 0
  | .fin n m e =>
    if m == 0 then .fin n 0 0
    else if 7 ≤ (Nat.log2 m : Int) + e then .fin n 1 0
    else
      let (v, k) := fxExp (2 * fxOf false m e)
      let t := v * 2 ^ k.toNat
      fxVal ((if n then -1 else 1) * ((t - fxOne) * fxOne / (t + fxOne)))

/-- sigm; beyond 2^9 it lies nearer to 0 or 1 than any rounding can tell. -/
def fnSigm : Fp → Fp
  | .nan => .nan
  | .inf n => if n then .fin false 0 0 else .fin false 1 0
  | .fin n m e =>
    if m == 0 then .fin false 1 (-1)
    else if 9 ≤ (Nat.log2 m : Int) + e then
      if n then .fin false 1 (-1000) else .fin false 1 0
    else
      let (v, k) := fxExp (fxOf false m e)
      let t := v * 2 ^ k.toNat
      if n then fxVal (fxOne * fxOne / (fxOne + t)) else fxVal (t * fxOne / (fxOne + t))

/-- gelu; beyond ±16 it lies nearer to x or to 0 than any rounding can tell. -/
def fnGelu : Fp → Fp
  | .nan => .nan
  | .inf n => if n then .fin true 0 0 else .inf false
  | .fin n m e =>
    if m == 0 then .fin n 0 0
    else if 4 ≤ (Nat.log2 m : Int) + e then
      if n then .fin true 1 (-1000) else .fin false m e
    else
      let x := fxOf n m e
      fxVal (fxMul x ((fxOne + fxErfHalf x) / 2))

/-- fdiv. -/
def fnDiv : Fp → Fp → Fp
  | .nan, _ => .nan
  | _, .nan => .nan
  | .inf _, .inf _ => .nan
  | .inf a, .fin b _ _ => .inf (a != b)
  | .fin a _ _, .inf b => .fin (a != b) 0 0
  | .fin a ma ea, .fin b mb eb =>
    if mb == 0 then if ma == 0 then .nan else .inf (a != b)
    else if ma == 0 then .fin (a != b) 0 0
    else quotient (a != b) ma ea mb eb

/-- cos(2πk/N) and −sin(2πk/N) for N = 2^a, rounded; an exact zero is +0 (R264). -/
def twiddle (a k : Nat) : W32 × W32 :=
  if 24 < a then (w32 FFmt.fp32.nanCode, w32 FFmt.fp32.nanCode)
  else
    let k' := k % 2 ^ a
    let x : Fp := .fin false (2 * k') (-(a : Int))
    let c := fnCospi x
    let s := match fnSinpi x with
      | .fin n m e => if m == 0 then .fin false 0 0 else .fin (!n) m e
      | y => y
    (rn32 c, rn32 s)

end Sys2Proof.Machine
end

