-- ==== Sys2Proof/Machine/Fpu.lean ====
section
/-!
DEFINITION. Fpu: what the triggers of f0 and f1 (R276 to R280), x0 (R281 to R283), c0 (R284 to R286) and bf (R291 to
R295) compute. f0 and f1 are given FLUSHH of the launch record (R260).
-/

namespace Sys2Proof.Machine

/-! ### f0 and f1: arithmetic (R276) -/

/-- The direction of an arithmetic trigger. -/
def armOf (i : LaneIn) : Rm := (rmOf i.d).noDraw

def fAdd (i : LaneIn) : LaneOut := outW i (rnd32 i.d ((f32 (lo32 i.a)).add (armOf i) (f32 (lo32 i.t))))
def fSub (i : LaneIn) : LaneOut := outW i (rnd32 i.d ((f32 (lo32 i.a)).add (armOf i) (f32 (lo32 i.t)).neg))
def fMul (i : LaneIn) : LaneOut := outW i (rnd32 i.d ((f32 (lo32 i.a)).mul (f32 (lo32 i.t))))
def fFma (i : LaneIn) : LaneOut :=
  outW i (rnd32 i.d (Fp.fma (armOf i) (f32 (lo32 i.a)) (f32 (lo32 i.t)) (f32 (lo32 i.b))))
def fFms (i : LaneIn) : LaneOut :=
  outW i (rnd32 i.d (Fp.fma (armOf i) (f32 (lo32 i.a)) (f32 (lo32 i.t)) (f32 (lo32 i.b)).neg))
def fFnma (i : LaneIn) : LaneOut :=
  outW i (rnd32 i.d (Fp.fma (armOf i) (f32 (lo32 i.a)).neg (f32 (lo32 i.t)) (f32 (lo32 i.b))))

/-! ### f0 and f1: selection and sign (R277) -/

/-- The canonical NaN of FP32. -/
def nan32 : W32 := 0x7FC00000

/-- Is a below t, with −0 below +0? -/
def fBelow (a t : W32) : Bool := fLt a t || (fEq a t && a.getLsbD 31 && !t.getLsbD 31)

/-- min and max: a NaN loses to a number. -/
def fPick (less : Bool) (a t : W32) : W32 :=
  if (f32 a).isNan && (f32 t).isNan then nan32
  else if (f32 a).isNan then t
  else if (f32 t).isNan then a
  else if less then if fBelow t a then t else a
  else if fBelow a t then t else a

/-- A sign on a magnitude. -/
def withSign (neg : Bool) (v : W32) : W32 := if neg then v ||| 0x80000000 else v &&& 0x7FFFFFFF

def fMin (i : LaneIn) : LaneOut := outW i (fPick true (lo32 i.a) (lo32 i.t))
def fMax (i : LaneIn) : LaneOut := outW i (fPick false (lo32 i.a) (lo32 i.t))
def fAbs (i : LaneIn) : LaneOut := outW i (if (f32 (lo32 i.t)).isNan then nan32 else withSign false (lo32 i.t))
def fNeg (i : LaneIn) : LaneOut := outW i (if (f32 (lo32 i.t)).isNan then nan32 else lo32 i.t ^^^ 0x80000000)
def fCsgn (i : LaneIn) : LaneOut :=
  outW i (if (f32 (lo32 i.a)).isNan then nan32 else withSign (i.t.getLsbD 31) (lo32 i.a))

/-! ### f0 and f1: integral values (R278) -/

def fFloor (i : LaneIn) : LaneOut := outW i (integral .down (lo32 i.t))
def fCeil (i : LaneIn) : LaneOut := outW i (integral .up (lo32 i.t))
def fTrunc (i : LaneIn) : LaneOut := outW i (integral .rtz (lo32 i.t))
def fRint (i : LaneIn) : LaneOut := outW i (integral (armOf i) (lo32 i.t))

/-! ### f0 and f1: conversions (R261 to R263, R279) -/

/-- A rounding conversion: the result, and the generator after its draw. -/
def outDraw (x : Nat × W64) : LaneOut := { r := w64 x.1, rb := none, st := x.2 }

/-- A 16-bit operand: a subnormal reads as zero of its sign under FLUSHH (R260). -/
def operand16 (flush : Bool) (f : FFmt) (code : Nat) : Fp :=
  if flush && isSubnormal f code then .fin (bit code 15) 0 0 else fpOf f code

/-- A 16-bit result: a nonzero subnormal becomes zero of its sign under FLUSHH (R260). -/
def result16 (flush : Bool) (f : FFmt) (code : Nat) : Nat :=
  if flush && isSubnormal f code then code / 32768 * 32768 else code

def fCvtif (i : LaneIn) : LaneOut := outDraw (roundDraw .fp32 i.d (fpOfInt (lo32 i.t).toInt) i.st)
def fCvtnf (i : LaneIn) : LaneOut := outDraw (roundDraw .fp32 i.d (fpOfInt (lo32 i.t).toNat) i.st)
def fCvtfi (i : LaneIn) : LaneOut :=
  let (v, st) := toInteger i32Min i32Max i.d (f32 (lo32 i.t)) i.st
  { r := zx v, rb := none, st := st }
def fCvtfn (i : LaneIn) : LaneOut :=
  let (v, st) := toInteger 0 0xFFFFFFFF i.d (f32 (lo32 i.t)) i.st
  { r := zx v, rb := none, st := st }

/-- FP32 to a 16-bit format. -/
def narrow16 (f : FFmt) (flush : Bool) (i : LaneIn) : LaneOut :=
  let (c, st) := roundDraw f i.d (f32 (lo32 i.t)) i.st
  outDraw (result16 flush f c, st)

def fCvth (flush : Bool) (i : LaneIn) : LaneOut := narrow16 .fp16 flush i
def fCvtb (flush : Bool) (i : LaneIn) : LaneOut := narrow16 .bf16 flush i
def fCvte4 (i : LaneIn) : LaneOut := outDraw (roundDraw .e4m3 i.d (f32 (lo32 i.t)) i.st)
def fCvte5 (i : LaneIn) : LaneOut := outDraw (roundDraw .e5m2 i.d (f32 (lo32 i.t)) i.st)
def fCvtf4 (i : LaneIn) : LaneOut := outDraw (roundDraw .fp4 i.d (f32 (lo32 i.t)) i.st)
def fCvthf (flush : Bool) (i : LaneIn) : LaneOut := outW i (rn32 (operand16 flush .fp16 (fld i.t 0 16)))
def fCvtbf (flush : Bool) (i : LaneIn) : LaneOut := outW i (rn32 (operand16 flush .bf16 (fld i.t 0 16)))
def fCvte4f (i : LaneIn) : LaneOut := outW i (rn32 (fpOf .e4m3 (fld i.t 0 8)))
def fCvte5f (i : LaneIn) : LaneOut := outW i (rn32 (fpOf .e5m2 (fld i.t 0 8)))
def fCvtf4f (i : LaneIn) : LaneOut := outW i (rn32 (fpOf .fp4 (fld i.t 0 4)))

/-! ### f0 and f1: packed triggers (R280) -/

/-- Element k of a packed operand. -/
def elem16 (flush : Bool) (f : FFmt) (v : W64) (k : Nat) : Fp := operand16 flush f (fld v (16 * k) 16)

/-- Both elements of a packed result. -/
def packed (flush : Bool) (f : FFmt) (i : LaneIn) (op : Nat → Fp) : LaneOut :=
  let one (k : Nat) : Nat := result16 flush f (roundCode f (armOf i) (satfOf i.d) 0 (op k))
  outR i (w64 (one 0 + 65536 * one 1))

def fHadd2 (flush : Bool) (i : LaneIn) : LaneOut :=
  packed flush .fp16 i fun k => (elem16 flush .fp16 i.a k).add (armOf i) (elem16 flush .fp16 i.t k)
def fHfma2 (flush : Bool) (i : LaneIn) : LaneOut :=
  packed flush .fp16 i fun k =>
    Fp.fma (armOf i) (elem16 flush .fp16 i.a k) (elem16 flush .fp16 i.t k) (elem16 flush .fp16 i.b k)
def fBfma2 (flush : Bool) (i : LaneIn) : LaneOut :=
  packed flush .bf16 i fun k =>
    Fp.fma (armOf i) (elem16 flush .bf16 i.a k) (elem16 flush .bf16 i.t k) (elem16 flush .bf16 i.b k)

/-- A trigger that FLUSHH of the launch record bears on (R260). -/
def flushTrigger (f : Bool → LaneIn → LaneOut) : Trigger := fun i s =>
  let flush := match s.launchOf? i.g with
    | some l => l.lrec.flushH
    | none => false
  laneTrigger (f flush) i s

/-! ### x0 (R282, R283) -/

/-- A function of x := F32(T), rounded once with RNE. -/
def xFn (f : Fp → Fp) (i : LaneIn) : LaneOut := outW i (rn32 (f (f32 (lo32 i.t))))

def x0Rcp (i : LaneIn) : LaneOut := xFn fnRcp i
def x0Rsqrt (i : LaneIn) : LaneOut := xFn fnRsqrt i
def x0Sqrt (i : LaneIn) : LaneOut := xFn fnSqrt i
def x0Exp2 (i : LaneIn) : LaneOut := xFn fnExp2 i
def x0Log2 (i : LaneIn) : LaneOut := xFn fnLog2 i
def x0Sinpi (i : LaneIn) : LaneOut := xFn fnSinpi i
def x0Cospi (i : LaneIn) : LaneOut := xFn fnCospi i
def x0Tanh (i : LaneIn) : LaneOut := xFn fnTanh i
def x0Sigm (i : LaneIn) : LaneOut := xFn fnSigm i
def x0Gelu (i : LaneIn) : LaneOut := xFn fnGelu i
def x0Fdiv (i : LaneIn) : LaneOut := outW i (rn32 (fnDiv (f32 (lo32 i.a)) (f32 (lo32 i.t))))

/-- cos and −sin of a twiddle (R264). -/
def x0Twid (i : LaneIn) : LaneOut :=
  let (c, s) := twiddle (lo32 i.a).toNat (lo32 i.t).toNat
  { r := zx c, rb := some (zx s), st := i.st }

/-- The next word of the lane's generator (R258). -/
def x0Rnd (i : LaneIn) : LaneOut :=
  let (w, st) := nextRandom i.st
  { r := zx w, rb := none, st := st }

/-- Seed (R258): j is the lane's index within its workgroup. -/
def seedState (t : W64) (j : Nat) : W64 := t + w64 ((j + 1) * 0x9E3779B97F4A7C15)

/-- x0.seed: the generator, and no result port. -/
def x0Seed (i : LaneIn) (j : Nat) : W64 := seedState i.t j

/-! ### c0 (R284 to R286) -/

/-- A condition as 1 or 0. -/
def outC (i : LaneIn) (b : Bool) : LaneOut := outR i (if b then 1 else 0)

def c0Eq (i : LaneIn) : LaneOut := outC i (cmpEq (lo32 i.a) (lo32 i.t))
def c0Ne (i : LaneIn) : LaneOut := outC i (!cmpEq (lo32 i.a) (lo32 i.t))
def c0Lt (i : LaneIn) : LaneOut := outC i (cmpLt (lo32 i.a) (lo32 i.t))
def c0Le (i : LaneIn) : LaneOut := outC i (cmpLe (lo32 i.a) (lo32 i.t))
def c0Ltn (i : LaneIn) : LaneOut := outC i (cmpLtn (lo32 i.a) (lo32 i.t))
def c0Len (i : LaneIn) : LaneOut := outC i (cmpLen (lo32 i.a) (lo32 i.t))
def c0Feq (i : LaneIn) : LaneOut := outC i (fEq (lo32 i.a) (lo32 i.t))
def c0Fne (i : LaneIn) : LaneOut := outC i (fNe (lo32 i.a) (lo32 i.t))
def c0Flt (i : LaneIn) : LaneOut := outC i (fLt (lo32 i.a) (lo32 i.t))
def c0Fle (i : LaneIn) : LaneOut := outC i (fLe (lo32 i.a) (lo32 i.t))
def c0Fun (i : LaneIn) : LaneOut := outC i (fUnordered (lo32 i.a) (lo32 i.t))
def c0Fcls (i : LaneIn) : LaneOut := outC i (i.t.getLsbD (fpClass (lo32 i.a)))
def c0Btst (i : LaneIn) : LaneOut := outC i ((lo32 i.a).getLsbD ((lo32 i.t).toNat % 32))
def c0Eq64 (i : LaneIn) : LaneOut := outC i (i.a == i.t)
def c0Lt64 (i : LaneIn) : LaneOut := outC i (i.a.slt i.t)
def c0Ltn64 (i : LaneIn) : LaneOut := outC i (i.a.ult i.t)

/-! ### bf (R291 to R295) -/

/-- Real and imaginary parts of a 64-bit value. -/
def reOf (z : W64) : Fp := f32 (lo32 z)
def imOf (z : W64) : Fp := f32 (hi32 z)

/-- A complex value from its components. -/
def cplx (re im : W32) : W64 := pair re im

/-- cmul of R292. -/
def cMul (a t : W64) : W64 :=
  let p := rn32 ((imOf a).mul (imOf t))
  let q := rn32 ((imOf a).mul (reOf t))
  cplx (fmaN (reOf a) (reOf t) (f32 p).neg) (fmaN (reOf a) (imOf t) (f32 q))

/-- cmulc of R292. -/
def cMulc (a t : W64) : W64 :=
  let p := rn32 ((imOf a).mul (imOf t))
  let q := rn32 ((imOf a).mul (reOf t))
  cplx (fmaN (reOf a) (reOf t) (f32 p)) (fmaN (reOf a).neg (imOf t) (f32 q))

/-- Sum and difference, each component rounded. -/
def cAdd (x y : W64) : W64 := cplx (rn32 ((reOf x).add .rne (reOf y))) (rn32 ((imOf x).add .rne (imOf y)))
def cSub (x y : W64) : W64 := cplx (rn32 ((reOf x).add .rne (reOf y).neg)) (rn32 ((imOf x).add .rne (imOf y).neg))

def bfCmul (i : LaneIn) : LaneOut := outR i (cMul i.a i.t)
def bfCmulc (i : LaneIn) : LaneOut := outR i (cMulc i.a i.t)

/-- dit2 (R293). -/
def bfDit2 (i : LaneIn) : LaneOut :=
  let (a, b, w) := (i.a, i.b, i.t)
  let r := cplx (fmaN (reOf w) (reOf b) (f32 (fmaN (imOf w).neg (imOf b) (reOf a))))
    (fmaN (reOf w) (imOf b) (f32 (fmaN (imOf w) (reOf b) (imOf a))))
  let rb := cplx (fmaN (reOf w).neg (reOf b) (f32 (fmaN (imOf w) (imOf b) (reOf a))))
    (fmaN (reOf w).neg (imOf b) (f32 (fmaN (imOf w).neg (reOf b) (imOf a))))
  { r := r, rb := some rb, st := i.st }

/-- dif2 (R294). -/
def bfDif2 (i : LaneIn) : LaneOut := { r := cAdd i.a i.b, rb := some (cMul (cSub i.a i.b) i.t), st := i.st }

/-- fft4e (R295): y0 and y2. -/
def bfFft4e (i : LaneIn) : LaneOut :=
  let e := cAdd i.a i.c
  let g := cAdd i.b i.t
  { r := cAdd e g, rb := some (cSub e g), st := i.st }

/-- fft4o (R295): y1 and y3. -/
def bfFft4o (i : LaneIn) : LaneOut :=
  let f := cSub i.a i.c
  let h := cSub i.b i.t
  let y1 := cplx (rn32 ((reOf f).add .rne (imOf h))) (rn32 ((imOf f).add .rne (reOf h).neg))
  let y3 := cplx (rn32 ((reOf f).add .rne (imOf h).neg)) (rn32 ((imOf f).add .rne (reOf h)))
  { r := y1, rb := some y3, st := i.st }

end Sys2Proof.Machine
end

