-- ==== Sys2Proof/Machine/Scope.lean ====
section
/-!
DEFINITION. Scope: scopes, the bytes and kinds of pieces, the synchronisation events of a group, and releases still to come. Memory has
one value for every byte, so an access that is performed is performed for every agent; only a release of a scope that does not reach
every group of the device may be performed ahead of the stores it releases, and then the agents of its scope wait for them (R85, R88,
R107, log 11).
-/

namespace Sys2Proof.Machine

/-! ### Scopes (R85) -/

/-- Does the instance of a scope, as group a uses it, hold group b? The codes are g, w, c, d, s (R298). -/
def State.inScope (s : State) (a : GRef) (scope : Nat) (b : GRef) : Bool :=
  match scope with
  | 0 => a == b
  | 1 => a.wg == b.wg
  | 2 => match s.wg? a.wg, s.wg? b.wg with
    | some v, some w => v.core.die == w.core.die
    | _, _ => false
  | _ => true

/-! ### Pieces -/

/-- Kind of a piece: scratchpad accesses are of kind R (R84). -/
def Piece.kind (p : Piece) : OrdKind :=
  match p.target with
  | .phys _ k _ _ => k
  | .scratch _ _ => .r

/-- Do two pieces touch a common byte? -/
def Piece.overlaps (p q : Piece) : Bool :=
  match p.target, q.target with
  | .phys a _ _ _, .phys b _ _ _ => a < b + q.len && b < a + p.len
  | .scratch v a, .scratch w b => v == w && a < b + q.len && b < a + p.len
  | _, _ => false

/-- Does the first piece hold every byte of the second? -/
def Piece.holds (p q : Piece) : Bool :=
  match p.target, q.target with
  | .phys a _ _ _, .phys b _ _ _ => a ≤ b && b + q.len ≤ a + p.len
  | .scratch v a, .scratch w b => v == w && a ≤ b && b + q.len ≤ a + p.len
  | _, _ => false

/-- A piece of so many bytes at a physical address. -/
def pieceAtPa (pa len : Nat) : Piece := Piece.new (.phys pa .r false true) 0 len

/-- Is it a load? -/
def MemEntry.isLoad (e : MemEntry) : Bool :=
  match e.op with
  | .load _ => true
  | .store | .fence _ _ | .pgstate | .atomic _ => false

/-! ### Synchronisation events of a group (R87, R101, R104 to R107) -/

/-- Place in group order of the synchronisation event a wait stands for, and whether its end is an acquire. -/
def Wait.event : Wait → Option (Nat × Bool)
  | .queueOp id => some (id, false)
  | .barArrive _ _ stay n => some (n, stay)
  | .barPhase _ _ _ n => some (n, true)
  | .batch _ n => some (n, true)
  | .wake _ _ _ _ _ n => some (n, true)
  | .mxWait _ _ n => some (n, true)
  | .mxBank _ | .mxReset | .xeOpen _ | .icinv _ _ | .yield _ | .redirect | .trapEntry | .translate | .missRoom | .growth | .debug => none

/-- Is an acquire earlier than place id still to come: a pop, a barrier's completion, a batch, wake-word or matrix wait, the read of
a write pointer? Every later event waits for it (R101, R104 to R107). -/
def Group.acquiring (g : Group) (id : Nat) : Bool :=
  (g.waits.any fun w => match w.event with
    | some (n, acq) => acq && n < id
    | none => false) ||
  (g.q0q.any fun o => o.id < id && !o.done && (o.kind == .pop || o.kind == .trypop)) ||
  g.varPend.any fun x => x.id < id && x.ask.isSome

/-- Is any other synchronisation event earlier than place id still to be performed: a push, an arrival? -/
def Group.syncsOut (g : Group) (id : Nat) : Bool :=
  (g.waits.any fun w => match w.event with
    | some (n, _) => n < id
    | none => false) ||
  g.q0q.any fun o => o.id < id && !o.done

/-- Is a fence earlier than place id incomplete? -/
def Group.fencesOut (g : Group) (id : Nat) : Bool :=
  g.ldq.any fun f => f.id < id && match f.op with
    | .fence _ _ => true
    | .load _ | .store | .pgstate | .atomic _ => false

/-! ### Releases still to come (R88, R107) -/

/-- Are writes or synchronisation events of the group before a place still to be performed? Those on U pages count for a fence and
a wake word, not for a Rel (R86, R87). -/
def Group.outstanding (g : Group) (id lane : Nat) (all : Bool) : Bool :=
  ((g.stq ++ g.amq).any fun e => (e.id < id || e.id == id) && e.lanes.any fun o =>
      (e.id < id || o.lane < lane) && !o.done && (all || o.pieces.any fun p => !p.done && p.kind != .u)) ||
    (all && g.syncsOut id)

/-- Does an early store still wait for earlier writes of its group? -/
def State.earlyLive (s : State) (x : EarlyStore) (all : Bool) : Bool :=
  match s.group? x.by_ with
  | some g => g.outstanding x.id x.lane all
  | none => false

/-- Is an early store, of another group, a release that a group is to see only after what it releases: the group lies in its scope, and
earlier writes of the store's group are outstanding (R88)? -/
def State.releaseLive (s : State) (me : GRef) (x : EarlyStore) : Bool :=
  x.by_ != me &&
    ((match x.rel with
      | some k => s.inScope x.by_ k me && s.earlyLive x false
      | none => false) ||
     match x.fence with
      | some k => s.inScope x.by_ k me && s.earlyLive x true
      | none => false)

/-- Has an acquire at a scope to wait before it reads a piece: the read would return a release that is not made yet, of a group in the
scope (R88)? -/
def State.releaseHeld (s : State) (me : GRef) (scope : Nat) (p : Piece) : Bool :=
  s.early.any fun x => x.p.overlaps p && s.inScope me scope x.by_ && s.releaseLive me x

/-- Has an acquiring fence at a scope to wait: an earlier read may have returned a release that is not made yet, of a group in the scope
(R88, R305)? -/
def State.acqHeld (s : State) (me : GRef) (scope : Nat) : Bool :=
  s.early.any fun x => s.inScope me scope x.by_ && s.releaseLive me x

/-- Are bytes at a physical address not released yet for a wake word and for a launch's start, to which every write is a release
(R107, R110)? -/
def State.unreleased (s : State) (pa len : Nat) : Bool :=
  s.early.any fun x => x.p.overlaps (pieceAtPa pa len) && s.earlyLive x true

/-- A write of a piece is being performed: it replaces what was stored early in its bytes, except an atomic, which carries a release
on (R88); and it is noted when earlier writes of its group are outstanding. -/
def State.noteEarly (s : State) (r : GRef) (e : MemEntry) (o : LaneOp) (p : Piece) : State :=
  let keep := s.early.filter fun x => s.earlyLive x true && (!(p.holds x.p) || e.op != .store)
  let fence := (s.group? r).bind fun g => (g.ldq.filterMap fun f => match f.op with
    | .fence .rel k => if f.id < e.id then some k else none
    | .fence _ _ | .load _ | .store | .pgstate | .atomic _ => none).max?
  let x : EarlyStore := { by_ := r, id := e.id, lane := o.lane, p := p, rel := if o.mark && p.kind != .u then some o.scope else none, fence := fence }
  { s with early := if s.earlyLive x true then keep ++ [x] else keep }

/-! ### Groups that go (R134, R193, R305) -/

/-- The unperformed stores of a group that a release stands before which has been performed for its scope: they have been performed for
that scope too, and a group that goes leaves them performed. -/
def Group.storesBehind (g : Group) (x : EarlyStore) : List (LaneOp × Piece) :=
  g.stq.flatMap fun e => e.lanes.flatMap fun o =>
    if e.id < x.id || (e.id == x.id && o.lane < x.lane) then (o.pieces.filter fun p => !p.done && !p.sent).map (o, ·) else []

/-- A workgroup goes: the stores behind its early releases are performed, those of an attempt to its T pages left out. -/
def State.flushEarly (s : State) (w : Workgroup) (txn : Bool) : State :=
  let todo := w.groups.flatMap fun g => (s.early.filter fun x =>
    x.by_ == ⟨w.wid, g.gi⟩ && (x.rel.isSome || x.fence.isSome) && s.earlyLive x true).flatMap g.storesBehind
  todo.foldl (fun s (o, p) => match p.target with
    | .phys pa _ t _ =>
      if (t && txn) || s.counters.any (fun c => c.word < pa + p.len && pa < c.word + 8) then s
      else s.deviceWrite w.core w.ctx pa (natBytes p.len (o.t >>> (8 * p.off)).toNat)
    | .scratch _ _ => s) s

end Sys2Proof.Machine
end

