-- ==== Sys2Proof/Machine/Traps.lean ====
section
/-!
DEFINITION. Traps: taking a trap, the handler's frame and record, reports, terminating work, check points and regions
(spec/13), and the group's own view of its area.
-/

namespace Sys2Proof.Machine

/-! ### The trap record (R394) -/

/-- Codes that are not precise carry IMPRECISE = 1. -/
def TrapInfo.impreciseBit (t : TrapInfo) : Bool := 0x20 ≤ t.code

/-- The eight words of a record. -/
def recordWords (t : TrapInfo) (l : Launch) (gi wgNum : Nat) (resume : W32) : List W64 :=
  [w64 (t.code + t.cause * 2 ^ 8 + t.bus * 2 ^ 16 + b2n t.impreciseBit * 2 ^ 19 + b2n t.exited * 2 ^ 20 +
      b2n t.held * 2 ^ 21 + t.lane * 2 ^ 22 + t.pc.toNat * 2 ^ 32),
   t.addr, t.info0, t.info1,
   w64 (l.seq % 2 ^ 32 + l.stream * 2 ^ 32 + gi * 2 ^ 40 + l.ctx * 2 ^ 44 + t.cause2 * 2 ^ 51),
   t.lanes, w64 t.time, w64 (resume.toNat + wgNum % 2 ^ 32 * 2 ^ 32)]

/-- The abort status a trap code selects (R393). -/
def statusOf (code : Nat) : Nat :=
  if code == 0x50 then 0x12
  else if code == 0x52 then 0x13
  else if code == 0x40 || code == 0x41 then 0x14
  else if code == 0x51 then 0x17
  else 0x10

/-! ### Reports (R393) -/

/-- Append a fault report: to the list the driver sees, to the context's ring in memory when it has room there, and with an
interrupt. The ring's producer and consumer count reports of 64 bytes (log 18). -/
def State.report (s : State) (ctx : Nat) (words : List W64) : State :=
  let s := { s with reports := s.reports ++ [{ ctx := ctx, words := words }] }
  let c := s.ctx ctx
  let s :=
    if c.repSize == 0 || c.repSize ≤ (c.repProd + 2 ^ 32 - c.repCons) % 2 ^ 32 then s
    else
      let va := c.repBase.toNat + c.repProd % c.repSize * 64
      match walk s none ctx va with
      | (.leaf level _ e, s) =>
        let l : Leaf := ⟨level, e⟩
        if s.paBad ctx (l.pa va) then s
        else ((s.setAM ioDie ctx va true).deviceWrite ioDie ctx (l.pa va) (words.flatMap fun w => natBytes 8 w.toNat)).modCtx ctx fun c =>
          { c with repProd := (c.repProd + 1) % 2 ^ 32 }
      | (.fault c, s) => s.logFault ctx va c
  s.irq (.faultReport ctx)

/-! ### Encke phases (R328) -/

/-- Break a phase on every core of it. -/
def State.breakPhase (s : State) (pid : Nat) : State :=
  match s.phase? pid with
  | none => s
  | some p =>
    let s := s.modPhase pid fun p => { p with broken := true }
    p.members.foldl (fun s (_, g) => s.modGroup g fun grp => match grp.phase with
      | some (q, _) => if q == pid then { grp with xeBroken := true } else grp
      | none => grp) s

/-- Phases that every core has left are gone. -/
def State.tidyPhases (s : State) : State :=
  { s with phases := drop (fun (p : Phase) => p.members.all fun m => p.closed.any fun x => x.1 == m.1) s.phases }

/-- Take a group out of its phase, breaking it for the others (R328). -/
def State.leavePhaseBroken (s : State) (g : GRef) : State :=
  match (s.group? g).bind (·.phase) with
  | none => s
  | some (pid, n) =>
    let s := s.breakPhase pid
    let core := match s.wg? g.wg with
      | some w => w.core.core
      | none => 0
    let s := s.modGroup g fun grp => { grp with phase := none }
    (s.modPhase pid fun p => { p with closed := p.closed ++ [(core, n)] }).tidyPhases

/-! ### Ending work -/

/-- Zero the mapped pages of a private segment (R28). -/
def State.zeroSegment (s : State) (ctx seg : Nat) : State :=
  let m := (s.ctx ctx).marks seg
  let page (s : State) (va : Nat) : State :=
    match walk s none ctx va with
    | (.leaf level _ e, s) => s.zeroFrame ((⟨level, e⟩ : Leaf).pa va)
    | (.fault _, s) => s
  let s := (List.range m.1).foldl (fun s i => page s (segBase seg + i * 65536)) s
  (List.range m.2).foldl (fun s i => page s (segBase seg + 8388608 + i * 65536)) s

/-- Remove a workgroup at once: its groups leave their phases, queues and misses; its private segments are zeroed; its
core's resources are free; the serials go back to the table (R28, R48, R134, R144). Covered operations already sent go on by themselves,
and the notices that their identities owe (R151, R159). -/
def State.removeWg (s : State) (wid : Nat) : State :=
  match s.wg? wid with
  | none => s
  | some w =>
    let s := s.flushEarly w ((s.launch? w.lid).any fun l => !l.lrec.ntxn)
    let s := w.groups.foldl (fun s g => s.leavePhaseBroken ⟨wid, g.gi⟩) (s.quitCore w.core wid)
    let s := w.groups.foldl (fun s g => s.zeroSegment w.ctx g.seg) s
    let s := if w.retired then s
      else w.groups.foldl (fun s g => s.setSerial w.ctx (identPos g.ident) g.nextSer) s
    let s := if w.retired then s
      else { s with dieTracked := s.dieTracked ++ w.groups.flatMap fun g => g.tracked.map (g.ident, ·) }
    let s := { s with
      wgs := drop (fun (x : Workgroup) => x.wid == wid) s.wgs
      gangs := s.gangs.filter fun x => x.members.any fun m => m != wid && s.wgs.any fun y => y.wid == m }
    { s with wgs := s.wgs.map fun (x : Workgroup) =>
      { x with queues := x.queues.map fun (q : Queue) => { q with waiting := drop (fun y => y.g.wg == wid) q.waiting } } }

/-- End a launch for a cause: an attempt that has not published turns to ABORTING with the first cause's status (R133,
R138); a non-transactional launch ends under R193. Its workgroups are terminated and no more are created. -/
def State.failLaunch (s : State) (lid status : Nat) : State :=
  match s.launch? lid with
  | none => s
  | some l =>
    if l.phase == .aborting || l.phase == .done || l.phase == .committed || (l.phase == .queued && status != 0x11) then s
    else
      let s := s.modLaunch lid fun l => { l with phase := .aborting, status := some status }
      let s := (s.wgs.filter fun (w : Workgroup) => w.lid == lid).foldl (fun s w => s.removeWg w.wid) s
      { s with
        stalls := drop (fun (x : Stall) => x.lid == lid) s.stalls
        overlays := upd (fun (o : Overlay) => o.lid == lid) (fun o => { o with discarded := true }) s.overlays }

/-- Terminate a group's workgroup for a trap, with a report of the trap's own code (R393, R398). -/
def State.terminate (s : State) (g : GRef) (t : TrapInfo) (resume : W32) : State :=
  match s.wg? g.wg, s.launchOf? g with
  | some w, some l =>
    let s := s.report l.ctx (recordWords t l g.gi w.num resume)
    s.failLaunch l.lid (statusOf t.code)
  | _, _ => s

/-- A double fault: code 0x50 with the second error's code as its cause (R399, R392). -/
def State.doubleFault (s : State) (g : GRef) (t : TrapInfo) (resume : W32) : State :=
  s.terminate g { t with code := 0x50, cause := t.code, cause2 := t.cause } resume

/-! ### Loads of the group in group order -/

/-- The bytes a load of the group would return at a physical address with its own unperformed stores seen (R86 item 1,
R395): the memory's bytes, overlaid by the queue's in order. -/
def State.ownLoad (s : State) (g : GRef) (ctx pa n : Nat) : List Byte :=
  let base := s.readPhys none ctx pa n
  match s.group? g with
  | none => base
  | some grp =>
    let pieces := grp.stq.flatMap fun e => e.lanes.flatMap fun o =>
      o.pieces.filterMap fun p =>
        match p.target with
        | .phys a _ _ _ => if p.done then none else some (a, natBytes p.len (o.t.toNat >>> (8 * p.off)))
        | .scratch _ _ => none
    let put (bs : List Byte) (x : Nat × List Byte) : List Byte :=
      (List.range n).map fun i =>
        let a := pa + i
        if x.1 ≤ a && a < x.1 + x.2.length then x.2[a - x.1]?.getD 0 else bs[i]?.getD 0
    pieces.foldl put base

/-! ### Regions and check points (R410 to R412) -/

/-- Fields of the check-interval register (R409). -/
def psn (c : W64) : Bool := c.getLsbD 0
def retriesOf (c : W64) : Nat := fld c 2 2
def regOpen (c : W64) : Bool := c.getLsbD 4
def reentry (c : W64) : Bool := c.getLsbD 5

/-- Close the open region (R412). -/
def Group.closeRegion (g : Group) : Group := { g with check := g.check &&& ~~~0x10 }

/-- Record the region state at a region's entry and open it (R412). -/
def Group.openRegion (g : Group) (pc : W32) : Group :=
  let c := g.check
  let c := if reentry c then c &&& ~~~0x20 else c &&& ~~~0x0C
  { g with
    check := c ||| 0x10
    lanes := g.lanes.map fun l => { l with regionGen := l.gen }
    region := some { pc := pc, k := g.kregs, loop := g.loop, latches := g.latches, mjDepth := g.mj.length,
                     rasDepth := g.rasAll, segCount := g.segCount, segSig := g.segSig } }

/-- Discard return-stack entries above a depth. -/
def Group.cutRas (g : Group) (depth : Nat) : Group :=
  let excess := g.rasAll - depth
  if excess ≤ g.ras.length then { g with ras := g.ras.drop excess }
  else { g with ras := [], spilled := depth }

/-- Restore the region state for a retry (R410, R412). -/
def Group.restoreRegion (g : Group) (r : Region) (tb : W64) : Group :=
  let g := g.cutRas r.rasDepth
  let retry := retriesOf g.check + 1
  ({ g with
    kregs := r.k
    loop := r.loop
    latches := r.latches
    mj := g.mj.drop (g.mj.length - r.mjDepth)
    lanes := g.lanes.map fun l => { l with gen := l.regionGen }
    segCount := r.segCount
    segSig := r.segSig
    pc := tb + zx r.pc
    pad := 0
    target := none
    check := (g.check &&& ~~~0x2F ||| w64 (retry * 4)) ||| 0x20 } : Group).interlock

/-- What a check point comes to: the bundle goes on, or the group is elsewhere. -/
inductive CheckRes where
  | pass
  | gone (s : State)
  deriving DecidableEq, Repr

/-- A check point of a bundle (R410). `sig` is the segchk's A and B when this is a segchk that does not match. -/
def checkPoint (s : State) (g : GRef) (pc : W32) (sig : Option (W64 × W64)) : CheckRes :=
  match s.group? g, s.launchOf? g with
  | some grp, some l =>
    if !psn grp.check && sig.isNone then .pass
    else
      let poison := psn grp.check
      let ab := sig.getD (0, 0)
      let (now, s) := s.sampleTime
      let base : TrapInfo :=
        if poison then { precise 0x40 1 7 with pc := pc, time := now }
        else { precise 0x41 0 7 with pc := pc, info0 := ab.1, info1 := ab.2, time := now }
      if grp.handler then .gone (s.doubleFault g base pc)
      else if regOpen grp.check then
        match grp.region with
        | none => .gone (s.terminate g base pc)
        | some r =>
          let giveUp : TrapInfo := { base with code := 0x52, cause := if poison then 1 else 2, addr := zx r.pc, info0 := 0, info1 := 0 }
          if retriesOf grp.check == 2 || grp.mj.length < r.mjDepth || grp.rasAll < r.rasDepth then
            .gone (s.terminate g giveUp pc)
          else .gone (s.setGroup g (grp.restoreRegion r l.textBase))
      else .gone (s.terminate g base pc)
  | _, _ => .pass

/-! ### Handler entry (R395, R396, R398, R399) -/

/-- A hold latch in the format of R403, as two 64-bit words. -/
def latchWords (l : Option Latch) : List W64 :=
  match l with
  | none => [0, 0]
  | some l => [pair l.word (lo32 l.ext), pair (hi32 l.ext) (w32 (l.guard.toNat + 16))]

/-- A hold latch read back. -/
def latchOf (w0 w1 : W64) : Option Latch :=
  if w1.getLsbD 36 then some { word := lo32 w0, ext := pair (hi32 w0) (lo32 w1), guard := w1.extractLsb' 32 4 } else none

/-- The trap frame from offset 0x80: s0 to s7, k0, RESUME with the remaining pad and the stack depths, the latches. -/
def frameWords (g : Group) (resume : W32) : List W64 :=
  (List.range 8).map g.s ++
    [g.k0, w64 (resume.toNat + g.pad * 2 ^ 32 + g.mj.length * 2 ^ 36 + g.rasAll * 2 ^ 42)] ++
    g.latches.flatMap latchWords

/-- The bytes of a list of 64-bit words. -/
def wordsBytes (ws : List W64) : List Byte := ws.flatMap fun w => natBytes 8 w.toNat

/-- Group-view address of an offset of the group area (R395). -/
def groupVa (off : Nat) : Nat := 0xFE800000000000 + off

/-- The entry itself, once the vector enables it and the area is at hand (R396). -/
def State.enterHandler (s : State) (core : CoreId) (g : GRef) (grp : Group) (l : Launch) (wgNum areaPa : Nat) (vector : W64) (t : TrapInfo)
    (resume : W32) : State :=
  let s := s.deviceWrite core l.ctx (areaPa + 0x80) (wordsBytes (frameWords grp resume))
  let words := recordWords t l g.gi wgNum resume
  let s := s.deviceWrite core l.ctx (areaPa + 0x40) (wordsBytes words)
  let grp := (List.range 8).foldl (fun (x : Group) i => x.setS i (words[i]?.getD 0)) grp
  let grp : Group := { grp.closeRegion.interlock with
    latches := noLatches
    handler := true
    pc := l.textBase + zx (lo32 vector)
    trapPad := if grp.pad == 0 && t.code != 0x0B then none else some (grp.padPc, grp.padLen, grp.target)
    pad := 0
    target := none
    lastRec := some words }
  (s.setGroup g (grp.addWait .trapEntry)).leavePhaseBroken g

/-- A trap reaches a group (R396, R398, R399): the handler is entered, or the workgroup is terminated. When the group area
must be grown or brought in and Phobos has to be waited for, the core stops and none answers: the trap stays to be taken. -/
def State.takeTrap (s : State) (g : GRef) (t : TrapInfo) (resume : W32) : Option State :=
  match s.group? g, s.wg? g.wg, s.launchOf? g, s.who? g with
  | some grp, some w, some l, some who =>
    let (t, s) := if t.code < 0x20 then
        let (now, s) := s.sampleTime
        ({ t with time := now }, s)
      else (t, s)
    if grp.handler then some (s.doubleFault g t resume)
    else
      match s.groupArea who 0 false with
      | (.error c, s) =>
        let gone (s : State) : State := s.doubleFault g { precise 0x07 c 7 with pc := t.pc, addr := w64 (groupVa 0), time := t.time } resume
        if c == fcPoolEmpty || c == fcNotResident then
          match s.expiredFw who none with
          | some c => some ((s.clearFw who none).doubleFault g { precise 0x07 c 7 with pc := t.pc, addr := w64 (groupVa 0), time := t.time } resume)
          | none => none
        else some (gone s)
      | (.ok pa, s) =>
        let vector := w64 (bytesNat (s.ownLoad g l.ctx pa 8))
        if vector.getLsbD 32 then
          some ((s.setAM w.core w.ctx (segBase grp.seg) true).enterHandler w.core g grp l w.num pa vector t resume)
        else some (s.terminate g t resume)
  | _, _, _, _ => some s

/-- The core of a group stops until Phobos has served the group's area (R45). -/
def State.stopForArea (s : State) (g : GRef) : State :=
  match s.who? g with
  | some who =>
    match s.groupArea who 0 false with
    | (.error c, _) => s.stopCore who c (groupVa 0) 0 none
    | (.ok _, _) => s
  | none => s

/-- A trap that stays to be taken stops its core until Phobos has served the group area (R45). -/
def State.takeTrapOrStop (s : State) (g : GRef) (t : TrapInfo) (resume : W32) : State :=
  (s.takeTrap g t resume).getD (s.stopForArea g)

/-- A precise trap of a bundle: the bundle is a check point, and then the trap is taken at it (R391, R410). -/
def State.raise (s : State) (g : GRef) (t : TrapInfo) (pc : W32) : State :=
  match checkPoint s g pc none with
  | .gone s => s
  | .pass => s.takeTrapOrStop g { t with pc := pc } pc

end Sys2Proof.Machine
end

