-- ==== Sys2Proof/Machine/Charon.lean ====
section
/-!
DEFINITION. Charon: migration, promotion, the end of an epoch, attributes learnt from walks, and the word of a placement query
(R70 to R79, R131).
-/

namespace Sys2Proof.Machine

/-! ### What holds a part where it is (R71, R131, R161) -/

/-- Has the part an overlay entry or a ghost mask? -/
def State.overlaid (s : State) (part : Nat) : Bool := s.overlays.any fun o => o.part == part && !o.discarded

/-- Has the part an entry that is committed and not folded, or one of an attempt that has passed its conflict check (R128, R131)? -/
def State.committedHere (s : State) (part : Nat) : Bool :=
  s.overlays.any fun o => o.part == part && o.frame.isSome && (s.committed o || (o.pending && !o.discarded))

/-- Does the part hold a live counter? -/
def State.counterHere (s : State) (part : Nat) : Bool := s.counters.any fun c => partOf c.word == part

/-- May the part be an exchange partner? -/
def State.eligible (s : State) (target part : Nat) : Bool :=
  let p := s.part part
  s.homeDie part == target && p.st == .single && !s.mergedPart part && !s.overlaid part && !s.counterHere part &&
    (s.governing part).1 == .auto && part < Config.reserveBase / 65536

/-! ### Migration (R71, R77) -/

/-- The lowest part with no record that is an eligible partner on a die. A merged unit is passed as a whole. -/
def lowestUnlisted (s : State) (target : Nat) (taken : List Nat) : (fuel part : Nat) → Option Nat
  | 0, _ => none
  | fuel + 1, part =>
    if Config.reserveBase / 65536 ≤ part then none
    else if s.mergedPart part then lowestUnlisted s target taken fuel ((unitOfPart part + 1) * 32 + target)
    else if !(s.parts.any fun p => p.num == part) && !taken.contains part && s.eligible target part then some part
    else lowestUnlisted s target taken fuel (part + 4)

/-- Steps that suffice to pass every part that something holds: a record, an entry, a counter, or a leaf. -/
def State.partnerFuel (s : State) (taken : List Nat) : Nat :=
  s.leafWalks.foldl (fun n w => n + w.count / 4 + 2) (s.parts.length + s.overlays.length + s.counters.length + taken.length + 1)

/-- The partner for a part: the eligible one with the lowest count, the lowest address among equals. -/
def State.partner (s : State) (target : Nat) (taken : List Nat) : Option Nat :=
  let listed := s.parts.filter fun p => !taken.contains p.num && s.eligible target p.num
  let best := minBy (·.total) (sortBy (·.num) listed)
  let fresh := lowestUnlisted s target taken (s.partnerFuel taken) target
  match best, fresh with
  | some p, some n => if p.total == 0 && p.num < n then some p.num else some n
  | some p, none => some p.num
  | none, n => n

/-- Partners for the parts that are not on the target die, or none when there are too few. A part of a merged unit that stands on the
target die already needs none (log 71). -/
def planMoves (s : State) (target : Nat) : List Nat → (taken : List Nat) → Option (List (Nat × Nat))
  | [], _ => some []
  | p :: ps, taken =>
    if s.homeDie p == target then planMoves s target ps taken
    else
      match s.partner target taken with
      | none => none
      | some q => (planMoves s target ps (q :: taken)).map ((p, q) :: ·)

/-- Start the exchanges of a unit or part with partners on the target die; none when it cannot move. -/
def State.migrate (s : State) (ps : List Nat) (target : Nat) : Option State :=
  if ps.any fun p => s.overlaid p || s.counterHere p then none
  else
    match planMoves s target ps ps with
    | none => none
    | some [] => none
    | some moves =>
      some (moves.foldl (fun s (p, q) =>
        (s.modPart p fun x => { x with st := .migrating, partner := some q }).modPart q fun x =>
          { x with st := .migrating, partner := some p }) s)

/-! ### Promotion (R70, R72) -/

/-- Reads of a die in the epoch just ended, summed over parts (R70, R72). -/
def State.readsOf (s : State) (ps : List Nat) (die : Nat) : Nat := ps.foldl (fun n p => n + ((s.part p).lastReads[die]?.getD 0)) 0

/-- A frame for a new copy of a part on a die: a free one, or that of the least read copy there, when that was read less than the
new one (R72). Parts of one merged unit count together, and the parts that the copy is made for give up nothing. -/
def State.copyFrame (s : State) (die count : Nat) (news : List Nat) : Option Nat × State :=
  match s.takeReserve die with
  | (some f, s) => (some f, s)
  | (none, s) =>
    let held := s.parts.filter fun p => p.st == .readDup && !news.contains p.num && (p.copies ++ p.filling).any (·.1 == die)
    let reads (p : Part) : Nat := s.readsOf (s.fellows p.num) die
    match minBy reads (sortBy (·.num) held) with
    | some v => if reads v < count then (s.collapseNow v.num).takeReserve die else (none, s)
    | none => (none, s)

/-- Copies of parts on one die, to be filled later; none when a frame is missing: parts that share their copies have all of
them or none (R70, R72). -/
def State.copiesOn (s : State) (die count : Nat) (news : List Nat) : List Nat → Option State
  | [] => some s
  | n :: ns =>
    let p := s.part n
    if die == s.homeDie n || (p.copies ++ p.filling).any (·.1 == die) then State.copiesOn s die count news ns
    else
      match s.copyFrame die count news with
      | (some f, s) =>
        State.copiesOn (s.modPart n fun p => { p with st := .readDup, filling := p.filling ++ [(die, f)] }) die count news ns
      | (none, _) => none

/-- A die gives up the copies it has of parts: its lines go, the frames are free (log 62). -/
def State.leaveCopies (s : State) (die : Nat) (ps : List Nat) : State :=
  ps.foldl (fun (s : State) n =>
    let p := s.part n
    let gone := (p.copies ++ p.filling).filter (·.1 == die)
    if gone.isEmpty then s
    else
      let s := gone.foldl (fun s x => s.giveReserve x.2) (s.dropLines (· == die) (lineInPart n))
      let left := drop (fun (x : Nat × Nat) => x.1 == die) (p.copies ++ p.filling)
      s.modPart n fun p => { p with
        copies := drop (fun (x : Nat × Nat) => x.1 == die) p.copies
        filling := drop (fun (x : Nat × Nat) => x.1 == die) p.filling
        st := if left.isEmpty then .single else p.st }) s

/-- Parts that share their copies get one on each of some dies (R70). -/
def State.promote (s : State) (ps dies : List Nat) : State :=
  dies.foldl (fun (s : State) d =>
    match s.copiesOn d (s.readsOf ps d) ps ps with
    | some s => s
    | none => s.leaveCopies d ps) s

/-! ### The end of an epoch (R70, R77) -/

/-- Is the governing pin of a part not honoured yet (R77)? -/
def State.pinFail (s : State) (part : Nat) : Bool :=
  let (pm, pd) := s.governing part
  pm == .pinned && s.homeDie part != pd

/-- The die that qualifies for migration: reads + writes of at least 64 and four times the home's, the highest, the lowest
number among equals. -/
def State.moveTarget (s : State) (ps : List Nat) : Option Nat :=
  let sum (d : Nat) : Nat := ps.foldl (fun n p => n + (s.part p).count d) 0
  let h := s.homeDie (ps.headD 0)
  let ok := (List.range 4).filter fun d => d != h && 64 ≤ sum d && 4 * sum h ≤ sum d
  minBy (fun d => 2 ^ 40 - sum d) ok

/-- The die that the parts' pins send them to: that of the first part whose pin is not honoured. None when every pin is honoured, or
when one that is holds the parts on another die (R77, log 71). -/
def State.pinTarget (s : State) (ps : List Nat) : Option Nat :=
  match ps.find? s.pinFail with
  | none => none
  | some p =>
    let pd := (s.governing p).2
    if ps.any fun q => (s.governing q).1 == .pinned && !s.pinFail q && (s.governing q).2 != pd then none else some pd

/-- The one rule that acts on a unit, or on a part on its own, at the end of an epoch. Where a pinned migration cannot start nothing
else is judged; where an automatic one cannot, promotion is (log 71). -/
def State.epochRule (s : State) (ps : List Nat) : State :=
  let busy := ps.any fun p => (s.part p).st == .migrating || (s.part p).st == .collapsing
  let single := ps.all fun p => (s.part p).st == .single
  let dup := ps.any fun p => (s.part p).st == .readDup
  let off := s.pinTarget ps
  let promote (s : State) : State :=
    let dies := (List.range 4).filter fun d => 32 ≤ s.readsOf ps d
    if single && ps.all s.rdAllowed && 2 ≤ dies.length &&
        !(ps.any fun p => (s.part p).wrote || s.committedHere p || s.counterHere p) then
      s.promote ps dies
    else s
  if busy then s
  else if ps.any fun p => (s.part p).st == .readDup && !s.rdAllowed p then s.withdraw (ps.filter fun p => !s.rdAllowed p)
  else
    match off with
    | some pd => if dup then ps.foldl (fun s p => s.startCollapse p) s else (s.migrate ps pd).getD s
    | none =>
      if single && ps.all fun p => (s.governing p).1 == .auto then
        match s.moveTarget ps with
        | some d => (s.migrate ps d).getD (promote s)
        | none => promote s
      else promote s

/-- What is judged at the end of an epoch: merged units as a whole, other parts on their own, ascending. -/
def State.epochGroups (s : State) : List (List Nat) :=
  let pins := (s.leafWalks.filter (·.pm == .pinned)).flatMap fun w => (List.range w.count).map (w.base + ·)
  let nums := sortBy id (dedup (s.parts.map (·.num) ++ pins))
  let keys := dedup (nums.map fun n => if s.mergedPart n then n / 32 * 32 else n)
  keys.map fun k => if s.mergedPart k then (List.range 32).map (k + ·) else [k]

/-- The end of an epoch: every unit's rule, and the counters are cleared. -/
def State.endEpoch (s : State) : State :=
  let s := { s with parts := s.parts.map fun (p : Part) => { p with lastReads := p.reads } }
  let s := s.epochGroups.foldl (fun s ps => s.epochRule ps) s
  { s with
    epoch := s.epoch + 1
    parts := s.parts.map fun p =>
      { p with reads := [0, 0, 0, 0], writes := [0, 0, 0, 0], extReads := 0, extWrites := 0, wrote := false } }

/-! ### What walks tell Charon (R76) -/

/-- Parts that a leaf of a level maps. -/
def partsOfLevel (level : Nat) : Nat := 2 ^ (levelShift level - 16)

/-- Placement of a leaf (R32). -/
def Leaf.pm (l : Leaf) : Placement :=
  match fld l.e 9 2 with
  | 0 => .auto
  | 1 => .pinned
  | _ => .interleaved

/-- A walk that installs a leaf of local memory reports PM, PD and RD. Read duplication that is withdrawn collapses the
parts (R70). A unit that becomes a large page while its parts are not in their first state is split. -/
def State.learnLeaf (s : State) (ctx : Nat) (l : Leaf) : State :=
  let pa := fld l.e 16 36 * 65536
  if paClass pa != 0 then s
  else
    let w : LeafWalk :=
      { ctx := ctx, base := pa / 65536, count := partsOfLevel l.level, epoch := s.epoch, order := s.walkCount + 1, pm := l.pm,
        pd := fld l.e 11 2, rd := l.e.getLsbD 4 }
    let inRange (p : Part) : Bool := w.base ≤ p.num && p.num < w.base + w.count
    let same (x : LeafWalk) : Bool :=
      x.ctx == w.ctx && x.base == w.base && x.count == w.count && x.pm == w.pm && x.pd == w.pd && x.rd == w.rd
    let odd := if w.count < 32 then []
      else dedup ((s.parts.filter fun p => inRange p && !s.largeUnit (unitOfPart p.num) &&
        (p.st != .single || p.home != p.num % 4)).map fun p => unitOfPart p.num)
    let s := { s with leafWalks := drop same s.leafWalks ++ [w], walkCount := s.walkCount + 1 }
    let s := odd.foldl (fun s u => s.modUnit u fun x => { x with split := true }) s
    if w.rd then s
    else
      s.withdraw ((s.parts.filter inRange).map (·.num))

/-! ### Freed frames (R70, R79) -/

/-- Free a range of parts: lines dropped everywhere, copies given back, records reset, the frames zeroed. -/
def State.freeParts (s : State) (first count : Nat) : State :=
  let hit (n : Nat) : Bool := first ≤ n && n < first + count
  let s := (s.noteCode fun line => hit (line / 512)).dropLines (fun _ => true) fun line => hit (line / 512)
  -- an exchange that a freed part takes part in is off
  let s := { s with parts := s.parts.map fun (p : Part) =>
    match p.partner with
    | some q => if hit q && !hit p.num then { p with st := .single, partner := none } else p
    | none => p }
  let s := (s.parts.filter fun p => hit p.num).foldl (fun s p =>
    (p.copies ++ p.filling).foldl (fun s (_, f) => s.giveReserve f) s) s
  let us := dedup (s.leafWalks.flatMap fun w =>
    if w.count < 32 then [] else ((List.range (w.count / 32)).map (w.base / 32 + ·)).filter fun u =>
      u * 32 < first + count && first < u * 32 + 32)
  let s := us.foldl (fun s u =>
    let whole := first ≤ u * 32 && u * 32 + 32 ≤ first + count
    s.modUnit u fun x => { x with split := !whole }) s
  let s := { s with
    regions := drop (fun (r : RegionEntry) => hit (r.base / 65536)) s.regions
    parts := drop (fun (p : Part) => hit p.num) s.parts
    frees := drop (fun (x : Nat × Nat × Nat) => first ≤ x.1 && x.1 + x.2.1 ≤ first + count) s.frees ++
      [(first, count, s.walkCount + 1)] }
  s.zeroPhys (first * 65536) (count * 65536)

/-! ### ld.pgstate (R78) -/

/-- Charon's record of the part of an address, as a die sees it, with the leaf's level. -/
def State.pgstateWord (s : State) (pa die level : Nat) : W64 :=
  if paClass pa != 0 then 3
  else
    let n := partOf pa
    let p := s.part n
    let st := match p.st with
      | .single => 0
      | .readDup => 1
      | .migrating => 2
      | .collapsing => 2
    let home := s.homeDie n
    let copies := (List.range 4).foldl (fun m d => if d == home || p.usable d then m + 2 ^ d else m) 0
    let pm := match (s.governing n).1 with
      | .auto => 0
      | .pinned => 1
      | .interleaved => 2
    w64 (st + home * 4 + copies * 16 + b2n (s.largeUnit (unitOfPart n) && (s.unit (unitOfPart n)).split) * 256 + pm * 512 +
      b2n (s.rdAllowed n) * 2048 + level * 4096 + b2n (s.pinFail n) * 16384 + min 0xFFFF (p.count die) * 65536)

end Sys2Proof.Machine
end

