-- ==== Sys2Proof/Machine/Issue.lean ====
section
/-!
DEFINITION. Issue: which group issues next (R192, R194), fetching a bundle (R18, R58, R211), and executing it (R221), with
holds and pad (R218, R219), the loop end check (R341), the segment (R352) and the region (R353, R410 to R412). What a
trigger does is looked up in a table that is given (Machine/Table.lean).
-/

namespace Sys2Proof.Machine

/-! ### Candidates (R192, R194, R325) -/

/-- May the group issue as far as its phase goes? Its next phase cycle is not ahead of any other participant's, no other group of a slot
with a participant issues (R325), and after 65,536 cycles the phase breaks before anything else happens in it (R328). -/
def State.phaseOk (s : State) (w : Workgroup) (g : Group) : Bool :=
  match g.phase with
  | some (pid, n) =>
    match s.phase? pid with
    | none => true
    | some p => (p.broken || n < 65536) && p.members.all fun (c, r) =>
        (p.closed.any fun x => x.1 == c) ||
          match s.group? r with
          | some o => match o.phase with
            | some (q, m) => q != pid || (n ≤ m && (o.gi == g.gi && r.wg == w.wid || (o.waits.isEmpty && !s.coreStopped ⟨p.die, c⟩)))
            | none => true
          | none => true
  | none =>
    !(s.wgs.any fun (x : Workgroup) => x.core == w.core && !x.out && x.groups.any fun y =>
        y.slot == g.slot && y.phase.isSome && !(x.wid == w.wid && y.gi == g.gi))

/-- Does a slot stand still because a group of it has a miss that its core has no room for (R40)? -/
def State.slotStalled (s : State) (c : CoreId) (slot : Nat) : Bool :=
  s.wgs.any fun w => w.core == c && !w.out && w.groups.any fun g => g.slot == slot && g.waits.contains .missRoom

/-- Is the group a candidate, apart from what its next bundle waits for? -/
def State.candidate (s : State) (w : Workgroup) (g : Group) : Bool :=
  !w.out && !w.retired && !g.ended && !g.stopped && g.waits.isEmpty && g.pend.isEmpty && (g.handler || g.held.isEmpty) &&
    (match s.launch? w.lid with
     | some l => l.phase == .running
     | none => false) &&
    !s.coreStopped w.core && !(s.core w.core).slotsFrozen.contains g.slot && !s.slotStalled w.core g.slot && s.phaseOk w g

/-- The candidates in the order a slot considers them: promoted ones first, the one that has waited longest before the others and
then by group entry; then the rest by creation of the workgroup and index of the group (R192). Slots issue side by side in the
hardware; here one after the other (log 5). -/
def State.candidates (s : State) : List (Workgroup × Group) :=
  let all := s.allGroups.filter fun (w, g) => s.candidate w g
  let promoted := all.filter fun (_, g) => g.promoted
  let others := all.filter fun (_, g) => !g.promoted
  let longest := promoted.foldl (fun n x => max n x.2.waited) 0
  sortBy (fun (x : Workgroup × Group) => (longest - x.2.waited) * 16 + x.2.entry) promoted ++
    sortBy (fun (x : Workgroup × Group) => x.1.created * 1048576 + x.1.num % 65536 * 16 + x.2.gi) others

/-! ### Fetch (R18, R58, R211) -/

/-- The code-cache set of an address (R58). -/
def codeSet (line : Nat) : Nat := line % 128

/-- Put a line into the code cache; the oldest of its 8 ways leaves a full set (R58, log 12). -/
def Core.fillCode (c : Core) (ctx line : Nat) (bytes : List Byte) : Core :=
  let set := c.code.filter fun x => codeSet x.line == codeSet line
  let code := match set with
    | v :: _ => if set.length < 8 then c.code else drop (fun (x : CodeLine) => x.line == v.line) c.code
    | [] => c.code
  { c with code := code ++ [{ line := line, ctx := ctx, bytes := bytes, past := [] }] }

/-- A fill of the code cache through the L2 of the core's die, from the home slice itself with C = 0 (R58, R62); it is counted
where it arrives (R69). The second answer is false while a commit under way holds the line (R128). -/
def State.fillRead (s : State) (core : CoreId) (ctx pa : Nat) (c : Bool) : State × Bool :=
  if paClass pa == 2 then (s, true)
  else if paClass pa == 0 && s.readHeld none pa then (s, false)
  else
    let q := s.cacheReq core ctx none pa 0 false
    let (arrived, s) : Bool × State :=
      if paClass pa == 0 && s.linePending pa then (true, s)
      else if c then s.l2Read q
      else if q.host then (false, s)
      else match s.homeAccess q false false with
        | .done a s => (a, s)
        | .wait s => (false, s)
    (if arrived && paClass pa == 0 then s.countAccess (partOf pa) core.die false else s, true)

/-- The bytes of a code line as a fetch returns them: as it was filled, or as memory has held it at any moment since, freely
(R58, log 55); a line that is not cached is filled. None while the fill waits. -/
def State.fetchLine (s : State) (core : CoreId) (ctx line : Nat) (c : Bool) : Option (List Byte) × State :=
  let now := s.readPhys none ctx (line * 128) 128
  match (s.core core).code.find? fun (x : CodeLine) => x.line == line with
  | some x =>
    let moments := dedup (x.bytes :: x.past ++ [now])
    if moments.length ≤ 1 then (some now, s)
    else
      let (n, s) := s.pick
      (some (moments[n % moments.length]?.getD now), s)
  | none =>
    match s.fillRead core ctx (line * 128) c with
    | (s, true) => (some now, s.modCore core fun k => k.fillCode ctx line now)
    | (s, false) => (none, s)

/-- A line that the present fetch has got: every word of it comes from the same moment (R58). -/
abbrev GotLine : Type := Option (Nat × List Byte)

/-- The result of fetching words: the words, and the line the last one lay in. -/
inductive FetchRes where
  | ok (words : List W32) (got : GotLine) (s : State)
  | fault (cause va : Nat)
  | wait (s : State)
  deriving DecidableEq, Repr

/-- A walk is asked for and the group waits for it; a miss the core has no room for stalls its slot (R40, R194). -/
def State.waitMiss (s : State) (w : Who) (page : Nat) : State :=
  let s := s.addMiss w page
  let wait : Wait := if (s.core w.core).asked w page then .translate else .missRoom
  s.modGroup w.g fun g => if g.waits.contains wait then g else g.addWait wait

/-- Growth of a private area for an access (R24, R29): done, after which the group waits for its cycles; a POOL-EMPTY or
NOT-RESIDENT stops the core (R45), and is the access's fault once Phobos has given up; any other failure is kept for the
access. -/
def State.growFor (s : State) (w : Who) (lane va seg : Nat) (laneArea : Bool) (page : Nat) : Except Nat State :=
  match s.grow w.ctx seg laneArea page with
  | .done s => .ok (s.modGroup w.g fun g => g.addWait .growth)
  | .fault c s' =>
    if c == fcPoolEmpty || c == fcNotResident then
      match s.expiredFw w none with
      | some c => .error c
      | none => .ok (s'.stopCore w c va lane none)
    else .ok (s'.failGrowth w (w.linear lane va) c)

/-- The line of an address for the present fetch: the one it has, or a new one. -/
def State.lineFor (s : State) (w : Who) (got : GotLine) (pa : Nat) (c : Bool) : Option (List Byte) × State :=
  match got with
  | some (line, bytes) => if line == pa / 128 then (some bytes, s) else s.fetchLine w.core w.ctx (pa / 128) c
  | none => s.fetchLine w.core w.ctx (pa / 128) c

/-- Fetch words one after the other (R18). -/
def fetchWords (w : Who) (va : Nat) : (n : Nat) → GotLine → State → FetchRes
  | 0, got, s => .ok [] got s
  | n + 1, got, s =>
    match s.translate w 0 va 4 .fetch with
    | .ok (.phys pa _ _ c) e =>
      match (s.touch w e false).lineFor w got pa c with
      | (none, s) => .wait s
      | (some line, s) =>
        let word : W32 := w32 (bytesNat ((line.drop (pa % 128)).take 4))
        match fetchWords w (va + 4) n (some (pa / 128, line)) s with
        | .ok ws got s => .ok (word :: ws) got s
        | .fault c v => .fault c v
        | .wait s => .wait s
    | .ok (.scratch _ _) _ => .fault fcExecDenied va
    | .fault c =>
      if c == fcNotResident then
        match s.expiredFw w none with
        | some c => .fault c va
        | none => .wait (s.stopCore w c va 0 none)
      else .fault c va
    | .miss page => .wait (s.waitMiss w page)
    | .grow _ _ _ => .fault fcExecDenied va

/-- What fetching and decoding the next bundle comes to. -/
inductive Fetched where
  /-- the bundle, its words, its length in bytes -/
  | bundle (b : Bundle) (words : List W32) (len : Nat) (s : State)
  | trap (t : TrapInfo)
  | wait (s : State)
  deriving DecidableEq, Repr

/-- What stops the fetch of n words before any page is looked at: the region decode of each word (R18), and then the end of the
text (R211); the code and the failing word's address. -/
def fetchBounds (va off textLen n : Nat) : Option (Nat × Nat) :=
  ((List.range n).findSome? fun i => (fetchRegion (va + 4 * i)).map (·, va + 4 * i)).or
    (if textLen < off + 4 * n then some (0x80, va + (if textLen < off then 0 else (textLen - off) / 4 * 4)) else none)

/-- Fetch the bundle at the group's program counter (R211, R212). -/
def State.fetch (s : State) (w : Who) (l : Launch) (pc : W64) : Fetched :=
  let off := (l.textOffset pc).toNat
  let va := pc.toNat
  let fails (c v : Nat) : Fetched := .trap { precise 0x03 c 7 with addr := w64 v }
  match fetchBounds va off l.hdr.textLen 1 with
  | some (c, v) => fails c v
  | none =>
    match fetchWords w va 1 none s with
    | .fault c v => fails c v
    | .wait s => .wait s
    | .ok ws got s =>
      let head := ws.headD 0
      match decodeHeader head with
      | .error e => .trap (precise 0x01 e.cause 7)
      | .ok h =>
        let n := bundleWords head
        match fetchBounds va off l.hdr.textLen n with
        | some (c, v) => fails c v
        | none =>
          match fetchWords w (va + 4) (n - 1) got s with
          | .fault c v => fails c v
          | .wait s => .wait s
          | .ok rest _ s =>
            let k := h.buses.length
            .bundle { header := h, moves := h.buses.zip (rest.take k), ext := rest.drop k } (head :: rest) (4 * n) s

/-! ### Irrevocable triggers and check points (R410, R411) -/

/-- Is a trigger irrevocable (R411)? -/
def irrevocable (unit port : Nat) : Bool :=
  match unit with
  | 0x10 => true
  | 0x0D => port != 0x0A
  | 0x0E => true
  | 0x11 => true
  | 0x0F => port == 0x06 || port == 0x0A || port == 0x0B
  | 0x12 => (0x0C ≤ port && port ≤ 0x15) || port == 0x17 || port == 0x1B || port == 0x1A
  | _ => false

/-- The trigger a move starts: unit and port. -/
def PMove.trig? (m : PMove) : Option (Nat × Nat) :=
  match m.dest with
  | .trigger u p => some (u, p)
  | .vreg _ | .sreg _ | .kreg _ | .operand _ _ => none

/-- The move that triggers a port of sy and applies somewhere. -/
def sySel (g : Group) (rs : List RMove) (port : Nat) : Option (RMove × Nat) :=
  (rs.find? fun r => r.m.trig? == some (0x12, port)).bind fun r => (lowestLane g.width r.lanes).map (r, ·)

/-- A segchk of the bundle that does not match: its A and B (R352). -/
def segchkBad (g6 g : Group) (rs : List RMove) : Option (W64 × W64) :=
  match sySel g rs 0x19 with
  | none => none
  | some (_, l) =>
    let a := g6.opnd l 0x12 0
    let b := g6.opnd l 0x12 1
    if (lo32 a).toNat == g.segCount && lo32 b == g.segSig then none else some (a, b)

/-- Does a move of the bundle start an irrevocable trigger (R411)? -/
def anyIrrevocable (rs : List RMove) : Bool :=
  rs.any fun r => match r.m.trig? with
    | some (u, p) => irrevocable u p
    | none => false

/-- Is the bundle a check point (R410)? The bundle of the explicit trap is one, by its trap. -/
def isCheckPoint (g : Group) (h : Header) (rs : List RMove) : Bool :=
  h.region != 0 || (sySel g rs 0x19).isSome || (sySel g rs 0x1A).isSome || (sySel g rs 0x17).isSome ||
    (match sySel g rs 0x18 with
     | some (r, l) => (r.val l).getLsbD 0
     | none => false) ||
    (regOpen g.check && anyIrrevocable rs)

/-! ### After the issue: pad, program counter, loop (R219, R335, R341) -/

/-- The loop end check, at the bundle after which the program counter would go on to `out` (R341, R343). At the drain point a group that
is asked to leave stops, but not in an Encke phase, which is closed first (R195). -/
def Group.loopEnd (g : Group) (tb out : W64) : Group :=
  let lp := g.loop
  if lp.j + 2 < lp.u + lp.stages then
    ({ g with loop := { lp with j := lp.j + 1 }, pc := tb + w64 lp.s0 } : Group).driveStages
  else if lp.u == lp.n then { g.endLoop with pc := out }
  else
    ({ g with loop := { lp with b := lp.u, u := lp.n, j := lp.u }, pc := tb + w64 lp.s0,
              stopped := g.draining && g.phase.isNone } : Group).driveStages

/-- The bundle and its pad are over: the program counter goes to the transfer's target, or in sequence with the loop's end
check (R335, R341). The loop engine is suspended while HANDLER is 1 (R396). -/
def Group.finish (g : Group) (tb bundlePc : W64) (len : Nat) : Group :=
  let next := bundlePc + w64 len
  let ends := g.loop.active && !g.handler && len != 0 && next == tb + w64 (g.loop.s0 + g.loop.len)
  match g.target with
  | some t =>
    if g.endDue && ends then ({ g with target := none, endDue := false } : Group).loopEnd tb t
    else ({ g with pc := t, target := none, endDue := false } : Group).addWait .redirect
  | none => if ends then g.loopEnd tb next else { g with pc := next }

/-- The explicit trap is taken before what follows its bundle: the pad and the end check (R341, R350, R391). -/
def Group.beforeTrap (g : Group) (bundlePc : W64) (len : Nat) : Group :=
  { g with padPc := bundlePc, padLen := len, pc := g.target.getD (bundlePc + w64 len) }

/-- Where the group goes on after its pad: the resume address of a trap taken now (R391). -/
def Group.resumeAt (g : Group) (l : Launch) : W32 :=
  if g.pad == 0 then l.textOffset g.pc
  else l.textOffset (g.target.getD (g.padPc + w64 g.padLen))

/-! ### Executing a bundle (R221) -/

/-- What an attempt to issue comes to. -/
inductive IssueRes where
  /-- the bundle issued, or the group trapped, retried, was stopped, or noted a miss -/
  | done (s : State)
  /-- the bundle waits in step 3; what it waits for has been noted (a miss, growth, a stopped core) -/
  | noted (s : State)
  /-- the bundle waits in step 3 with nothing changed -/
  | waits
  deriving DecidableEq, Repr

/-- What is found before any move applies (steps 1 to 3 of R221). -/
inductive Before where
  | go
  | trap (t : TrapInfo)
  | wait
  deriving DecidableEq, Repr

/-- A trap that names a move's lanes. -/
def laneTrap (g : Group) (t : TrapInfo) (lanes : Mask) : TrapInfo :=
  { t with lane := (lowestLane g.width lanes).getD 0, lanes := lanes }

/-- The voted destinations: mx.fmt and xe.open (R223). -/
def votedDest (d : Dest) : Bool := d == .trigger 0x0F 0x05 || d == .trigger 0x11 0x04

/-- Do two lanes of a voted move differ? -/
def RMove.diverges (r : RMove) (g : Group) : Bool :=
  votedDest r.m.dest &&
    match lanesOf g.width r.lanes with
    | [] => false
    | l :: ls => ls.any fun k => r.val k != r.val l

/-- A bundle that starts inside the active loop's body and ends beyond it (R332 cause 0x08). R396 suspends the loop engine while HANDLER
is 1 and names this check as little as the others: the model raises nothing there (log 71). -/
def straddles (g : Group) (off len : Nat) : Bool :=
  g.loop.active && !g.handler && g.loop.s0 ≤ off && off < g.loop.s0 + g.loop.len && g.loop.s0 + g.loop.len < off + len

/-- Steps 1 to 3. Traps come before waits. -/
def checkBundle (g : Group) (b : Bundle) (ms : List PMove) (rs : List RMove) (off len : Nat) : Before :=
  match bundleError g b with
  | some (bus, cause) => .trap (precise 0x02 cause bus)
  | none =>
    if straddles g off len then .trap (precise 0x09 0x08 7)
    else
      match ms.find? (repeatBad g) with
      | some m => .trap (precise 0x02 3 m.bus)
      | none =>
        match (conflictBus ms).or (x0Bus g ms) with
        | some bus => .trap (precise 0x02 8 bus)
        | none =>
          -- the votes of step 2, over values that are there to be delivered
          match rs.find? fun r => r.diverges g && !r.noEntry g && !anyLane g.width (r.empty g) with
          | some r => .trap (laneTrap g { precise 0x05 0 r.m.bus with info0 := w64 r.m.code.toNat } r.lanes)
          | none =>
          match rs.find? fun r => r.noEntry g || (r.m.mv.e && anyLane g.width (r.empty g)) with
          | some r =>
            .trap (laneTrap g { precise 0x04 0 r.m.bus with info0 := w64 r.m.mv.s.toNat }
              (if r.noEntry g then r.lanes else r.empty g))
          | none =>
            if rs.any (fun r => anyLane g.width (r.empty g)) || ms.any (queueFull g rs) then .wait else .go

/-- What the triggers of a bundle come to. -/
inductive TrigsRes where
  | ok (s : State)
  | trap (t : TrapInfo)
  | wait (s : State)
  | hold
  deriving DecidableEq, Repr

/-- Step 7: start triggers in ascending bus order. `s0` is the state before the bundle, for what a waiting bundle notes. -/
def startTriggers (tbl : Nat → Nat → Option Trigger) (g : GRef) (pc next : W32) (width : Nat) (s0 : State) :
    List RMove → State → TrigsRes
  | [], s => .ok s
  | r :: rs, s =>
    match r.m.trig? with
    | none => startTriggers tbl g pc next width s0 rs s
    | some (u, p) =>
      match tbl u p with
      | none => startTriggers tbl g pc next width s0 rs s
      | some f =>
        let i : TrigIn := { g := g, bus := r.m.bus, unit := u, port := p, lanes := r.lanes,
                            t := (List.range width).map r.val, pc := pc, next := next }
        match f i s with
        | .ok s => startTriggers tbl g pc next width s0 rs s
        | .trap t => .trap t
        | .wait note => .wait (note s0)
        | .hold => .hold

/-- Step 8 for the hold latches (R218). -/
def holdLatches (g : Group) (b : Bundle) (ms : List PMove) : List (Option Latch) :=
  (List.range 6).map fun bus =>
    match ms.find? fun m => m.bus == bus && !m.rep with
    | some m => if m.mv.h then some { word := m.word, ext := m.ext, guard := BitVec.ofNat 4 m.guard } else none
    | none => if b.header.clrhold then none else g.latches[bus]?.getD none

/-- The segment's count and signature after a bundle has issued (R352). -/
def Group.countBundle (g : Group) (words : List W32) : Group :=
  { g with segCount := (g.segCount + 1) % 2 ^ 32,
           segSig := w32 (Nat.xor (crcRun (Nat.xor g.segSig.toNat 0xFFFFFFFF) (words.flatMap wordBytes)) 0xFFFFFFFF) }

/-- Region entry and exit of the group before the bundle, once the check point has passed (R353, R411, R412). -/
def Group.regionStep (g : Group) (h : Header) (rs : List RMove) (pc : W32) : Group :=
  let g := if regOpen g.check && (h.region == 2 || anyIrrevocable rs) then g.closeRegion else g
  let opened := g.openRegion pc
  if h.region != 1 then g else if anyIrrevocable rs then opened.closeRegion else opened

/-- The group with its bundle's moves made, and with its region entered or left: the region records the group as it is before
the moves. -/
def Group.withRegion (g written : Group) (h : Header) (rs : List RMove) (pc : W32) : Group :=
  if h.region == 0 && !(regOpen g.check && anyIrrevocable rs) then written
  else
    let entered := g.regionStep h rs pc
    { written with
      check := (entered.check &&& 0x3E) ||| (written.check &&& ~~~0x3E)
      region := entered.region
      lanes := (written.lanes.zip entered.lanes).map fun (x, y) => { x with regionGen := y.regionGen } }

/-- The issue counts of a group: phase cycle, x0 spacing, promotion (R192, R281, R325). -/
def Group.countIssue (g : Group) (ms : List PMove) : Group :=
  { g with
    x0cnt := if ms.any fun m => m.trigUnit? == some 0x09 then 0 else min 3 (g.x0cnt + 1)
    promoted := false
    waited := 0
    issues := g.issues + 1
    phase := g.phase.map fun (p, n) => (p, n + 1) }

/-- Step 8 for the group x that the bundle of grp has left: the latches, the segment, the issue counts, the pad, and the
program counter. -/
def Group.afterIssue (x grp : Group) (b : Bundle) (ms : List PMove) (rs : List RMove) (words : List W32) (tb pc : W64)
    (len : Nat) (pad : Bool) : Group :=
  let left := grp.handler && !x.handler
  let x := if x.ended then { x with latches := noLatches } else if pad || left then x
    else { x with latches := holdLatches x b ms }
  let x := if pad || grp.handler || (sySel grp rs 0x19).isSome then x else x.countBundle words
  let x := x.countIssue ms
  let trapped := x.pend.any fun t => t.code == 0x0B
  if x.ended then x
  else if left then
    -- rfe: the frame's own pad issues come next, and then its resume address (R397, log 21)
    if x.pad == 0 then x.finish tb x.padPc x.padLen else x
  else if pad then
    if 1 < x.pad then { x with pad := x.pad - 1 }
    else if trapped then ({ x with pad := 0 } : Group).beforeTrap x.padPc x.padLen
    else ({ x with pad := 0 } : Group).finish tb x.padPc x.padLen
  else if b.header.pad == 0 then
    if x.pad != 0 then x else if trapped then x.beforeTrap pc len else x.finish tb pc len
  else { x with pad := b.header.pad, padPc := pc, padLen := len }

/-- Is an mx.cfg, mx.fmt or mx.go of the bundle held in step 3, since no slot of its workgroup is OPEN (R221, R360)? -/
def Workgroup.mxHeld (w : Workgroup) (rs : List RMove) : Bool :=
  !w.accumBanks.isEmpty && w.nest.slots.all (·.st != .opened) && rs.any fun r => match r.m.trig? with
    | some (u, p) => u == 0x0F && 4 ≤ p && p ≤ 6 && r.lanes != 0
    | none => false

/-- Take the explicit trap at the boundary directly after its bundle (R350, R391). -/
def State.explicitTrap (s : State) (g : GRef) (l : Launch) : State :=
  match s.group? g with
  | none => s
  | some grp =>
    match grp.pend.find? fun (t : TrapInfo) => t.code == 0x0B with
    | none => s
    | some t =>
      let s1 := s.setGroup g { grp with pend := drop (fun (x : TrapInfo) => x.code == 0x0B) grp.pend }
      match s1.takeTrap g t (grp.resumeAt l) with
      | some s => s
      | none => s

/-- Execute a bundle whose words are at hand (steps 1 to 8 of R221), or a pad issue, which is an empty bundle at the same
program counter (R219). `pc` is the address of the bundle, `words` its words for the signature. -/
def execBundle (tbl : Nat → Nat → Option Trigger) (s : State) (g : GRef) (grp0 : Group) (l : Launch) (b : Bundle)
    (words : List W32) (pc : W64) (len : Nat) (pad : Bool) : IssueRes :=
  let grp := grp0.advance
  let off := l.textOffset pc
  let next := off + w32 len
  let ms := bundleMoves grp b
  let rs := readMoves grp ms
  let raise (t : TrapInfo) : IssueRes :=
    if pad then
      match checkPoint s g off none with
      | .gone s => .done s
      | .pass => .done (s.takeTrapOrStop g { t with pc := off } (grp0.resumeAt l))
    else .done (s.raise g t off)
  match checkBundle grp b ms rs off.toNat (if pad then 0 else len) with
  | .trap t => raise t
  | .wait => .waits
  | .go =>
    if (s.wg? g.wg).any (·.mxHeld rs) then .waits else
    let popped := rs.foldl popMove grp
    let written := rs.foldl (writeMove grp) popped
    let check := if isCheckPoint grp b.header rs then checkPoint s g off (segchkBad written grp rs) else .pass
    match check with
    | .gone s => .done s
    | .pass =>
      let g6 := grp.withRegion written b.header rs off
      match startTriggers tbl g off next g6.width s rs (s.setGroup g g6) with
      | .trap t => raise t
      | .wait s => .noted s
      | .hold => .waits
      | .ok s =>
        .done ((s.modGroup g fun x => x.afterIssue grp b ms rs words l.textBase pc len pad).explicitTrap g l)

/-- Does a request stop the group at this boundary instead: a pre-emption outside loops and phases once every fixed-latency
operation has landed (R195), or a debugger stop once every load has landed too (R407)? -/
def stopHere (w : Workgroup) (g : Group) : Option (Group → Group) :=
  let loads := g.ldq.all fun e => e.lanes.all (·.landed)
  if g.dbgReq.isSome && g.fixedLanded && loads then some fun g => { g.addWait .debug with dbgReq := g.dbgReq }
  else if w.preempt && g.fixedLanded && g.phase.isNone && !g.loop.active then
    some fun g => { g with stopped := true }
  else none

/-- An issue that is over has used up the answered misses and the expired faults of its group. -/
def IssueRes.settle (r : IssueRes) (w : Who) : IssueRes :=
  match r with
  | .done s => .done ((s.clearMisses w).clearFw w none)
  | .noted s => .noted s
  | .waits => .waits

/-- A group that is asked to stop while Phobos serves a fault of its bundle: the load is cancelled, and issued again with the bundle at the
resume (R407, log 54). -/
def State.cancelHeld (s : State) (w : Workgroup) (g : Group) : Option State :=
  let mine (f : FwFault) : Bool := f.g == refOf w g && f.chan.isNone
  let loads := g.ldq.all fun e => e.lanes.all (·.landed)
  if !w.out && g.dbgReq.isSome && g.fixedLanded && loads && !g.waits.contains .debug then
    ((s.core w.core).fw.find? mine).map fun f =>
      let ended := if (s.core w.core).serving == some f then s.endStop w.core f none
        else s.modCore w.core fun c => { c with fw := drop (· == f) c.fw }
      ended.modGroup (refOf w g) fun x => (x.dropWaits fun y => y == .translate || y == .missRoom).addWait .debug
  else none

/-- Issue the next bundle of a group, or its next pad issue. -/
def issueGroup (tbl : Nat → Nat → Option Trigger) (s : State) (g : GRef) : IssueRes :=
  match s.wg? g.wg, s.group? g, s.launchOf? g, s.who? g with
  | some w, some grp, some l, some who =>
    if !s.candidate w grp then
      match s.cancelHeld w grp with
      | some t => .done t
      | none => .waits
    else
      match stopHere w grp with
      | some f => .done (s.modGroup g f)
      | none =>
        if grp.pad != 0 then
          let empty : Bundle :=
            { header := { present := 0, extn := 0, pad := 0, clrhold := false, region := 0 }, moves := [], ext := [] }
          (execBundle tbl s g grp l empty [] grp.padPc grp.padLen true).settle who
        else
          match s.fetch who l grp.pc with
          | .wait s => .noted s
          | .trap t => (IssueRes.done (s.raise g t (l.textOffset grp.pc))).settle who
          | .bundle b words len s => (execBundle tbl s g grp l b words grp.pc len false).settle who
  | _, _, _, _ => .waits

/-! ### The slot: its leader, and the groups that issue beside it (R192) -/

/-- Does an attempt to issue wait in step 3? Such a group is no candidate (R194). -/
def IssueRes.isWait (r : IssueRes) : Bool :=
  match r with
  | .waits => true
  | .done _ => false
  | .noted _ => false

/-- The candidates of a slot that can issue a bundle, in the order of step 3. -/
def State.slotOrder (s : State) (core : CoreId) (slot : Nat) : List (Workgroup × Group) :=
  s.candidates.filter fun x => x.1.core == core && x.2.slot == slot && x.2.pad == 0 && (stopHere x.1 x.2).isNone

/-- Is a group the leader of its slot: does every candidate before it wait for what its bundle needs? A group that is asked to stop
stops whoever leads. -/
def State.leads (tbl : Nat → Nat → Option Trigger) (s : State) (w : Workgroup) (g : Group) : Bool :=
  (stopHere w g).isSome ||
    ((s.slotOrder w.core g.slot).takeWhile fun x => refOf x.1 x.2 != refOf w g).all fun x =>
      (issueGroup tbl s (refOf x.1 x.2)).isWait

/-- Has the group been a candidate, its next bundle not waiting? -/
def State.ready (tbl : Nat → Nat → Option Trigger) (s : State) (w : Workgroup) (g : Group) : Bool :=
  s.candidate w g && g.pad == 0 && !(issueGroup tbl s (refOf w g)).isWait

/-- The candidates that may issue the leader's bundle beside it: those of its launch whose program counter is the leader's. -/
def State.mates (s : State) (w : Workgroup) (g : Group) : List (Workgroup × Group) :=
  (s.slotOrder w.core g.slot).filter fun x => refOf x.1 x.2 != refOf w g && x.1.lid == w.lid && x.2.pc == g.pc

/-- Do columns of a group belong to none of some ranges (first, one past the last)? -/
def Group.apart (g : Group) (cols : List (Nat × Nat)) : Bool := cols.all fun c => c.2 ≤ g.col || g.col + g.width ≤ c.1

/-- The bundle that a group fetches next, when it can issue one, and the state after the fetch. -/
def State.nextBundle (s : State) (w : Workgroup) (g : Group) : Option (Bundle × List W32 × Nat × State) :=
  let r := refOf w g
  match s.launchOf? r, s.who? r with
  | some l, some who =>
    if g.pad != 0 || (stopHere w g).isSome then none
    else match s.fetch who l g.pc with
      | .bundle b ws len s => some (b, ws, len, s)
      | .trap _ => none
      | .wait _ => none
  | _, _ => none

/-- What a group makes of a bundle that its slot issues, under its own guards, holds and pad. -/
def issueAs (tbl : Nat → Nat → Option Trigger) (b : Bundle) (words : List W32) (len : Nat) (s : State) (x : Workgroup × Group) : IssueRes :=
  let r := refOf x.1 x.2
  match s.wg? r.wg, s.group? r, s.launchOf? r, s.who? r with
  | some w, some g, some l, some who =>
    if s.candidate w g then (execBundle tbl s r g l b words g.pc len false).settle who else .waits
  | _, _, _, _ => .waits

/-- The candidates that issue the bundle beside the leader, in the order of step 5: each on columns that none before it takes, and not
waiting (R192). -/
def beside (tbl : Nat → Nat → Option Trigger) (b : Bundle) (words : List W32) (len : Nat) (s : State) :
    List (Workgroup × Group) → (cols : List (Nat × Nat)) → List (Workgroup × Group)
  | [], _ => []
  | (w, g) :: rest, cols =>
    if g.apart cols && !(issueAs tbl b words len s (w, g)).isWait then
      (w, g) :: beside tbl b words len s rest ((g.col, g.col + g.width) :: cols)
    else beside tbl b words len s rest cols

/-- The groups of one issue make their bundle in ascending group entry (R359, log 68). -/
def coIssue (tbl : Nat → Nat → Option Trigger) (b : Bundle) (words : List W32) (len : Nat) : List (Workgroup × Group) → State → State
  | [], s => s
  | x :: rest, s =>
    match issueAs tbl b words len s x with
    | .done t => coIssue tbl b words len rest t
    | .noted t => coIssue tbl b words len rest t
    | .waits => coIssue tbl b words len rest s

/-- The slot issues the bundle of its leader, and every candidate that may co-issues it. -/
def issueSlot (tbl : Nat → Nat → Option Trigger) (s : State) (w : Workgroup) (g : Group) : IssueRes :=
  match issueGroup tbl s (refOf w g), s.nextBundle w g with
  | .done t, some (b, ws, len, fetched) =>
    match beside tbl b ws len fetched (s.mates w g) [(g.col, g.col + g.width)] with
    | [] => .done t
    | x :: xs => .done (coIssue tbl b ws len (sortBy (fun (y : Workgroup × Group) => y.2.entry) ((w, g) :: x :: xs)) fetched)
  | r, _ => r

end Sys2Proof.Machine
end

