-- ==== Sys2Proof/Machine/Serial.lean ====
section
/-!
DEFINITION. Serial: which operations are covered, identities, serials and watermarks, and the send window (R139, R140, R142 to R147).
-/

namespace Sys2Proof.Machine

/-! ### Which operations are covered (R139) -/

/-- Is an operation of a die on an address covered? Host-class lines never are (R140). -/
def State.isCovered (s : State) (die pa : Nat) (tpage store : Bool) : Bool :=
  (paClass pa == 2 || (paClass pa == 0 && s.homeDie (partOf pa) != die)) && !(store && tpage)

/-! ### Identities, serials, watermarks (R142 to R147) -/

/-- The identity of a die's allowance cache for a context. -/
def State.cacheIdent (s : State) (ctx die : Nat) : Nat := identOf s.plat.devNum ctx die 31 0 0

/-- The living group with an identity. -/
def State.holder? (s : State) (ident : Nat) : Option GRef :=
  s.wgs.findSome? fun w =>
    if w.retired then none
    else (w.groups.find? fun (g : Group) => g.ident == ident).map fun g => (⟨w.wid, g.gi⟩ : GRef)

/-- Next serial of an identity: with the living group that has it, otherwise in the table. -/
def State.nextSerial (s : State) (ident : Nat) : Nat :=
  match (s.holder? ident).bind s.group? with
  | some g => g.nextSer
  | none => (s.ctx (identCtx ident)).serial (identPos ident)

/-- Count a serial as given. -/
def State.bumpSerial (s : State) (ident : Nat) : State :=
  let n := (s.nextSerial ident + 1) % 2 ^ 16
  match s.holder? ident with
  | some g => s.modGroup g fun x => { x with nextSer := n }
  | none => s.setSerial (identCtx ident) (identPos ident) n

/-- Is serial b later than a (R145)? -/
def serialLater (a b : Nat) : Bool :=
  let d := (b + 2 ^ 16 - a % 2 ^ 16) % 2 ^ 16
  0 < d && d ≤ 2 ^ 15

/-- The watermark: the serial of the oldest outstanding operation, otherwise the next serial (R146). -/
def State.watermark (s : State) (ident : Nat) : Nat :=
  match s.covOps.find? fun (o : CovOp) => o.ref.ident == ident with
  | some o => o.ref.serial
  | none => s.nextSerial ident

/-- May the identity send its next operation (R147)? -/
def State.windowOpen (s : State) (ident : Nat) : Bool :=
  (s.nextSerial ident + 2 ^ 16 - s.watermark ident) % 2 ^ 16 < 2 ^ 15

/-- Has the move that triggers an operation on these pieces to wait: one is covered, and the send window of its group is closed (R147,
R307)? -/
def State.windowHeld (s : State) (die ident : Nat) (store : Bool) (ps : List (Nat × List Piece)) : Bool :=
  !s.windowOpen ident && ps.any fun x => x.2.any fun p => match p.target with
    | .phys pa _ t _ => s.isCovered die pa t store
    | .scratch _ _ => false

end Sys2Proof.Machine
end

