-- ==== Sys2Proof/Machine/LdSt.lean ====
section
/-!
DEFINITION. LdSt: the ld unit (R296 to R305, R78): addresses, the checks at issue, loads, stores, fences, pgstate; and the
checks that am, cp, q0 and sy share with it.
-/

namespace Sys2Proof.Machine

/-! ### Checks at issue (R299, R300) -/

/-- What the checks of one lane's access come to. -/
inductive Chk where
  /-- its pieces, with the buffer entries that translated them -/
  | ok (ps : List Piece) (es : List (Option TbEntry))
  | access (code : Nat)
  | misaligned
  /-- it waits: for a walk, growth, or a stopped core -/
  | wait (note : State → State)

/-- Largest naturally aligned pieces of n bytes from address a up: offset and length (R83, R299). -/
def alignedRuns : (fuel a n off : Nat) → List (Nat × Nat)
  | 0, _, _, _ => []
  | fuel + 1, a, n, off =>
    if n == 0 then []
    else
      let p := if 8 ≤ n && a % 8 == 0 then 8 else if 4 ≤ n && a % 4 == 0 then 4 else if 2 ≤ n && a % 2 == 0 then 2 else 1
      (off, p) :: alignedRuns fuel (a + p) (n - p) (off + p)

/-- Does the address lie in the private lane view (R22)? -/
def isLaneView (a : Nat) : Bool := bits a 48 8 == 0xFE && !bit a 47

/-- Codes of step 4 of R300, which come after every page's translation. -/
def permissionCode (c : Nat) : Bool := c == fcWriteDenied || c == fcExecDenied || c == fcWindowKind

/-- Translate the pieces of an access, lowest address first. -/
def checkRuns (s : State) (w : Who) (lane va : Nat) (acc : Acc) : List (Nat × Nat) → Option Nat → Chk
  | [], some c => .access c
  | [], none => .ok [] []
  | (off, len) :: runs, denied =>
    let a := va + off
    match s.translate w lane a len acc with
    | .ok t e =>
      match checkRuns s w lane va acc runs denied with
      | .ok ps es => .ok (Piece.new t off len :: ps) (e :: es)
      | r => r
    | .fault c =>
      if c == fcNotResident then
        match s.expiredFw w none with
        | some c => .access c
        | none => .wait fun s0 => s0.stopCore w c a lane none
      else if permissionCode c then checkRuns s w lane va acc runs (some (denied.getD c))
      else .access c
    | .miss page => .wait fun s0 => s0.waitMiss w page
    | .grow seg area page =>
      match s.growFor w lane a seg area page with
      | .error c => .access c
      | .ok _ => .wait fun s0 => match s0.growFor w lane a seg area page with
        | .ok s => s
        | .error _ => s0

/-- The checks of one lane's access, in the order of R300. -/
def State.checkLane (s : State) (w : Who) (lane : Nat) (va : W64) (size : Nat) (acc : Acc) (strict : Bool) : Chk :=
  let a := va.toNat
  let p := bits a 0 47
  if isHole a then .access fcHole
  else if (strict || bits a 48 8 == 0xFF) && a % size != 0 then .misaligned
  else if isLaneView a && (if size == 8 then p % 8 != 0 else 4 < p % 4 + size) then .misaligned
  else
    let runs := if isLaneView a && size == 8 then [(0, 4), (4, 4)] else alignedRuns 8 a size 0
    match checkRuns s w lane a acc runs none with
    | .ok ps es =>
      let ofS := ps.any fun p => match p.target with
        | .phys _ k _ _ => k == .s
        | .scratch _ _ => false
      if a % size != 0 && !isLaneView a && ofS then .misaligned else .ok ps es
    | r => r

/-- The pieces of each applying lane of a trigger, and the buffer entries used. -/
structure Checked where
  ps : List (Nat × List Piece)
  es : List (Option TbEntry)
  deriving DecidableEq, Repr

/-- Collect the lanes' checks: a wait when any lane waits, otherwise the trap of the lowest failing lane, with every lane
that failed alike (R300, R394). -/
def gatherChecks (i : TrigIn) (va : Nat → W64) (f : Nat → Chk) : Except TrigRes Checked :=
  let rs := (lanesOf i.width i.lanes).map fun l => (l, f l)
  let notes := rs.filterMap fun (_, r) => match r with
    | .wait n => some n
    | _ => none
  let fails := rs.filterMap fun (l, r) => match r with
    | .access c => some (l, 0x07, c)
    | .misaligned => some (l, 0x06, 0)
    | _ => none
  match notes, fails with
  | [], [] =>
    .ok { ps := rs.filterMap fun (l, r) => match r with
            | .ok ps _ => some (l, ps)
            | _ => none
          es := rs.flatMap fun (_, r) => match r with
            | .ok _ es => es
            | _ => [] }
  | [], (l, code, cause) :: rest =>
    let alike := maskOf i.width fun k => k == l || rest.any fun x => x.1 == k && x.2.1 == code && x.2.2 == cause
    .error (.trap { precise code cause i.bus with lane := l, lanes := alike, addr := va l })
  | ns, _ => .error (.wait fun s0 => ns.foldl (fun s n => n s) s0)

/-- Note every access in its leaf entry (R32, R37). -/
def State.touchAll (s : State) (w : Who) (es : List (Option TbEntry)) (write : Bool) : State :=
  es.foldl (fun s e => s.touch w e write) s

/-! ### Addresses and the access-control word (R297, R298) -/

/-- Virtual address of an ld trigger in a lane. -/
def ldVa (g : Group) (i : TrigIn) (l : Nat) : W64 := g.opnd l 0x0C 0 + sx (lo32 (i.tv l))

/-- SCOPE: codes 5 to 7 act as 4. -/
def scopeOf (c : W64) : Nat := min 4 (fld c 0 3)

/-- MARK. -/
def markOf (c : W64) : Bool := c.getLsbD 3

/-- Does a piece lie in a scratchpad? -/
def Piece.inScratch (p : Piece) : Bool :=
  match p.target with
  | .scratch _ _ => true
  | .phys _ _ _ _ => false

/-- A lane's operation as it enters its queue. At a scratchpad location its scope is at most c (R98, R298). -/
def newLaneOp (l : Nat) (va : W64) (ps : List Piece) (t b c : W64) (mark : Bool) : LaneOp where
  lane := l
  va := va
  pieces := ps
  t := t
  b := b
  scope := if ps.any (·.inScratch) then min 2 (scopeOf c) else scopeOf c
  mark := mark
  val := 0
  flag := false
  poison := false
  done := false
  landed := false

/-! ### Loads and stores (R301, R302) -/

/-- A load of size bytes. -/
def loadTrigger (size : Nat) (signed : Bool) : Trigger := fun i s =>
  match s.who? i.g, s.group? i.g with
  | some w, some g =>
    let va := ldVa g i
    match gatherChecks i va fun l => s.checkLane w l (va l) size .load (markOf (g.opnd l 0x0C 2)) with
    | .error r => r
    | .ok c =>
      .ok ((s.touchAll w c.es false).onGroup i fun g =>
        let (id, g) := g.takeOrd
        let ops := c.ps.map fun (l, ps) => newLaneOp l (va l) ps 0 0 (g.opnd l 0x0C 2) (markOf (g.opnd l 0x0C 2))
        { g with
          ldq := g.ldq ++ [{ id := id, op := .load signed, size := size, pc := i.pc, lanes := ops, popped := false }]
          ldr := g.ldr ++ [newEntry g id i.lanes] })
  | _, _ => .ok s

/-- A store of size bytes of operand b. One that applies to no lane does nothing; a covered one waits for its send window (R147). -/
def storeTrigger (size : Nat) : Trigger := fun i s =>
  match s.who? i.g, s.group? i.g with
  | some w, some g =>
    let va := ldVa g i
    match gatherChecks i va fun l => s.checkLane w l (va l) size .store (markOf (g.opnd l 0x0C 2)) with
    | .error r => r
    | .ok c =>
      if c.ps.isEmpty then .ok s
      else if s.windowHeld w.core.die g.ident true c.ps then .hold
      else
        .ok ((s.touchAll w c.es true).onGroup i fun g =>
          let (id, g) := g.takeOrd
          let ops := c.ps.map fun (l, ps) =>
            newLaneOp l (va l) ps (g.opnd l 0x0C 1) 0 (g.opnd l 0x0C 2) (markOf (g.opnd l 0x0C 2))
          { g with
            stq := g.stq ++ [{ id := id, op := .store, size := size, pc := i.pc, lanes := ops, popped := false }] })
  | _, _ => .ok s

def ldL8 : Trigger := loadTrigger 1 true
def ldL8n : Trigger := loadTrigger 1 false
def ldL16 : Trigger := loadTrigger 2 true
def ldL16n : Trigger := loadTrigger 2 false
def ldL32 : Trigger := loadTrigger 4 false
def ldL64 : Trigger := loadTrigger 8 false
def ldS8 : Trigger := storeTrigger 1
def ldS16 : Trigger := storeTrigger 2
def ldS32 : Trigger := storeTrigger 4
def ldS64 : Trigger := storeTrigger 8

/-! ### Fences (R87, R305) -/

/-- Is it a read in the sense of R81: a returning atomic, an exact read, a peek (R95, R116)? Takes and gives are writes only. -/
def AmOp.reads (o : AmOp) : Bool :=
  match o with
  | .acread | .acpeek => true
  | .acinit | .actake | .acgive | .acfree => false
  | .radd | .rfadd | .rmax => false
  | .swap | .cas | .add | .band | .bor | .bxor | .min | .max | .fadd => true

/-- Does the entry read memory? -/
def MemEntry.reads (e : MemEntry) : Bool :=
  match e.op with
  | .load _ => true
  | .atomic o => o.reads
  | .store | .fence _ _ | .pgstate => false

/-- Has every read before number id returned (R87)? Write pointers are read by synchronisation events (R81, R101). -/
def Group.readsBefore (g : Group) (id : Nat) : Bool :=
  (g.ldq.all fun e => id ≤ e.id || !e.reads || e.lanes.all (·.landed)) &&
  g.amq.all fun e => id ≤ e.id || !e.reads || e.lanes.all (·.done)

/-- Has every write, reduction and queue operation before number id been performed? -/
def Group.writesBefore (g : Group) (id : Nat) : Bool :=
  (g.stq.all fun e => id ≤ e.id || e.lanes.all (·.landed)) &&
  (g.amq.all fun e => id ≤ e.id || e.lanes.all (·.done)) &&
  g.q0q.all fun o => id ≤ o.id || o.done

/-- Is a barrier arrival before number id still to be performed? -/
def Group.arriving (g : Group) (id : Nat) : Bool :=
  g.waits.any fun w => match w with
    | .barArrive _ _ _ n => n < id
    | _ => false

/-- Does the condition of a fence hold (R87, R305)? -/
def Group.fenceHolds (g : Group) (k : FenceKind) (id : Nat) : Bool :=
  match k with
  | .acq => g.readsBefore id
  | .rel => g.readsBefore id && g.writesBefore id && !g.arriving id
  | .full => g.readsBefore id && g.writesBefore id && !g.arriving id

/-- Fences whose condition holds leave the ld queue; `held` says at which scopes an acquiring one still waits (R88). -/
def Group.settleFences (g : Group) (held : Nat → Bool) : Group :=
  { g with ldq := drop (fun e => match e.op with
      | .fence .rel _ => g.fenceHolds .rel e.id
      | .fence k scope => g.fenceHolds k e.id && !held scope
      | _ => false) g.ldq }

/-- The fences of a group whose condition holds leave its queue. -/
def State.settleGroup (s : State) (r : GRef) : State := s.modGroup r fun g => g.settleFences (s.acqHeld r)

/-- A fence at the scope in bits [2:0] of the lowest applying lane's trigger value. -/
def fenceTrigger (k : FenceKind) : Trigger := fun i s =>
  match lowestLane i.width i.lanes with
  | none => .ok s
  | some l =>
    .ok (s.onGroup i fun g =>
      let (id, g) := g.takeOrd
      ({ g with ldq := g.ldq ++
          [{ id := id, op := .fence k (scopeOf (i.tv l)), size := 0, pc := i.pc, lanes := [], popped := false }] } :
        Group).settleFences (s.acqHeld i.g))

def ldFeacq : Trigger := fenceTrigger .acq
def ldFerel : Trigger := fenceTrigger .rel
def ldFefull : Trigger := fenceTrigger .full

/-! ### pgstate (R78) -/

/-- The check of one lane of a query: translated as a load, without growth, without alignment, without setting A. -/
def State.checkQuery (s : State) (w : Who) (lane : Nat) (va : W64) : Chk :=
  if isHole va.toNat then .access fcHole
  else
    match s.translate w lane va.toNat 1 .query with
    | .ok t e => .ok [Piece.new t 0 0] [e]
    | .grow _ _ _ => .ok [] []
    | .fault c =>
      if c == fcNotResident then
        match s.expiredFw w none with
        | some c => .access c
        | none => .wait fun s0 => s0.stopCore w c va.toNat lane none
      else .access c
    | .miss page => .wait fun s0 => s0.waitMiss w page

/-- Query Charon's record of the part each lane addresses. The leaf's level waits in operand b of the entry. -/
def ldPgstate : Trigger := fun i s =>
  match s.who? i.g, s.group? i.g with
  | some w, some g =>
    let va := ldVa g i
    let chk (l : Nat) : Chk := s.checkQuery w l (va l)
    match gatherChecks i va chk with
    | .error r => r
    | .ok c =>
      .ok (s.onGroup i fun g =>
        let (id, g) := g.takeOrd
        let level (l : Nat) : Nat := match chk l with
          | .ok _ (some e :: _) => e.level
          | _ => 0
        let ops := c.ps.map fun (l, ps) => newLaneOp l (va l) ps 0 (w64 (level l)) 0 false
        { g with
          ldq := g.ldq ++ [{ id := id, op := .pgstate, size := 4, pc := i.pc, lanes := ops, popped := false }]
          ldr := g.ldr ++ [newEntry g id i.lanes] })
  | _, _ => .ok s

end Sys2Proof.Machine
end

