-- ==== Sys2Proof/Machine/Atom.lean ====
section
/-!
DEFINITION. Atom: the am unit at issue (R297, R300, R306, R307, R309): checks, queue entries, result entries; and the new
value of each operation.
-/

namespace Sys2Proof.Machine

/-- Does the operation push an am.r entry (R306, R309)? -/
def AmOp.returns (o : AmOp) : Bool :=
  match o with
  | .radd | .rfadd | .rmax | .acgive => false
  | .swap | .cas | .add | .band | .bor | .bxor | .min | .max | .fadd | .acinit | .actake | .acread | .acpeek | .acfree => true

/-- Is it a counter operation (R309)? -/
def AmOp.counter (o : AmOp) : Bool :=
  match o with
  | .acinit | .actake | .acgive | .acread | .acpeek | .acfree => true
  | .swap | .cas | .add | .band | .bor | .bxor | .min | .max | .fadd | .radd | .rfadd | .rmax => false

/-- Is it a returning atomic in the sense of R95: acread is one (R309), takes, gives and peeks are not (R116)? -/
def AmOp.fenced (o : AmOp) : Bool :=
  match o with
  | .acread => true
  | .acinit | .actake | .acgive | .acpeek | .acfree => false
  | .radd | .rfadd | .rmax => false
  | .swap | .cas | .add | .band | .bor | .bxor | .min | .max | .fadd => true

/-- What an operation needs of its mapping (R300 step 4). -/
def AmOp.acc (o : AmOp) : Acc :=
  match o with
  | .acread | .acpeek => .load
  | .acinit | .actake | .acgive | .acfree => .atomic
  | .swap | .cas | .add | .band | .bor | .bxor | .min | .max | .fadd | .radd | .rfadd | .rmax => .atomic

/-- A 32-bit FP32 sum rounded to nearest even, without flushing (R306). -/
def amFaddW (m t : W32) : W32 := rn32 ((f32 m).add .rne (f32 t))

/-- The new value at the location and the flag, for an operation of size bytes on old value m (R306). Counter operations do
not come here. -/
def amResult (o : AmOp) (size : Nat) (m t b : W64) : W64 × Bool :=
  let narrow (v : W64) : W64 := if size == 8 then v else zx (lo32 v)
  match o with
  | .swap => (narrow t, true)
  | .cas => if narrow m == narrow b then (narrow t, true) else (narrow m, false)
  | .add | .radd => (narrow (m + t), true)
  | .band => (narrow (m &&& t), true)
  | .bor => (narrow (m ||| t), true)
  | .bxor => (narrow (m ^^^ t), true)
  | .min => (zx (if (lo32 m).sle (lo32 t) then lo32 m else lo32 t), true)
  | .max | .rmax => (zx (if (lo32 t).sle (lo32 m) then lo32 m else lo32 t), true)
  | .fadd | .rfadd => (zx (amFaddW (lo32 m) (lo32 t)), true)
  | .acinit | .actake | .acgive | .acread | .acpeek | .acfree => (m, false)

/-- The check of one lane: as R300, and no 8-byte operation but a counter's through the private lane view (R307, R309). -/
def State.checkAm (s : State) (w : Who) (o : AmOp) (size lane : Nat) (va : W64) : Chk :=
  match s.checkLane w lane va size o.acc true with
  | .ok ps es =>
    -- R307: no am operation reaches the code window, and none of 8 bytes the lane view
    if bits va.toNat 48 8 == 0xFC || (size == 8 && !o.counter && isLaneView va.toNat) then .access fcWindowKind else .ok ps es
  | r => r

/-- An am trigger: the address in operand a, the expected value or grain in b, the scope in c, the data in the trigger
value. A covered one waits for its send window (R147, R307). -/
def amTrigger (o : AmOp) (size : Nat) : Trigger := fun i s =>
  match s.who? i.g, s.group? i.g with
  | some w, some g =>
    let va (l : Nat) : W64 := g.opnd l 0x10 0
    match gatherChecks i va fun l => s.checkAm w o size l (va l) with
    | .error r => r
    | .ok c =>
      if s.windowHeld w.core.die g.ident false c.ps then .hold
      else .ok ((s.touchAll w c.es o.acc.writes).onGroup i fun g =>
        let (id, g) := g.takeOrd
        let ops := c.ps.map fun (l, ps) => newLaneOp l (va l) ps (i.tv l) (g.opnd l 0x10 1) (g.opnd l 0x10 2) false
        let g : Group :=
          if ops.isEmpty && !o.returns then g
          else { g with
            amq := g.amq ++ [{ id := id, op := .atomic o, size := size, pc := i.pc, lanes := ops, popped := false }] }
        if o.returns then { g with amr := g.amr ++ [newEntry g id i.lanes] } else g)
  | _, _ => .ok s

def amSwap : Trigger := amTrigger .swap 4
def amSwap64 : Trigger := amTrigger .swap 8
def amCas : Trigger := amTrigger .cas 4
def amCas64 : Trigger := amTrigger .cas 8
def amAdd : Trigger := amTrigger .add 4
def amAdd64 : Trigger := amTrigger .add 8
def amAnd : Trigger := amTrigger .band 4
def amOr : Trigger := amTrigger .bor 4
def amXor : Trigger := amTrigger .bxor 4
def amMin : Trigger := amTrigger .min 4
def amMax : Trigger := amTrigger .max 4
def amFadd : Trigger := amTrigger .fadd 4
def amRadd : Trigger := amTrigger .radd 4
def amRadd64 : Trigger := amTrigger .radd 8
def amRfadd : Trigger := amTrigger .rfadd 4
def amRmax : Trigger := amTrigger .rmax 4
def amAcinit : Trigger := amTrigger .acinit 8
def amActake : Trigger := amTrigger .actake 8
def amAcgive : Trigger := amTrigger .acgive 8
def amAcread : Trigger := amTrigger .acread 8
def amAcpeek : Trigger := amTrigger .acpeek 8
def amAcfree : Trigger := amTrigger .acfree 8

end Sys2Proof.Machine
end

