-- ==== Sys2Proof/Machine/Copy.lean ====
section
/-!
DEFINITION. Copy: the cp unit at issue (R310 to R317), what the copy engine computes for an element, and the barriers that
copies count at.
-/

namespace Sys2Proof.Machine

/-! ### Barriers (R317, R344) -/

/-- Where a barrier is: of a workgroup, or of the gang of a launch. -/
inductive BarAt where
  | wg (wid : Nat)
  | gang (lid num : Nat)
  deriving DecidableEq, Repr

/-- The barrier set that a group's workgroup names: its own, or its gang's. -/
def State.barAt (s : State) (g : GRef) (cluster : Bool) : Option BarAt :=
  match s.wg? g.wg with
  | none => none
  | some w =>
    if cluster then w.gang.map fun n => .gang w.lid n
    else some (.wg w.wid)

/-- The barriers there. -/
def State.bars (s : State) : BarAt → List Barrier
  | .wg wid => match s.wg? wid with
    | some w => w.bars
    | none => []
  | .gang lid num => match s.gang? lid num with
    | some x => x.bars
    | none => []

/-- Is the number one of the barriers that the group may name (R317, R344)? -/
def State.barOk (s : State) (g : GRef) (cluster : Bool) (n : Nat) : Bool :=
  match s.barAt g cluster with
  | some b => n < (s.bars b).length
  | none => false

/-- A barrier completes when it is valid with no arrivals and no bytes missing (R346). -/
def Barrier.complete (b : Barrier) : Barrier :=
  if b.valid && b.rem == 0 && b.bytes == 0 then { b with phase := !b.phase, rem := b.n } else b

/-- Change a barrier and let its phase complete. -/
def State.modBar (s : State) (at_ : BarAt) (n : Nat) (f : Barrier → Barrier) : State :=
  let g (b : Barrier) : Barrier := (f b).complete
  match at_ with
  | .wg wid => s.modWg wid fun w => { w with bars := modAt w.bars n g }
  | .gang lid num => s.modGang lid num fun x => { x with bars := modAt x.bars n g }

/-- Add to the bytes a valid barrier's phase expects (R317). -/
def State.barBytes (s : State) (g : GRef) (cluster : Bool) (n : Nat) (d : Int) : State :=
  match s.barAt g cluster with
  | some b => s.modBar b n fun x => if x.valid then { x with bytes := (BitVec.ofInt 32 (x.bytes + d)).toInt } else x
  | none => s

/-- The groups of a barrier: is the workgroup one that may name it? -/
def BarAt.owns (b : BarAt) (w : Workgroup) : Bool :=
  match b with
  | .wg wid => w.wid == wid
  | .gang lid num => w.lid == lid && w.gang == some num

/-- What a wait on an invalid barrier writes to r: INVAL, and the phase bit as it stands (R346, log 69). -/
def Barrier.inval (b : Barrier) : W64 := if b.phase then 3 else 2

/-- Does the barrier, as it stands, end the wait, and with what result (R346)? -/
def Wait.barResult (x : Wait) (cluster : Bool) (n : Nat) (bar : Barrier) : Option W64 :=
  match x with
  | .barPhase c m token _ =>
    if c == cluster && m == n then
      if !bar.valid then some bar.inval else if bar.phase != token then some (if bar.phase then 1 else 0) else none
    else none
  | .barArrive c m _ _ => if c == cluster && m == n && !bar.valid then some bar.inval else none
  | _ => none

/-- Groups that wait at a barrier write r and go on, where its phase has changed or it has become invalid (R346). One that
is switched out does so in its image, so that it misses no completion (R347). -/
def State.releaseBar (s : State) (at_ : BarAt) (cluster : Bool) (n : Nat) : State :=
  match (s.bars at_)[n]? with
  | none => s
  | some bar =>
    { s with wgs := s.wgs.map fun w =>
        if at_.owns w then
          { w with groups := w.groups.map fun g =>
              match g.waits.findSome? (·.barResult cluster n bar) with
              | some v => (g.dropWaits fun x => (x.barResult cluster n bar).isSome).sySet v
              | none => g }
        else w }

/-! ### Shapes and jobs (R310, R311) -/

/-- A shape slot of zeros: one element of one byte. -/
def Shape.zero : Shape := ⟨0, 0, 0, 0⟩

/-- Element bytes of a shape. -/
def Shape.esize (x : Shape) : Nat := 2 ^ fld x.d 0 2

/-- A stride as the operand gives it. -/
def stride (v : W64) (hi : Bool) : Int := if hi then (hi32 v).toInt else (lo32 v).toInt

/-- The copy one lane starts. -/
def copyJob (x : Shape) (trig : Nat) (pc : W32) (lane : Nat) (src dst c d t : W64) : CopyJob where
  trig := trig
  pc := pc
  lane := lane
  src := src
  dst := dst
  n0 := if fld d 0 24 == 0 then fld x.a 0 24 + 1 else fld d 0 24
  n1 := fld x.a 24 16 + 1
  n2 := fld x.a 40 16 + 1
  s1 := stride x.b false
  s2 := stride x.b true
  d1 := stride x.c false
  d2 := stride x.c true
  esize := x.esize
  tr := x.d.getLsbD 2
  rho := fld x.d 3 4
  bar := if t.getLsbD 4 then some (t.getLsbD 5, fld c 0 5) else none
  batch := 0
  next := 0
  phobos := false

/-- Elements of a copy. -/
def CopyJob.count (j : CopyJob) : Nat := j.n0 * j.n1 * j.n2

/-- Indices of element k in element order: i0, i1, i2. -/
def CopyJob.index (j : CopyJob) (k : Nat) : Nat × Nat × Nat := (k % j.n0, k / j.n0 % j.n1, k / (j.n0 * j.n1))

/-- An address computed modulo 2^64. -/
def addrOf (v : Int) : W64 := BitVec.ofInt 64 v

/-- Source address of an element. -/
def CopyJob.srcVa (j : CopyJob) (k : Nat) : W64 :=
  let (i0, i1, i2) := j.index k
  addrOf (j.src.toNat + i0 * j.esize + i1 * j.s1 + i2 * j.s2)

/-- Destination address of an element. -/
def CopyJob.dstVa (j : CopyJob) (k : Nat) : W64 :=
  let (i0, i1, i2) := j.index k
  if j.tr then addrOf (j.dst.toNat + i1 * j.esize + i0 * j.d1 + i2 * j.d2)
  else addrOf (j.dst.toNat + i0 * j.esize + i1 * j.d1 + i2 * j.d2)

/-- The bank-rotated offset (R52). -/
def rotate (rho off : Nat) : Nat :=
  let b := off / 2048
  let j := off / 16 % 128
  let h := if rho == 0 then 0 else if rho ≤ 8 then (b >>> (rho - 1)) % 128 else ((b >>> (rho - 9)) * 17) % 128
  off - 16 * j + 16 * Nat.xor j h

/-! ### Checks at issue (R312, R317) -/

/-- The side of a copy: a scratchpad window, page-translated memory, or neither. -/
inductive Side where
  | scratch | paged | code | other
  deriving DecidableEq, Repr

/-- The class of an address (R312). -/
def sideOf (va : W64) : Side :=
  let a := va.toNat
  if isHole a then .other
  else
    let top := bits a 48 8
    if top ≤ 0xEF || top == 0xFE then .paged
    else if top == 0xFC then .code
    else if top == 0xFF && bits a 44 4 ≤ 1 then .scratch
    else .other

/-- The three directions. -/
inductive CopyDir where
  | g2s | s2g | s2s
  deriving DecidableEq, Repr

/-- Do the address classes match the trigger (R312)? -/
def CopyDir.matches (d : CopyDir) (src dst : Side) : Bool :=
  match d with
  | .g2s => (src == .paged || src == .code) && dst == .scratch
  | .s2g => src == .scratch && dst == .paged
  | .s2s => src == .scratch && dst == .scratch

/-- Is a stride a multiple of E? -/
def strideOk (e : Nat) (v : Int) : Bool := v % (e : Int) == 0

/-- The check of one lane: alignment, and then the classes (log 20). -/
def copyCheck (d : CopyDir) (j : CopyJob) : Chk :=
  let e := j.esize
  if j.src.toNat % e != 0 || j.dst.toNat % e != 0 || !(strideOk e j.s1 && strideOk e j.s2 && strideOk e j.d1 && strideOk e j.d2)
  then .misaligned
  else if !d.matches (sideOf j.src) (sideOf j.dst) then .access fcWindowKind
  else .ok [] []

/-- The address that a failing check of a copy reports: of the operand or stride that fails first (R392; log 20). -/
def copyBadVa (d : CopyDir) (j : CopyJob) : W64 :=
  let e := j.esize
  if j.src.toNat % e != 0 then j.src
  else if j.dst.toNat % e != 0 then j.dst
  else if !(strideOk e j.s1 && strideOk e j.s2) then j.src
  else if !(strideOk e j.d1 && strideOk e j.d2) then j.dst
  else if d.matches (sideOf j.src) (if d == .s2g then .paged else .scratch) then j.dst
  else j.src

/-! ### Triggers -/

/-- A channel with nothing in it. -/
def Channel.empty : Channel := ⟨[], 0⟩

/-- A copy trigger. Its trigger value is that of the lowest applying lane (R223); each applying lane starts its own copy. -/
def copyTrigger (d : CopyDir) : Trigger := fun i s =>
  match s.group? i.g, lowestLane i.width i.lanes with
  | some g, some l0 =>
    let t := i.tv l0
    let x := (g.shapes[fld t 0 2]?).getD Shape.zero
    let job (l : Nat) : CopyJob :=
      copyJob x g.ord i.pc l (g.opnd l 0x0D 0) (g.opnd l 0x0D 1) (g.opnd l 0x0D 2) (g.opnd l 0x0D 3) t
    let badBar := t.getLsbD 4 && (lanesOf i.width i.lanes).any fun l => !s.barOk i.g (t.getLsbD 5) (fld (g.opnd l 0x0D 2) 0 5)
    match gatherChecks i (fun l => copyBadVa d (job l)) fun l => copyCheck d (job l) with
    | .error r => r
    | .ok _ =>
      if badBar then .trap (precise 0x09 0x09 i.bus)
      else
        .ok (s.onGroup i fun g =>
          let (id, g) := g.takeOrd
          let ch := fld t 2 2
          { g with
            chans := modAt g.chans ch fun c => { c with jobs := c.jobs ++ (lanesOf i.width i.lanes).map job }
            cpq := g.cpq ++ [.copy id] })
  | _, _ => .ok s

def cpG2s : Trigger := copyTrigger .g2s
def cpS2g : Trigger := copyTrigger .s2g
def cpS2s : Trigger := copyTrigger .s2s

/-- Write a shape slot from the operands of the lowest applying lane. Its queue entry is free again at once. -/
def cpShape : Trigger := fun i s =>
  match lowestLane i.width i.lanes with
  | none => .ok s
  | some l =>
    .ok (s.onGroup i fun g =>
      let x : Shape := ⟨g.opnd l 0x0D 0, g.opnd l 0x0D 1, g.opnd l 0x0D 2, g.opnd l 0x0D 3⟩
      { g with shapes := setAt g.shapes (fld (i.tv l) 0 2) x })

/-- Copies of a batch that are not complete: the batch number, 0 for the open one. -/
def Group.batchJobs (g : Group) (b : Nat) : Nat := (g.chans.flatMap fun c => c.jobs.filter (·.batch == b)).length

/-- Take finished batches off the front: a batch is finished when it and every earlier one have completed (R314). Seals,
waits and copies whose work is over leave the cp queue; a batch wait that is satisfied ends. -/
def Group.settleBatches (g : Group) : Group :=
  let rec front : List Nat → List Nat
    | [] => []
    | b :: bs => if g.batchJobs b == 0 then front bs else b :: bs
  let left := front g.batches
  let gone (h : CpHold) : Bool := match h with
    | .copy t => !(g.chans.any fun c => c.jobs.any (·.trig == t))
    | .seal b => g.batchJobs b == 0
    | .wait n => left.length ≤ n
  let g := { g with batches := left, cpq := drop gone g.cpq }
  g.dropWaits fun w => match w with
    | .batch n _ => left.length ≤ n
    | _ => false

/-- The batch number after one, skipping 0 (R314). -/
def batchAfter (n : Nat) : Nat := if (n + 1) % 2 ^ 32 == 0 then 1 else (n + 1) % 2 ^ 32

/-- Close the open batch and give its number. -/
def cpSeal : Trigger := fun i s =>
  if !anyLane i.width i.lanes then .ok s
  else
    .ok (s.onGroup i fun g =>
      let b := g.nextBatch
      let (_, g) := g.takeOrd
      let g : Group := { g with
        chans := g.chans.map fun c => { c with jobs := c.jobs.map fun j => if j.batch == 0 then { j with batch := b } else j }
        nextBatch := batchAfter b
        batches := g.batches ++ [b]
        cpq := g.cpq ++ [.seal b] }
      (g.giveVar .cp i.lanes (w64 b) none).settleBatches)

/-- Wait until at most n sealed batches are unfinished. -/
def cpWait : Trigger := fun i s =>
  match lowestLane i.width i.lanes with
  | none => .ok s
  | some l =>
    let n := (lo32 (i.tv l)).toNat
    .ok (s.onGroup i fun g =>
      let (id, g) := g.takeOrd
      (({ g with cpq := g.cpq ++ [.wait n] } : Group).addWait (.batch n id)).settleBatches)

/-- The write pointer a trigger value names: of a channel of a group of the same workgroup (R316). -/
def State.writePointer (s : State) (g : GRef) (t : W64) : W64 :=
  match (s.group? ⟨g.wg, fld t 4 4⟩).bind fun o => o.chans[fld t 0 2]? with
  | some c => w64 (c.written % 2 ^ 32)
  | none => 0

/-- Read the write pointer of a channel: the read follows what the group's order puts before it, and is made when its result lands
(R87, R101, R316). -/
def cpWptr : Trigger := fun i s =>
  match lowestLane i.width i.lanes with
  | none => .ok s
  | some l => .ok (s.onGroup i fun g => g.giveVar .cp i.lanes 0 (some (i.tv l)))

/-- Add N32(A) of the lowest applying lane to the bytes a barrier expects. -/
def cpBar : Trigger := fun i s =>
  match s.group? i.g, lowestLane i.width i.lanes with
  | some g, some l =>
    let t := i.tv l
    if !s.barOk i.g (t.getLsbD 5) (fld t 0 5) then .trap (precise 0x09 0x09 i.bus)
    else
      let s := s.barBytes i.g (t.getLsbD 5) (fld t 0 5) (lo32 (g.opnd l 0x0D 0)).toNat
      match s.barAt i.g (t.getLsbD 5) with
      | some b => .ok (s.releaseBar b (t.getLsbD 5) (fld t 0 5))
      | none => .ok s
  | _, _ => .ok s

end Sys2Proof.Machine
end

