-- ==== Sys2Proof/Machine/Order.lean ====
section
/-!
DEFINITION. Order: group order, and which earlier events of its group an event waits for (R82 to R107).
-/

namespace Sys2Proof.Machine

/-- Is the entry a returning atomic, which orders like a full fence on both sides (R95)? -/
def MemEntry.fenced (e : MemEntry) : Bool :=
  match e.op with
  | .atomic o => o.fenced
  | .load _ | .store | .fence _ _ | .pgstate => false

/-- Is it a counter operation? -/
def MemEntry.counter (e : MemEntry) : Bool :=
  match e.op with
  | .atomic o => o.counter
  | .load _ | .store | .fence _ _ | .pgstate => false

/-- What the test of a wake word and the read of a write pointer wait for: acquires, fences and returning atomics before them (R87,
R95, R105). -/
def Group.syncHeld (g : Group) (id : Nat) : Bool :=
  g.acquiring id || g.fencesOut id || g.amq.any fun e => e.id < id && e.fenced && !e.lanes.all (·.done)

/-- Has every memory event and synchronisation event of the group before place id been performed: what a release waits for (R99,
R104 to R106)? A query is no event (R78). -/
def Group.performedBefore (g : Group) (id : Nat) : Bool :=
  (g.ldq.all fun e => id ≤ e.id || e.op == .pgstate || e.lanes.all (·.done)) && (g.stq.all fun e => id ≤ e.id || e.lanes.all (·.done)) &&
    (g.amq.all fun e => id ≤ e.id || e.lanes.all (·.done)) && !g.acquiring id && !g.syncsOut id && !g.fencesOut id

/-! ### Order of accesses (R82, R86, R87, R95, R97) -/

/-- An unperformed piece of an earlier event of the group. -/
structure Earlier where
  e : MemEntry
  o : LaneOp
  p : Piece

/-- The unperformed pieces of earlier events: of earlier triggers, and of lower lanes of the same one (R82). A query is none of
them (R78). -/
def Group.earlier (g : Group) (id lane : Nat) : List Earlier :=
  (g.ldq ++ g.stq ++ g.amq).flatMap fun e =>
    if e.id ≤ id && e.op != .pgstate then
      e.lanes.flatMap fun o =>
        if (e.id < id || o.lane < lane) && !o.done then (o.pieces.filter (!·.done)).map fun p => ⟨e, o, p⟩ else []
    else []

/-- Is an earlier unperformed piece ordered before a piece of entry e, lane o (R86 items 1 to 4 and 7)? Two covered operations on a
common byte follow one another through the predecessor (R148); counter operations travel under several identities (R169), so each
waits until the earlier one is done. A Rel write waits for every earlier access; at scope g, w or c a Rel store waits for earlier
reads and atomics, and that earlier stores come first is what its release waits for (R88, EarlyStore). -/
def Earlier.before (x : Earlier) (e : MemEntry) (o : LaneOp) (p : Piece) (covered : Bool) : Bool :=
  let u := x.p.kind == .u || p.kind == .u
  (x.p.overlaps p && (!x.p.sent || !covered || e.isLoad || e.counter)) || (x.p.kind == .s && p.kind == .s) ||
    (x.e.isLoad && x.o.mark && !u) || (!e.isLoad && o.mark && !u && (x.e.isLoad || p.kind == .s || 3 ≤ o.scope || x.e.op != .store)) || x.e.fenced || e.fenced

/-- Does a fence of the group that is not complete hold a piece back (R87, R305)? After a fe.rel of scope g, w or c a store waits for
the earlier reads, atomics and synchronisation events; that earlier stores come first is what its release waits for. -/
def Group.fenceHeld (g : Group) (e : MemEntry) (p : Piece) : Bool :=
  g.ldq.any fun f => f.id < e.id && match f.op with
    | .fence .rel k => !e.isLoad && !(e.op == .store && p.kind != .s && k < 3 && g.readsBefore f.id && !g.syncsOut f.id &&
        g.amq.all fun a => f.id ≤ a.id || a.lanes.all (·.done))
    | .fence .acq _ => true
    | .fence .full _ => true
    | .load _ | .store | .pgstate | .atomic _ => false

/-- May a piece be performed as far as its group's order goes? A returning atomic waits for every earlier event (R95). -/
def Group.mayPerform (g : Group) (e : MemEntry) (o : LaneOp) (p : Piece) (covered : Bool) : Bool :=
  !(g.earlier e.id o.lane).any (·.before e o p covered) && !g.fenceHeld e p && !g.acquiring e.id && !(e.fenced && g.syncsOut e.id)

/-- The scope at which an access acquires: an Acq load, a returning atomic (R88). -/
def acquireScope (e : MemEntry) (o : LaneOp) : Option Nat :=
  match e.op with
  | .load _ => if o.mark then some o.scope else none
  | .atomic _ => if e.fenced then some o.scope else none
  | .store | .fence _ _ | .pgstate => none

/-- Has an access to wait for a release that is not made yet (R88)? A returning atomic acts as a fence too (R95). -/
def State.acquireHeld (s : State) (me : GRef) (e : MemEntry) (o : LaneOp) (p : Piece) : Bool :=
  match acquireScope e o with
  | some k => s.releaseHeld me k p || (e.fenced && s.acqHeld me k)
  | none => false

/-! ### Stop points (R195) -/

/-- A wait that is recorded in the image. The others end by themselves, and then the group stops at its boundary. -/
def Wait.recorded (w : Wait) : Bool :=
  match w with
  | .redirect | .trapEntry | .growth => false
  | _ => true

/-- Is the group at its stop point? One that waits outside loops and phases is at a bundle boundary; its staged results are
recorded. -/
def Group.atStop (g : Group) : Bool :=
  g.ended || g.stopped || (!g.waits.isEmpty && g.waits.all (·.recorded) && g.phase.isNone && !g.loop.active)

/-- Does a wait end with the engine's commands (R378, R379)? -/
def Wait.onEngine (x : Wait) : Bool :=
  match x with
  | .mxWait _ _ _ | .mxBank _ | .mxReset => true
  | .queueOp _ | .barArrive _ _ _ _ | .barPhase _ _ _ _ | .batch _ _ | .wake _ _ _ _ _ _ | .xeOpen _ | .icinv _ _ | .yield _
  | .redirect | .trapEntry | .translate | .missRoom | .growth | .debug => false

/-- The same for a group of a workgroup: one that waits inside a loop for a command that a pre-emption keeps from starting (R388) stops with
that wait recorded (log 70). -/
def Workgroup.atStop (w : Workgroup) (g : Group) : Bool :=
  g.atStop || (!g.waits.isEmpty && g.waits.all (·.onEngine) && g.phase.isNone && w.nest.slots.all (·.st != .running))

end Sys2Proof.Machine
end

