-- ==== Sys2Proof/Machine/Remote.lean ====
section
/-!
DEFINITION. Remote: identities, serials and watermarks, sending and ending covered operations, answers and the result cache
(R139 to R160), and how a lane's operation ends.
-/

namespace Sys2Proof.Machine

/-! ### How a lane's operation ends -/

/-- How a lane's operation ended: DONE, or the status of the first of its pieces that failed (R160). -/
def LaneOp.status (o : LaneOp) : Nat :=
  match o.pieces.find? fun p => p.status != 0 with
  | some p => p.status
  | none => 0

/-- The queue of a group that holds an access. -/
def Group.queue (g : Group) : QSel → List MemEntry
  | .ld => g.ldq
  | .st => g.stq
  | .am => g.amq

/-- Replace it. -/
def Group.setQueue (g : Group) (q : QSel) (es : List MemEntry) : Group :=
  match q with
  | .ld => { g with ldq := es }
  | .st => { g with stq := es }
  | .am => { g with amq := es }

/-- Change one lane's operation of an entry. -/
def Group.modOp (g : Group) (q : QSel) (id lane : Nat) (f : LaneOp → LaneOp) : Group :=
  g.setQueue q (upd (fun (e : MemEntry) => e.id == id)
    (fun e => { e with lanes := upd (fun (o : LaneOp) => o.lane == lane) f e.lanes }) (g.queue q))

/-- A group of a context reports an error: a trap of it. The record names the trigger's program counter. -/
def State.post (s : State) (g : GRef) (t : TrapInfo) : State :=
  let (now, s) := s.sampleTime
  s.modGroup g fun x =>
    { x with pend := x.pend ++ [{ t with imprecise := true, exited := x.ended, time := now }] }

/-- The trap of the lanes of an entry that ended with one status: code and cause (R160, R303, R308, R417). -/
def errorCode (q : QSel) (status : Nat) : Nat × Nat :=
  match q with
  | .st => if status < 0x40 then (0x20, status) else (0x21, status)
  | .ld => (0x21, status)
  | .am => (0x21, status)

/-- Statuses other than DONE of an entry's pieces, each with the place of the piece in its lane's access. -/
def MemEntry.errors (e : MemEntry) : List (Nat × Nat) :=
  dedup (e.lanes.flatMap fun o => ((List.range o.pieces.length).zip o.pieces).filterMap fun (i, p) =>
    if p.status != 0 then some (p.status, i) else none)

/-- Post a trap for each status other than DONE among the pieces of an entry: lanes that failed alike share one. -/
def State.postErrors (s : State) (g : GRef) (q : QSel) (e : MemEntry) : State :=
  e.errors.foldl (fun s (st, i) =>
    let bad := e.lanes.filterMap fun o => (o.pieces[i]?).bind fun p => if p.status == st then some (o, p) else none
    match bad, s.group? g with
    | (o, p) :: _, some grp =>
      let (code, cause) := errorCode q st
      let info : TrapInfo :=
        { precise code cause 7 with
          lane := o.lane, lanes := maskOf 64 fun l => bad.any fun x => x.1.lane == l, addr := o.va + w64 p.off, pc := e.pc
          info0 := if code == 0x21 then w64 (grp.ident % 2 ^ 30 + p.serial.getD 0 * 2 ^ 32) else 0
          info1 := if code == 0x21 then w64 p.stamp else 0 }
      s.post g info
    | _, _ => s) s

/-- Entries of the am queue all of whose lanes are done: an operation without results leaves its queue; errors are reported
(R307, R308). A returning one stays until it is popped and has landed. -/
def State.settleAm (s : State) (g : GRef) (id : Nat) : State :=
  match (s.group? g).bind fun grp => grp.amq.find? fun (e : MemEntry) => e.id == id with
  | none => s
  | some e =>
    if e.lanes.all (·.done) then
      let s := s.postErrors g .am e
      match e.op with
      | .atomic o =>
        if o.returns then s
        else s.modGroup g fun grp => { grp with amq := drop (fun (x : MemEntry) => x.id == id) grp.amq }
      | _ => s
    else s

/-! ### Wake-word waits (R348) -/

/-- Has the group an unperformed write of its own that touches a byte of a word? -/
def Group.writesPending (g : Group) (pa len : Nat) : Bool :=
  let touches (p : Piece) : Bool := !p.done && match p.target with
    | .phys a _ _ _ => a < pa + len && pa < a + p.len
    | .scratch _ _ => false
  (g.stq ++ g.amq).any fun e => e.lanes.any fun o => o.pieces.any touches

/-- The word a wake-word wait compares: 8 bytes at pa, or in the private lane view two words one row apart (R22, R23). -/
def State.wakeWord (s : State) (ctx : Nat) (va : W64) (pa : Nat) : W64 :=
  let hi := if isLaneView va.toNat then pa + 256 else pa + 4
  w64 (bytesNat (s.readPhys none ctx pa 4 ++ s.readPhys none ctx hi 4))

/-- Does a group's wake-word wait end with MET: its word satisfies the comparison now. The group's own earlier writes to
the word come first (R86 item 1), and what else the group's order puts before the test (R87); the wake is delivered only after
the earlier writes of the group that wrote the word (R107). -/
def State.wakeMet (s : State) (ctx : Nat) (g : Group) (x : Wait) : Bool :=
  match x with
  | .wake va pa cmp v _ ord =>
    let hi := if isLaneView va.toNat then pa + 256 else pa + 4
    !g.writesPending pa 4 && !g.writesPending hi 4 && !g.syncHeld ord && !s.unreleased pa 4 && !s.unreleased hi 4 &&
      cmp.holds (s.wakeWord ctx va pa) v
  | _ => false

/-- Acquiring fences that waited for a release are tested again (R88). -/
def State.settleAll (s : State) : State :=
  let fenced (g : Group) : Bool := g.ldq.any (·.op.isFence)
  let settle (wid : Nat) (g : Group) : Group := if fenced g then g.settleFences (s.acqHeld ⟨wid, g.gi⟩) else g
  if !(s.wgs.any fun w => w.groups.any fenced) then s
  else { s with wgs := s.wgs.map fun w => { w with groups := w.groups.map (settle w.wid) } }

/-- Test every wake-word wait of a resident group against memory as it stands (R348), and every fence: called whenever memory may have
been written. -/
def State.wakeAll (s : State) : State :=
  let s := s.settleAll
  { s with wgs := s.wgs.map fun w =>
      if w.out then w
      else { w with groups := w.groups.map fun g =>
        if g.waits.any (s.wakeMet w.ctx g) then (g.dropWaits (s.wakeMet w.ctx g)).sySet 0 else g } }

/-! ### The end of a piece -/

/-- A piece of a lane's operation is over: with a status, the value found for its bytes, and the flag. The lane is done when
every piece is. -/
def State.finishPiece (s : State) (p : PieceRef) (status : Nat) (val : W64) (flag poison : Bool) : State :=
  let f (o : LaneOp) : LaneOp :=
    let pieces := modAt o.pieces p.piece fun x => { x with done := true, status := status }
    let off := match o.pieces[p.piece]? with
      | some x => x.off
      | none => 0
    { o with
      pieces := pieces
      val := if status == 0 then o.val ||| (val <<< (8 * off)) else o.val
      flag := status == 0 && flag
      poison := o.poison || poison
      done := pieces.all (·.done) }
  let s := s.modGroup p.g fun g => (g.modOp p.q p.id p.lane f).settleFences (s.acqHeld p.g)
  let s := if p.q == .am then s.settleAm p.g p.id else s
  -- a wake that waited for this operation may be delivered now
  s.wakeAll

/-- The entry, lane and piece that a reference names. -/
def State.pieceAt (s : State) (p : PieceRef) : Option (Workgroup × Group × MemEntry × LaneOp × Piece) := do
  let w ← s.wg? p.g.wg
  let g ← w.group? p.g.gi
  let e ← (g.queue p.q).find? fun (e : MemEntry) => e.id == p.id
  let o ← e.lanes.find? fun (o : LaneOp) => o.lane == p.lane
  let x ← o.pieces[p.piece]?
  return (w, g, e, o, x)

/-! ### Incarnations and routes (R154, R417) -/

/-- The incarnation a die has recorded for a home (R154). -/
def State.incOf (s : State) (die : Nat) (h : HomeId) : Option Nat :=
  (s.incTable.find? fun (x : Nat × HomeId × Nat) => x.1 == die && x.2.1 == h).map (·.2.2)

/-- Has the die a route to a device (R417)? This device needs none. -/
def State.routed (s : State) (dev : Nat) : Bool :=
  dev == s.plat.devNum || s.routes.any fun (x : Nat × Nat) => x.1 == dev && x.2 != 0

/-- The port that traffic to a device uses: the first port of its mask that is up, in the order in which ports came up, so that it
stays in use while it is up (R417). -/
def State.usePort (s : State) (dev : Nat) : Option Nat :=
  match s.routes.find? fun (x : Nat × Nat) => x.1 == dev with
  | some (_, mask) => (s.ports.find? fun p => bit mask p.num && p.up).map (·.num)
  | none => none

/-- Does a port take flits of a virtual lane: it is up, and its receiver has not signalled stop (R416)? -/
def State.portOpen (s : State) (n vl : Nat) : Bool := s.ports.any fun p => p.num == n && p.up && !p.stop.contains vl

/-- May flits of a virtual lane go to a device (R416, R417)? Homes of this device are reached over the mesh. -/
def State.laneOpen (s : State) (dev vl : Nat) : Bool :=
  dev == s.plat.devNum || match s.usePort dev with
    | some n => s.portOpen n vl
    | none => false

/-- The virtual lane of a packet: requests, responses, and posted messages (R416). -/
def PktKind.lane (k : PktKind) : Nat :=
  match k with
  | .request _ _ _ => 0
  | .answer _ _ _ _ => 1
  | .notice _ => 2

/-- May a packet be delivered: over the mesh, or as the oldest of its virtual lane on its link, which keeps the order (R416)? -/
def State.deliverable (s : State) (p : Packet) : Bool :=
  match p.port with
  | none => p.home.device == s.plat.devNum
  | some n => s.portOpen n p.kind.lane &&
    (s.packets.find? fun (x : Packet) => x.port == some n && x.kind.lane == p.kind.lane) == some p

/-! ### Packets (R141) -/

/-- Packet lifetime in ns. -/
def packetLife : Nat := 1000000

/-- Put a packet on its way. -/
def State.sendPacket (s : State) (ref : OpRef) (home : HomeId) (slice : Nat) (k : PktKind) : State :=
  let p : Packet :=
    { pid := s.nextPkt, ref := ref, home := home, slice := slice, sentAt := s.time, kind := k
      port := if home.device == s.plat.devNum then none else s.usePort home.device }
  { s with nextPkt := s.nextPkt + 1, packets := s.packets ++ [p] }

/-- Forget a packet. -/
def State.dropPacket (s : State) (pid : Nat) : State := { s with packets := drop (fun (p : Packet) => p.pid == pid) s.packets }

/-! ### Tracked slices (R151) -/

/-- The slices an identity tracks: with the living group that has it, otherwise apart. -/
def State.trackedOf (s : State) (ident : Nat) : List Tracked :=
  match (s.holder? ident).bind s.group? with
  | some g => g.tracked
  | none => (s.dieTracked.filter fun (x : Nat × Tracked) => x.1 == ident).map (·.2)

/-- Replace them. -/
def State.setTracked (s : State) (ident : Nat) (ts : List Tracked) : State :=
  match s.holder? ident with
  | some g => s.modGroup g fun x => { x with tracked := ts }
  | none => { s with dieTracked := drop (fun (x : Nat × Tracked) => x.1 == ident) s.dieTracked ++ ts.map (ident, ·) }

/-- Send a watermark-only notice. -/
def State.sendNotice (s : State) (ident : Nat) (t : Tracked) : State :=
  s.sendPacket ⟨ident, 0⟩ t.home t.slice (.notice (s.watermark ident))

/-- Send a notice to every slice an identity tracks, in place of any wait still running. -/
def State.sendNotices (s : State) (ident : Nat) : State :=
  ((s.trackedOf ident).foldl (fun s t => s.sendNotice ident t) s).setTracked ident []

/-- A final response has come from a slice: track it; the oldest of 16 gives way with a notice. -/
def State.track (s : State) (ident : Nat) (home : HomeId) (slice : Nat) : State :=
  let ts := (s.trackedOf ident).filter fun t => !(t.home == home && t.slice == slice)
  let new : Tracked := { home := home, slice := slice, since := s.time }
  match ts with
  | t :: rest => if ts.length < 16 then s.setTracked ident (ts ++ [new]) else (s.sendNotice ident t).setTracked ident (rest ++ [new])
  | [] => s.setTracked ident [new]

/-! ### Sending (R145 to R148, R152) -/

/-- Send, or send again, an outstanding operation with its current watermark. -/
def State.transmit (s : State) (o : CovOp) : State :=
  s.sendPacket o.ref o.home o.slice (.request o.stamp o.pred (s.watermark o.ref.ident))

/-- Send a covered operation of an identity from a die to a home slice. -/
def State.sendCovered (s : State) (ident ctx die : Nat) (home : HomeId) (slice stamp : Nat) (body : OpBody) : State :=
  let serial := s.nextSerial ident
  let pred := ((s.covOps.filter fun (o : CovOp) => o.ref.ident == ident && o.home == home && o.slice == slice).map
    (·.ref.serial)).getLast?
  let op : CovOp :=
    { ref := ⟨ident, serial⟩, ctx := ctx, die := die, home := home, slice := slice, stamp := stamp, pred := pred, body := body,
      st := .sent, due := s.time + 32000, firstSent := s.time, lastSent := s.time, interval := 32000, answered := false,
      nonBusy := false, incCause := false }
  let s := (s.bumpSerial ident).setTracked ident
    (drop (fun (t : Tracked) => t.home == home && t.slice == slice) (s.trackedOf ident))
  let s : State := { s with covOps := s.covOps ++ [op] }
  s.transmit op

/-! ### At the home: result cache and answers (R148, R149) -/

/-- The incarnation of a home: of this device's own, or of a peer's. -/
def State.homeInc (s : State) (h : HomeId) : Option Nat :=
  if h.device == s.plat.devNum then s.incs[h.die]? else (s.peerIncs.find? fun (x : HomeId × Nat) => x.1 == h).map (·.2)

/-- Is an entry still in use (R149)? -/
def RCEntry.live (e : RCEntry) (clock : Nat) : Bool :=
  match e.retire with
  | some t => clock < t
  | none => true

/-- The entry of an operation in the result cache of a slice. -/
def State.cached? (s : State) (home : HomeId) (slice : Nat) (ref : OpRef) : Option RCEntry :=
  s.results.find? fun (e : RCEntry) => e.home == home && e.slice == slice && e.ref == ref && e.live s.time

/-- Is the operation in the queue of its counter (R149)? -/
def State.queuedAtCounter (s : State) (ref : OpRef) : Bool :=
  s.counters.any fun c => c.waiting.any fun r => match r with
    | .grant _ _ _ a => a == .op ref
    | .op _ _ _ _ a => a == .op ref

/-- Where an operation of a peer at a home of this device has its home slice: that of its first byte. -/
def State.peerHome (s : State) (x : ExtWait) : HomeId × Nat :=
  let h := s.homeSlice (x.pas.headD 0)
  (⟨s.plat.devNum, h.die⟩, h.slice)

/-- Operations that wait at counters and will need an entry of a slice's result cache. -/
def State.entriesDue (s : State) (home : HomeId) (slice : Nat) : Nat :=
  (s.covOps.filter fun (o : CovOp) => o.home == home && o.slice == slice && s.queuedAtCounter o.ref).length +
    (s.peerOps.filter fun o => s.peerHome o.x == (home, slice) && s.queuedAtCounter o.ref).length

/-- Is there a free entry among the slice's 512? -/
def State.cacheRoom (s : State) (home : HomeId) (slice : Nat) : Bool :=
  (s.results.filter fun (e : RCEntry) => e.home == home && e.slice == slice && e.live s.time).length + s.entriesDue home slice < 512

/-- Has the predecessor of a request been executed, as the slice sees it (R148)? Of a die allowance cache one that waits at its counter
counts: the amounts that the counter recalls come behind it (R170, log 65). -/
def State.predDone (s : State) (p : Packet) (pred : Option Nat) (wm : Nat) : Bool :=
  match pred with
  | none => true
  | some n => (s.cached? p.home p.slice ⟨p.ref.ident, n⟩).isSome || serialLater n wm || (identIsCache p.ref.ident && s.queuedAtCounter ⟨p.ref.ident, n⟩)

/-- Give entries earlier than a watermark their retirement time (R149). -/
def State.retireBelow (s : State) (home : HomeId) (slice ident wm : Nat) : State :=
  { s with results := s.results.map fun (e : RCEntry) =>
      if e.home == home && e.slice == slice && e.ref.ident == ident && serialLater e.ref.serial wm && e.retire.isNone then
        { e with retire := some (s.time + packetLife) } else e }

/-- Send an answer: to a requester of this device as a packet, to another device's over the fabric. -/
def State.reply (s : State) (home : HomeId) (slice : Nat) (ref : OpRef) (status : Nat) (val : W64) (flag busy : Bool) : State :=
  if (s.covOps.any fun (o : CovOp) => o.ref == ref) || identDev ref.ident == s.plat.devNum then
    s.sendPacket ref home slice (.answer status val flag busy)
  else s.note (.peerAnswer ref status val flag busy)

/-- Keep a result and answer it. -/
def State.answer (s : State) (home : HomeId) (slice : Nat) (ref : OpRef) (status : Nat) (val : W64) (flag : Bool) : State :=
  let inc := (s.homeInc home).getD 0
  let kept := drop (fun (e : RCEntry) => e.home == home && e.slice == slice && !e.live s.time) s.results
  let e : RCEntry :=
    { home := home, slice := slice, ref := ref, inc := inc, status := status, val := val, flag := flag, retire := none }
  ({ s with results := kept ++ [e], peerOps := drop (fun (o : PeerOp) => o.ref == ref) s.peerOps } : State).reply home slice ref
    status val flag false

/-- An operation that waited at a home is over there: its answer is sent, or, on the home's own die, it ends at once with its status,
value and flag. -/
def State.endForwarded (s : State) (a : Asker) (status : Nat) (val : W64) (flag : Bool) : State :=
  match a with
  | .lane p => s.finishPiece p status val flag false
  | .op r =>
    match s.covOps.find? fun (o : CovOp) => o.ref == r with
    | some o => s.answer o.home o.slice r status val flag
    | none =>
      match s.peerOps.find? fun o => o.ref == r with
      | some o => s.answer (s.peerHome o.x).1 (s.peerHome o.x).2 r status val flag
      | none => s

/-! ### Which operations are covered (R139) -/

/-- The home of an address as a covered operation names it: this device's die, or a peer's home. The peer's device number is
PA[49:40]; its home die is not visible here and PA[17:16] stands for it (log 28). -/
def State.homeOf (s : State) (pa : Nat) : HomeId × Nat :=
  if paClass pa == 2 then (⟨bits pa 40 10, bits pa 16 2⟩, sliceOfLine (bits pa 7 33))
  else
    let h := s.homeSlice pa
    (⟨s.plat.devNum, h.die⟩, h.slice)

end Sys2Proof.Machine
end

