-- ==== Sys2Proof/Machine/Control.lean ====
section
/-!
DEFINITION. Control: the sy unit (R330 to R356, R397): transfers, mark and join, calls, loops, barriers, wake-word waits,
time, checks, and the return from the trap handler.
-/

namespace Sys2Proof.Machine

/-- A control trap (R332). -/
def control (cause bus : Nat) : TrapInfo := precise 0x09 cause bus

/-- The group, its launch and the lowest lane where the trigger applies. -/
def State.sySelf (s : State) (i : TrigIn) : Option (Group × Launch × Nat) := do
  let g ← s.group? i.g
  let l ← s.launchOf? i.g
  let n ← lowestLane i.width i.lanes
  return (g, l, n)

/-- Is a text offset a valid target (R333)? -/
def Launch.validTarget (l : Launch) (o : W32) : Bool := o.toNat % 4 == 0 && o.toNat < l.hdr.textLen

/-- Transfer control to a text offset, after the bundle's pad (R335). -/
def Group.goTo (g : Group) (l : Launch) (o : W32) : Group := { g with target := some (l.textBase + zx o) }

/-- A sy trigger that changes its group only. -/
def syGroup (f : Group → Launch → Nat → Except TrapInfo Group) : Trigger := fun i s =>
  match s.sySelf i with
  | none => .ok s
  | some (g, l, n) =>
    match f g l n with
    | .ok g => .ok (s.setGroup i.g g)
    | .error t => .trap t

/-! ### Jumps, branches, mark, join (R334 to R337) -/

def syJmp : Trigger := fun i s =>
  syGroup (fun g l n =>
    let o := lo32 (i.tv n)
    if !l.validTarget o then .error (control 0x06 i.bus) else .ok (g.goTo l o)) i s

def syBr : Trigger := fun i s =>
  syGroup (fun g l n =>
    let o := lo32 (i.tv n)
    if !l.validTarget o then .error (control 0x06 i.bus)
    else if i.lanes == g.k0 then .ok (g.goTo l o)
    else if 32 ≤ g.mj.length then .error (control 0x01 i.bus)
    else
      let e : MJEntry := ⟨.pending, i.next, g.k0 &&& ~~~i.lanes⟩
      .ok ((({ g with mj := e :: g.mj } : Group).setK 0 i.lanes).goTo l o)) i s

def syMark : Trigger := fun i s =>
  syGroup (fun g l n =>
    let o := lo32 (i.tv n)
    if !l.validTarget o then .error (control 0x06 i.bus)
    else if 32 ≤ g.mj.length then .error (control 0x01 i.bus)
    else .ok { g with mj := ⟨.rejoin, o, g.k0⟩ :: g.mj }) i s

def syJoin : Trigger := fun i s =>
  syGroup (fun g l _ =>
    match g.mj with
    | [] => .error (control 0x02 i.bus)
    | e :: rest =>
      if e.kind == .callJoin || e.kind == .callPend then .error (control 0x05 i.bus)
      else .ok ((({ g with mj := rest } : Group).setK 0 e.mask).goTo l e.addr)) i s

/-! ### Calls and returns (R338, R339) -/

/-- A return-stack entry as a word. -/
def RetEntry.word (e : RetEntry) : W64 := w64 (e.ra.toNat + e.depth * 2 ^ 32 + b2n e.ser * 2 ^ 38)

/-- A word as a return-stack entry. -/
def retOf (w : W64) : RetEntry := ⟨lo32 w, fld w 32 6, w.getLsbD 38⟩

/-- Offset of the spill area in the group area (R395). -/
def spillOff : Nat := 0x1000

/-- What an access to the group area by the device comes to: a physical address, the precise trap, or a wait. -/
inductive AreaRes where
  | at_ (pa : Nat) (s : State)
  | fail (r : TrigRes)

/-- Reach an offset of the group area for a bundle in its check (R339, R45). -/
def State.reachArea (s : State) (i : TrigIn) (off : Nat) : AreaRes :=
  match s.who? i.g with
  | none => .fail (.ok s)
  | some w =>
    match s.groupArea w off true with
    | (.ok pa, s) => .at_ pa s
    | (.error c, _) =>
      let trap (c : Nat) : TrigRes := .trap { precise 0x07 c i.bus with addr := w64 (groupVa off) }
      if c == fcPoolEmpty || c == fcNotResident then
        match s.expiredFw w none with
        | some c => .fail (trap c)
        | none => .fail (.wait fun s0 => s0.stopCore w c (groupVa off) 0 none)
      else .fail (trap c)

/-- Push a return-stack entry; with all 16 in use the oldest 8 are spilled first. -/
def pushRet (i : TrigIn) (s : State) (e : RetEntry) (f : Group → Group) : TrigRes :=
  match s.group? i.g, s.wg? i.g.wg with
  | some g, some w =>
    if g.ras.length < 16 then .ok (s.setGroup i.g (f { g with ras := e :: g.ras }))
    else if 1024 < g.spilled + 8 then .trap (control 0x03 i.bus)
    else
      match s.reachArea i (spillOff + 8 * g.spilled) with
      | .fail r => r
      | .at_ pa s =>
        let old := (g.ras.drop 8).reverse
        let s := s.deviceWrite w.core w.ctx pa (wordsBytes (old.map (·.word)))
        .ok (s.setGroup i.g (f { g with ras := e :: g.ras.take 8, spilled := g.spilled + 8 }))
  | _, _ => .ok s

/-- The 8 most recently spilled entries, newest first, when none is on chip. -/
def refillRet (i : TrigIn) (s : State) (g : Group) (ctx : Nat) : Except TrigRes (Group × State) :=
  if !g.ras.isEmpty || g.spilled == 0 then .ok (g, s)
  else
    match s.reachArea i (spillOff + 8 * (g.spilled - 8)) with
    | .fail r => .error r
    | .at_ pa s =>
      let es := (List.range 8).map fun k => retOf (w64 (bytesNat (s.readPhys none ctx (pa + 8 * k) 8)))
      .ok ({ g with ras := es.reverse, spilled := g.spilled - 8 }, s)

/-- The distinct targets of a call, ascending, with the lanes of each. -/
def callTargets (g : Group) (i : TrigIn) : List (W32 × Mask) :=
  let ls := lanesOf i.width i.lanes
  let ts := sortBy id (dedup (ls.map fun l => (lo32 (g.opnd l 0x12 0)).toNat))
  ts.map fun t => (w32 t, maskOf i.width fun l => i.lanes.getLsbD l && (lo32 (g.opnd l 0x12 0)).toNat == t)

def syCall : Trigger := fun i s =>
  match s.sySelf i with
  | none => .ok s
  | some (g, l, _) =>
    match callTargets g i with
    | [] => .ok s
    | (t1, m1) :: rest =>
      if !l.validTarget t1 || rest.any (fun x => !l.validTarget x.1) then .trap (control 0x06 i.bus)
      else if i.lanes == g.k0 && rest.isEmpty then
        pushRet i s ⟨i.next, g.mj.length, false⟩ fun g => g.goTo l t1
      else if 32 < g.mj.length + 1 + rest.length then .trap (control 0x01 i.bus)
      else
        let pend : List MJEntry := rest.map fun x => ⟨.callPend, x.1, x.2⟩
        let mj := pend ++ [⟨.callJoin, i.next, g.k0⟩] ++ g.mj
        pushRet i s ⟨i.next, mj.length, true⟩ fun g => (({ g with mj := mj } : Group).setK 0 m1).goTo l t1

def syRet : Trigger := fun i s =>
  match s.sySelf i, s.wg? i.g.wg with
  | some (g, l, _), some w =>
    match refillRet i s g w.ctx with
    | .error r => r
    | .ok (g, s) =>
      match g.ras with
      | [] => .trap (control 0x04 i.bus)
      | e :: rest =>
        if e.depth != g.mj.length then .trap (control 0x05 i.bus)
        else
          let g : Group := { g with ras := rest }
          if !e.ser then .ok (s.setGroup i.g (g.goTo l e.ra))
          else
            match g.mj with
            | [] => .ok (s.setGroup i.g (g.goTo l e.ra))
            | f :: mj =>
              let g := ({ g with mj := mj } : Group).setK 0 f.mask
              if f.kind == .callPend then
                .ok (s.setGroup i.g (({ g with ras := ⟨e.ra, mj.length, true⟩ :: g.ras } : Group).goTo l f.addr))
              else .ok (s.setGroup i.g (g.goTo l e.ra))
  | _, _ => .ok s

/-! ### Hardware loops (R340 to R342) -/

/-- Start a loop. One that starts while HANDLER is 1 leaves k8 to k15 as they are, and they stay so after rfe until the next end check
(R341, R396, log 71). -/
def syLoop : Trigger := fun i s =>
  syGroup (fun g l n =>
    let len := fld (g.opnd n 0x12 0) 0 24
    let stages := fld (g.opnd n 0x12 1) 0 4
    let trips := (lo32 (i.tv n)).toNat
    let s0 := i.next.toNat
    if g.loop.active || stages == 0 || 8 < stages || len == 0 || len % 4 != 0 || l.hdr.textLen < s0 + len then
      .error (control 0x07 i.bus)
    else if trips == 0 then .ok (g.goTo l (w32 (s0 + len)))
    else
      let g : Group :=
        { g with loop := { active := true, s0 := s0, len := len, stages := stages, n := trips, b := 0, u := trips, j := 0 } }
      .ok (if g.handler then g.drain else g.drain.driveStages)) i s

def syBrk : Trigger := fun i s =>
  syGroup (fun g l _ =>
    if g.loop.active then .ok (g.endLoop.goTo l (w32 (g.loop.s0 + g.loop.len))) else .ok g) i s

/-! ### Barriers (R344 to R346) -/

/-- Is a group waiting at the barrier? -/
def State.barWaited (s : State) (at_ : BarAt) (cluster : Bool) (n : Nat) : Bool :=
  s.wgs.any fun w => at_.owns w && w.groups.any fun g => g.waits.any fun x => match x with
    | .barPhase c m _ _ => c == cluster && m == n
    | .barArrive c m _ _ => c == cluster && m == n
    | _ => false

/-- A barrier trigger: the barrier's place, its number, and what to do there. -/
def barTrigger (cluster : Bool) (f : TrigIn → State → BarAt → Nat → Barrier → Nat → TrigRes) : Trigger := fun i s =>
  match lowestLane i.width i.lanes with
  | none => .ok s
  | some l =>
    let n := fld (i.tv l) 0 5
    match s.barAt i.g cluster with
    | none => .trap (control 0x09 i.bus)
    | some b =>
      match (s.bars b)[n]? with
      | none => .trap (control 0x09 i.bus)
      | some x => f i s b n x l

/-- Initialise a barrier for N arrivals per phase (R345). -/
def barInit (cluster : Bool) : Trigger :=
  barTrigger cluster fun i s b n _ l =>
    let arrivals := match s.group? i.g with
      | some g => fld (g.opnd l 0x12 0) 0 16
      | none => 0
    if arrivals == 0 || (if cluster then 384 else 16) < arrivals then .trap (control 0x09 i.bus)
    else if s.barWaited b cluster n then .trap (control 0x0A i.bus)
    else
      .ok ((s.modBar b n fun _ => { valid := true, n := arrivals, rem := arrivals, bytes := 0, phase := false }).onGroup i
        fun g => g.sySet 0)

/-- Invalidate a barrier and complete every waiting arrival and wait with INVAL (R345). -/
def barInv (cluster : Bool) : Trigger :=
  barTrigger cluster fun i s b n _ _ =>
    .ok (((s.modBar b n fun x => { x with valid := false }).releaseBar b cluster n).onGroup i fun g => g.sySet 0)

/-- An arrival (R346): its group waits until it has been performed, and with stay until the phase has completed. -/
def barArrive (cluster stay : Bool) : Trigger :=
  barTrigger cluster fun i s _ n x _ =>
    .ok (s.onGroup i fun g =>
      let (id, g) := g.takeOrd
      if x.valid then g.addWait (.barArrive cluster n stay id) else g.sySet x.inval)

def syBar : Trigger := barArrive false true
def syBarar : Trigger := barArrive false false
def syCbar : Trigger := barArrive true true
def syCbarar : Trigger := barArrive true false
def syBarinit : Trigger := barInit false
def syCbarinit : Trigger := barInit true
def syBarinv : Trigger := barInv false
def syCbarinv : Trigger := barInv true

/-- Wait until the named barrier's phase differs from the token in bit [6]; bit [5] selects a cluster barrier. -/
def syBarwt : Trigger := fun i s =>
  match lowestLane i.width i.lanes with
  | none => .ok s
  | some l =>
    let t := i.tv l
    barTrigger (t.getLsbD 5) (fun i s b n _ _ =>
      .ok ((s.onGroup i fun g => g.takeOrd.2.addWait (.barPhase (t.getLsbD 5) n (t.getLsbD 6) g.ord)).releaseBar b
        (t.getLsbD 5) n)) i s

/-! ### Wake-word waits and time (R348, R349) -/

def syWait : Trigger := fun i s =>
  match s.sySelf i, s.who? i.g with
  | some (g, _, l), some w =>
    let va := g.opnd l 0x12 0
    let one : TrigIn := { i with lanes := maskOf i.width (· == l) }
    match gatherChecks one (fun _ => va) fun k => s.checkLane w k va 8 .load false with
    | .error r => r
    | .ok c =>
      let s := s.touchAll w c.es false
      let t := i.tv l
      let deadline := if fld t 16 32 == 0 then none else some (s.time + fld t 16 32 * 1000)
      if va.toNat % 8 != 0 then .trap { precise 0x06 0 i.bus with addr := va, lane := l, lanes := one.lanes }
      else
        let first : Option Target := (c.ps.flatMap fun (x : Nat × List Piece) => x.2.map (·.target)).head?
        match first with
        | some (.phys pa _ tpage _) =>
          if tpage || paClass pa != 0 then .ok (s.onGroup i fun g => g.sySet 2)
          else
            .ok (s.onGroup i fun g =>
              g.takeOrd.2.addWait (.wake va pa (wakeCmpOf (fld t 0 2)) (g.opnd l 0x12 1) deadline g.ord)).wakeAll
        | _ => .ok (s.onGroup i fun g => g.sySet 2)
  | _, _ => .ok s

def syTime : Trigger := fun i s =>
  match lowestLane i.width i.lanes with
  | none => .ok s
  | some _ =>
    match s.group? i.g with
    | none => .ok s
    | some g =>
      let (t, s) := s.groupTime g
      .ok (s.onGroup i fun g => { g.sySet (w64 t) with sampledAt := s.clock, issues := 0 })

/-! ### Traps, checks, signatures (R350 to R352) -/

/-- The explicit trap: noted with the group, and taken at the boundary directly after the bundle (R391). -/
def syTrap : Trigger := fun i s =>
  match s.sySelf i with
  | none => .ok s
  | some (g, _, l) =>
    let t := i.tv l
    let (now, s) := s.sampleTime
    let info : TrapInfo :=
      { precise 0x0B (fld t 0 8) i.bus with
        lane := l, lanes := i.lanes, pc := i.pc, addr := w64 (fld t 0 16), info0 := g.opnd l 0x12 0, info1 := g.opnd l 0x12 1,
        time := now }
    .ok (s.onGroup i fun g => { g with pend := g.pend ++ [info] })

/-- Read the check-interval register; what T[0] = 1 does beyond that happens at the check point (R410). -/
def syChkerr : Trigger := fun i s =>
  syGroup (fun g _ _ => .ok (g.sySet g.check)) i s

/-- A segchk that matched: a new segment, and SEGOK rises (R352, R409). -/
def sySegchk : Trigger := fun i s =>
  syGroup (fun g _ _ =>
    .ok { g with segCount := 0, segSig := 0, check := pair (lo32 g.check) (hi32 g.check + 1) }) i s

/-! ### End, code, status (R354 to R356) -/

def syEnd : Trigger := fun i s => syGroup (fun g _ _ => .ok { g with ended := true }) i s

def syIcinv : Trigger := fun i s =>
  syGroup (fun g _ n =>
    let len := (lo32 (i.tv n)).toNat
    if len == 0 then .ok g else .ok (g.takeOrd.2.addWait (.icinv (g.opnd n 0x12 0) len))) i s

/-- The group status word (R202). -/
def Group.status (g : Group) (l : Launch) : W64 :=
  w64 (b2n g.il + 2 * b2n g.loop.active + 4 * b2n g.handler + 8 * g.mj.length + 512 * g.ras.length + 16384 * l.lrec.width)

def syGstat : Trigger := fun i s => syGroup (fun g l _ => .ok (g.sySet (g.status l))) i s

def syTrec : Trigger := fun i s =>
  syGroup (fun g _ n =>
    let v := match g.lastRec with
      | some ws => ws[(lo32 (i.tv n)).toNat % 8]?.getD 0
      | none => 0
    .ok (g.sySet v)) i s

/-- Leave candidacy for a number of clocked cycles (R356). -/
def syYield : Trigger := fun i s =>
  syGroup (fun g _ n =>
    let cycles := (lo32 (i.tv n)).toNat % 1024
    if g.phase.isSome then .ok g
    else if cycles == 0 then .ok { g with promoted := false, waited := 0 }
    else .ok (({ g with promoted := false, waited := 0 } : Group).addWait (.yield (s.clocked + clockedCycles cycles)))) i s

def syDbg : Trigger := fun i s =>
  match s.sySelf i with
  | none => .ok s
  | some (_, l, n) =>
    if (s.ctx l.ctx).debugger then .ok (s.onGroup i fun g => { g with dbgReq := some (w64 (fld (i.tv n) 0 16)) }) else .ok s

/-! ### Return from the handler (R397) -/

/-- Restore the frame. The remaining pad issues belong to the interrupted bundle, and its end check comes after them (R391); a RESUME
that the handler has changed is fetched unless that check goes elsewhere. With no bundle interrupted, a pad that the handler has put
into the frame runs at RESUME (log 21). -/
def Group.leaveHandler (g : Group) (l : Launch) (frame : List W64) : Group :=
  let f (k : Nat) : W64 := frame[k]?.getD 0
  let resume := lo32 (f 9)
  let pad := fld (f 9) 32 4
  let latches := (List.range 6).map fun b => latchOf (f (10 + 2 * b)) (f (11 + 2 * b))
  let kept := g.trapPad
  let g := (List.range 8).foldl (fun (g : Group) k => g.setS k (f k)) g
  let g := { (g.setK 0 (f 8)).interlock with latches := latches, handler := false, trapPad := none }
  let tb := l.textBase
  match kept with
  | none => { g with pad := pad, padPc := tb + zx resume, padLen := 0, target := some (tb + zx resume), endDue := false }
  | some (pc, len, target) =>
    let changed := resume != l.textOffset (target.getD (pc + w64 len))
    { g with pad := pad, padPc := pc, padLen := len, target := if changed then some (tb + zx resume) else target,
             endDue := changed && target.isNone }

def syRfe : Trigger := fun i s =>
  match s.sySelf i, s.wg? i.g.wg with
  | some (g, l, _), some w =>
    if !g.handler then .trap (control 0x0B i.bus)
    else
      match s.reachArea i 0x80 with
      | .fail r => r
      | .at_ pa s =>
        let frame := (List.range 22).map fun k => w64 (bytesNat (s.ownLoad i.g w.ctx (pa + 8 * k) 8))
        let word9 := frame[9]?.getD 0
        if fld word9 36 6 != g.mj.length || fld word9 42 11 != g.rasAll || !l.validTarget (lo32 word9) then
          .trap (control 0x0C i.bus)
        else .ok (s.setGroup i.g (g.leaveHandler l frame))
  | _, _ => .ok s

end Sys2Proof.Machine
end

