-- ==== Sys2Proof/Machine/Encke.lean ====
section
/-!
DEFINITION. Encke: the xe unit (R324 to R329): phases, wires, flags.
-/

namespace Sys2Proof.Machine

/-- Transfer delay between two cores of a die (R326); core number is 6 × row + column (R16). -/
def enckeDelay (i j : Nat) : Nat :=
  let d (a b : Nat) : Nat := (a - b) + (b - a)
  4 + d (i / 6) (j / 6) + d (i % 6) (j % 6)

/-- The cores of a mask, ascending. -/
def maskCores (m : Nat) : List Nat := (List.range 24).filter (bit m)

/-- Is an open valid (R324)? -/
def State.openValid (s : State) (w : Workgroup) (mask : Nat) : Bool :=
  bit mask w.core.core &&
    (mask == 2 ^ w.core.core ||
      (w.gang.isSome && (maskCores mask).all fun c =>
        s.wgs.any fun x => x.lid == w.lid && x.gang == w.gang && x.core == (⟨w.core.die, c⟩ : CoreId) && !x.out))

/-- Start a phase of these groups, by core (R324, R325): each is at phase cycle 0. -/
def State.startPhase (s : State) (die mask : Nat) (members : List (Nat × GRef)) (broken : Bool) : State :=
  let pid := s.nextPid
  let s := { s with
    nextPid := pid + 1
    phases := s.phases ++ [{ pid := pid, die := die, mask := mask, members := members, sends := [], closed := [], broken := broken }] }
  members.foldl (fun s (_, g) => s.modGroup g fun x =>
    { x with phase := some (pid, 0), xeBroken := x.xeBroken || broken,
             waits := drop (fun y => match y with
               | .xeOpen _ => true
               | _ => false) x.waits }) s

/-- Is a group of the core in a phase? A core runs at most one at a time (R324). -/
def State.phaseOn (s : State) (c : CoreId) : Bool := s.wgs.any fun w => w.core == c && !w.out && w.groups.any (·.phase.isSome)

/-- Open a phase: the group waits for every core of the mask; an invalid open starts a broken phase of its own core, once no other
group of the core is in one. -/
def xeOpen : Trigger := fun i s =>
  match s.wg? i.g.wg, lowestLane i.width i.lanes with
  | some w, some l =>
    let v := w64 (fld (i.tv l) 0 32)
    if s.openValid w (fld v 0 24) || s.phaseOn w.core then .ok (s.onGroup i fun g => g.addWait (.xeOpen v))
    else .ok (s.startPhase w.core.die (2 ^ w.core.core) [(w.core.core, i.g)] true)
  | _, _ => .ok s

/-- Drive the core's wires in this phase cycle. -/
def xeSend : Trigger := fun i s =>
  match s.wg? i.g.wg, s.group? i.g, lowestLane i.width i.lanes with
  | some w, some g, some l0 =>
    match g.phase with
    | none => .ok s
    | some (pid, n) =>
      let wires := (lanesOf i.width i.lanes).foldl
        (fun ws l => setAt ws (fld (g.opnd l 0x11 0) 0 6) (lo32 (i.tv l))) (List.replicate 64 (0 : W32))
      let send : XeSend := { cycle := n, core := w.core.core, tag := fld (g.opnd l0 0x11 1) 0 8, wires := wires }
      .ok (s.modPhase pid fun p => { p with sends := p.sends ++ [send] })
  | _, _, _ => .ok s

/-- The wires a sel samples, when it is matched (R327, R328). -/
def Phase.sample (p : Phase) (me m from_ tag : Nat) (any : Bool) : Option (List W32) :=
  if p.broken || !bit p.mask from_ || 24 ≤ from_ || p.closed.any (fun x => x.1 == from_ && x.2 < m) then none
  else
    let d := enckeDelay from_ me
    if m < d then none
    else (p.sends.find? fun x => x.core == from_ && x.cycle == m - d && (any || x.tag == tag)).map (·.wires)

/-- Note an unmatched sel (R329). -/
def Group.unmatched (g : Group) : Group := { g with xeIdle := true, xeUnmatched := min 0xFFFF (g.xeUnmatched + 1) }

/-- Sample another core's wires. -/
def xeSel : Trigger := fun i s =>
  match s.wg? i.g.wg, s.group? i.g, lowestLane i.width i.lanes with
  | some w, some g, some l0 =>
    let t := i.tv l0
    let zeros : List W64 := List.replicate g.width 0
    match g.phase.bind fun (pid, n) => (s.phase? pid).map (·, n) with
    | none => .ok (s.onGroup i fun g => ({ g with xeIdle := true } : Group).stage 0x11 1 i.lanes (some zeros) none)
    | some (p, m) =>
      match p.sample w.core.core m (fld t 0 5) (fld t 5 8) (t.getLsbD 13) with
      | some ws =>
        .ok (s.onGroup i fun g => g.stage 0x11 1 i.lanes (some ((List.range g.width).map fun l => zx (ws[l]?.getD 0))) none)
      | none => .ok (s.onGroup i fun g => g.unmatched.stage 0x11 1 i.lanes (some zeros) none)
  | _, _, _ => .ok s

/-- End the phase for this core. -/
def xeClose : Trigger := fun i s =>
  match s.wg? i.g.wg, s.group? i.g, lowestLane i.width i.lanes with
  | some w, some g, some _ =>
    match g.phase with
    | none => .ok s
    | some (pid, n) =>
      -- a loop that the group is asked to leave drains from now on (R195, log 44)
      let s := s.onGroup i fun g => ({ g with phase := none } : Group).drain
      .ok ((s.modPhase pid fun p => { p with closed := p.closed ++ [(w.core.core, n)] }).tidyPhases)
  | _, _, _ => .ok s

/-- The exchange flags (R329). -/
def Group.xeFlags (g : Group) : W64 :=
  w64 (b2n g.xeIdle + 2 * b2n g.xeBroken + 4 * b2n g.phase.isSome + g.xeUnmatched * 65536)

/-- Read the flags. -/
def xeIdle : Trigger := fun i s =>
  if !anyLane i.width i.lanes then .ok s
  else .ok (s.onGroup i fun g => g.stage 0x11 1 i.lanes (some (List.replicate g.width g.xeFlags)) none)

/-- Clear the flags. -/
def xeClr : Trigger := fun i s =>
  if !anyLane i.width i.lanes then .ok s
  else .ok (s.onGroup i fun g => { g with xeIdle := false, xeBroken := false, xeUnmatched := 0 })

end Sys2Proof.Machine
end

