-- ==== Sys2Proof/Machine/Matrix.lean ====
section
/-!
DEFINITION. Matrix: the mx unit (R357 to R388): nest commands, their checks at go, the engine's steps, drains and faults.
-/

namespace Sys2Proof.Machine

/-! ### Command words (R361 to R370) -/

/-- Word k of a command. -/
def cw (ws : List W32) (k : Nat) : W32 := ws[k]?.getD 0

/-- Bits lo to lo + n − 1 of word k. -/
def cf (ws : List W32) (k lo n : Nat) : Nat := bits (cw ws k).toNat lo n

/-- What a command multiplies. -/
inductive MxKind where
  | fp4
  | floats (a b : FFmt)
  /-- whether A and B elements are signed -/
  | ints (a b : Bool)
  deriving DecidableEq, Repr

/-- The kind of a format word (R362). -/
def mxKind (ws : List W32) : Option MxKind :=
  match cf ws 0 0 4, cf ws 0 4 4 with
  | 5, 5 => some .fp4
  | 3, 3 => some (.floats .e4m3 .e4m3)
  | 3, 4 => some (.floats .e4m3 .e5m2)
  | 4, 3 => some (.floats .e5m2 .e4m3)
  | 4, 4 => some (.floats .e5m2 .e5m2)
  | 2, 2 => some (.floats .bf16 .bf16)
  | 1, 1 => some (.floats .fp16 .fp16)
  | 6, 6 => some (.ints true true)
  | 6, 7 => some (.ints true false)
  | 7, 6 => some (.ints false true)
  | 7, 7 => some (.ints false false)
  | _, _ => none

/-- Is it an integer command? -/
def MxKind.isInt (k : MxKind) : Bool :=
  match k with
  | .ints _ _ => true
  | .fp4 => false
  | .floats _ _ => false

def dlvl (ws : List W32) : Nat := cf ws 1 0 3
def replay (ws : List W32) : Bool := bit (cw ws 1).toNat 3
def olvl (ws : List W32) : Nat := cf ws 1 4 3

/-- Iterations of a level. -/
def lvlCount (ws : List W32) (l : Nat) : Nat := cf ws (16 + 5 * l) 0 16 + 1
/-- Window-index stride of a level. -/
def lvlAcc (ws : List W32) (l : Nat) : Nat := cf ws (16 + 5 * l) 16 3
/-- A stride of a level. -/
def lvlA (ws : List W32) (l : Nat) : Int := (cw ws (17 + 5 * l)).toInt
/-- B stride of a level. -/
def lvlB (ws : List W32) (l : Nat) : Int := (cw ws (18 + 5 * l)).toInt
/-- A scale stride of a level. -/
def lvlSA (ws : List W32) (l : Nat) : Int := signedOf 16 (cf ws (19 + 5 * l) 0 16)
/-- B scale stride of a level. -/
def lvlSB (ws : List W32) (l : Nat) : Int := signedOf 16 (cf ws (19 + 5 * l) 16 16)
/-- Drain stride of a level. -/
def lvlD (ws : List W32) (l : Nat) : Int := (cw ws (20 + 5 * l)).toInt

/-- The six levels. -/
def levels : List Nat := [0, 1, 2, 3, 4, 5]

/-- Steps of a command: the product of the counts (R369). -/
def stepCount (ws : List W32) : Nat := levels.foldl (fun n l => n * lvlCount ws l) 1

/-- Reserved bits of a base word are zero (R364). -/
def baseOk (w : W32) : Bool := bits w.toNat 28 4 == 0

/-- Output formats that a command's kind allows (R368). -/
def ofmtOk (k : MxKind) (o : Nat) : Bool := if k.isInt then o == 0xA else o == 0 || o == 2 || o == 3 || o == 4

/-- The window-replay words (R370). -/
def replayOk (ws : List W32) : Bool :=
  let tx := cf ws 46 28 3
  let ty := cf ws 48 28 3
  bits (cw ws 46).toNat 31 1 == 0 && bits (cw ws 48).toNat 31 1 == 0 && cf ws 50 16 16 == 0 &&
    cf ws 46 16 4 != 0 && cf ws 46 20 4 != 0 && cf ws 48 16 4 != 0 && cf ws 48 20 4 != 0 &&
    cf ws 47 16 16 != 0 && cf ws 50 0 16 != 0 && olvl ws ≤ 5 && tx != 6 && ty != 6 && tx != olvl ws && ty != olvl ws &&
    (tx != ty || tx == 7)

/-- The checks of mx.go with cause FORMAT; words that the command does not use are ignored (R361 to R370). -/
def formatOk (ws : List W32) : Bool :=
  match mxKind ws with
  | none => false
  | some k =>
    let drains := dlvl ws != 7
    let fp4 := k == .fp4
    cf ws 0 8 24 == 0 && cf ws 1 7 25 == 0 && cw ws 15 == 0 && cf ws 9 3 29 == 0 &&
      baseOk (cw ws 2) && baseOk (cw ws 4) && cf ws 3 0 2 == 0 && cf ws 5 0 2 == 0 &&
      (!fp4 || (baseOk (cw ws 6) && baseOk (cw ws 7))) &&
      (!drains ||
        (baseOk (cw ws 10) && cf ws 11 28 4 == 0 && ofmtOk k (cf ws 11 20 4) &&
          !(k.isInt && cf ws 11 26 2 != 0) &&
          (cf ws 11 26 1 == 0 || (baseOk (cw ws 12) && baseOk (cw ws 13))) &&
          (cf ws 11 27 1 == 0 || baseOk (cw ws 14)))) &&
      levels.all (fun l => cf ws (16 + 5 * l) 19 13 == 0) &&
      (!replay ws || replayOk ws)

/-! ### The nest table (R360) -/

/-- A zeroed slot. -/
def NSlot.zero (st : SlotSt) : NSlot :=
  { st := st, words := List.replicate 51 0, seq := 0, tag := 0, byGroup := 0, ord := 0, pc := 0, order := 0 }

/-- The nest table of a new workgroup: slot 0 OPEN, slot 1 FREE, both zero. -/
def Nest.new : Nest where
  slots := [NSlot.zero .opened, NSlot.zero .free]
  last := List.replicate 51 0
  cmdSeq := 0
  doneSeq := 0
  faulted := false
  fault := [0, 0, 0, 0]
  zeroing := []
  active := false
  steps := 0
  began := 0

/-- Index of the OPEN slot. -/
def Nest.openSlot (n : Nest) : Option Nat :=
  let i := n.slots.findIdx (·.st == .opened)
  if i < n.slots.length then some i else none

/-- Commands READY or RUNNING. -/
def Nest.pending (n : Nest) : Nat := (n.slots.filter fun x => x.st == .ready || x.st == .running).length

/-- The RUNNING slot. -/
def Nest.running (n : Nest) : Option NSlot := n.slots.find? (·.st == .running)

/-- A FREE slot opens when none is OPEN, holding a copy of the last sealed command. -/
def Nest.reopen (n : Nest) : Nest :=
  if n.openSlot.isSome then n
  else
    let i := n.slots.findIdx (·.st == .free)
    { n with slots := modAt n.slots i fun x => { x with st := .opened, words := n.last } }

/-- The READY command that was sealed first. -/
def Nest.readied (n : Nest) : Option NSlot := minBy (·.order) (n.slots.filter (·.st == .ready))

/-- A READY command runs when no other of the workgroup does. -/
def Nest.promote (n : Nest) : Nest :=
  match n.running, n.readied with
  | none, some r =>
    { n with slots := upd (fun (x : NSlot) => x.st == .ready && x.order == r.order) (fun x => { x with st := .running }) n.slots,
             active := false, steps := 0 }
  | _, _ => n

/-- The command that the engine takes next of this nest. -/
def Nest.next (n : Nest) : Option NSlot := n.running.or n.readied

/-- The slots after a fault or a reset: both FREE, one of them OPEN with the last sealed command (R379, R385). -/
def Nest.clearSlots (n : Nest) : Nest :=
  let keep := n.slots.map fun x => if x.st == .opened then { x with words := n.last } else { x with st := .free }
  ({ n with slots := keep, active := false, steps := 0 } : Nest).reopen

/-- Change a workgroup's nest. -/
def State.modNest (s : State) (wid : Nat) (f : Nest → Nest) : State := s.modWg wid fun w => { w with nest := f w.nest }

/-- The status of wait and poll (R378). -/
def Nest.status (n : Nest) (poll : Bool) : W64 :=
  let st := if n.faulted then 2 else if poll && n.pending != 0 then 1 else 0
  w64 (st + 4 * n.pending + n.doneSeq * 65536)

/-- mx.reset, once nothing runs (R379). -/
def Nest.reset (n : Nest) : Nest :=
  let n := n.clearSlots
  { n with faulted := false, fault := modAt n.fault 0 fun v => v &&& ~~~1 }

/-- The waits of mx.wait, mx.bank and mx.reset that are over (R378, R379). -/
def State.settleMx (s : State) (wid : Nat) : State :=
  match s.wg? wid with
  | none => s
  | some w =>
    if w.out then s
    else
      let n := w.nest
      let resetting := n.running.isNone && w.groups.any fun g => g.waits.contains .mxReset
      let n := if resetting then n.reset else n
      let banks := if n.pending != 0 then []
        else (w.groups.flatMap fun g => g.waits.filterMap fun x => match x with
          | .mxBank b => some b
          | _ => none)
      let n : Nest := { n with zeroing := dedup (n.zeroing ++ banks) }
      let f (g : Group) : Group :=
        let g := if resetting then g.dropWaits (· == .mxReset) else g
        let g := g.dropWaits fun x => match x with
          | .mxBank b => banks.contains b
          | _ => false
        let met := g.waits.findSome? fun x => match x with
          | .mxWait k lanes _ => if n.faulted || n.pending ≤ k then some lanes else none
          | _ => none
        match met with
        | none => g
        | some lanes =>
          let g := g.dropWaits fun x => match x with
            | .mxWait _ _ _ => true
            | _ => false
          ({ g with mxFull := g.mxFull ||| lanes } : Group).setResLanes 0x0F false lanes fun _ => n.status false
      s.modWg wid fun w => { w with nest := n, groups := w.groups.map f }

/-! ### Triggers (R375 to R379) -/

/-- A matrix-issue trap (R380). -/
def matrixIssue (cause bus : Nat) : TrapInfo := precise 0x0A cause bus

/-- An mx trigger of a workgroup that owns a nest table: its group, workgroup and lowest lane. -/
def mxTrigger (f : TrigIn → State → Group → Workgroup → Nat → TrigRes) : Trigger := fun i s =>
  match s.group? i.g, s.wg? i.g.wg, lowestLane i.width i.lanes with
  | some g, some w, some l => if w.accumBanks.isEmpty then .trap (matrixIssue 0x01 i.bus) else f i s g w l
  | _, _, _ => .ok s

/-- Write a word of the OPEN slot; without one the bundle waits. -/
def setSlotWord (i : TrigIn) (s : State) (w : Workgroup) (k : Nat) (v : W32) : TrigRes :=
  match w.nest.openSlot with
  | none => .hold
  | some j => .ok (s.modNest i.g.wg fun n => { n with slots := modAt n.slots j fun x => { x with words := setAt x.words k v } })

def mxCfg : Trigger :=
  mxTrigger fun i s g w l =>
    let k := (lo32 (i.tv l)).toNat
    if k == 0 || 50 < k then .trap (matrixIssue 0x02 i.bus) else setSlotWord i s w k (lo32 (g.opnd l 0x0F 0))

def mxFmt : Trigger := mxTrigger fun i s _ w l => setSlotWord i s w 0 (lo32 (i.tv l))

def mxGo : Trigger :=
  mxTrigger fun i s g w l =>
    match w.nest.openSlot with
    | none => .hold
    | some j =>
      let ws := (w.nest.slots[j]?.getD (NSlot.zero .free)).words
      if !formatOk ws then .trap (matrixIssue 0x03 i.bus)
      else if 2 ^ 20 < stepCount ws then .trap (matrixIssue 0x04 i.bus)
      else if w.nest.faulted then .trap (matrixIssue 0x06 i.bus)
      else
        let sealed (n : Nest) : Nest :=
          let seq := (n.cmdSeq + 1) % 65536
          let slot : NSlot :=
            { st := .ready, words := ws, seq := seq, tag := fld (i.tv l) 0 16, byGroup := i.g.gi, ord := g.ord, pc := i.pc,
              order := s.goCount }
          let n' : Nest := { n with cmdSeq := seq, last := ws, slots := setAt n.slots j slot }
          -- beside a READY command that a pre-emption keeps from starting, this one is READY too (R360, R388)
          (if n.pending == 0 then n'.promote else n').reopen
        let s := (s.modNest i.g.wg sealed).onGroup i fun g => g.takeOrd.2
        .ok { s with goCount := s.goCount + 1 }

/-- Wait until at most n commands are pending; r is empty until then. -/
def mxWait : Trigger :=
  mxTrigger fun i s _ _ l =>
    let s := s.onGroup i fun g =>
      ({ g with mxFull := g.mxFull &&& ~~~i.lanes, varPend := g.varLeft .mx i.lanes, ord := g.ord + 1 } : Group).addWait
        (.mxWait (lo32 (i.tv l)).toNat i.lanes g.ord)
    .ok (s.settleMx i.g.wg)

def mxPoll : Trigger := mxTrigger fun i s _ w _ => .ok (s.onGroup i fun g => g.giveVar .mx i.lanes (w.nest.status true) none)

def mxStat : Trigger :=
  mxTrigger fun i s _ w l =>
    .ok (s.onGroup i fun g => g.giveVar .mx i.lanes (w.nest.fault[(lo32 (i.tv l)).toNat % 4]?.getD 0) none)

def mxBank : Trigger :=
  mxTrigger fun i s _ w l =>
    let b := fld (i.tv l) 0 1
    if w.accumBanks.length ≤ b then .trap (matrixIssue 0x05 i.bus)
    else .ok ((s.onGroup i fun g => g.takeOrd.2.addWait (.mxBank b)).settleMx i.g.wg)

def mxReset : Trigger :=
  mxTrigger fun i s _ _ _ => .ok ((s.onGroup i fun g => g.takeOrd.2.addWait .mxReset).settleMx i.g.wg)

/-! ### Accumulators (R55, R358) -/

/-- Index of element (i, j) of a window in a workgroup's logical accumulator memory, in words. -/
def accIndex (w i j : Nat) : Nat := w / 4 * 65536 + (128 * (w / 2 % 2) + i) * 256 + 128 * (w % 2) + j

/-- The elements of a window, row by row. -/
def accWindow (acc : List (Nat × W32)) (w : Nat) : Array W32 :=
  acc.foldl (fun a x =>
    let (k, v) := x
    let row := k % 65536 / 256
    let col := k % 256
    if k / 65536 == w / 4 && row / 128 == w / 2 % 2 && col / 128 == w % 2 then a.set! (row % 128 * 128 + col % 128) v else a)
    (Array.replicate 16384 0)

/-- Replace the elements of a window; zeros are not listed. -/
def accPut (acc : List (Nat × W32)) (w : Nat) (a : Array W32) : List (Nat × W32) :=
  let inside (k : Nat) : Bool := k / 65536 == w / 4 && k % 65536 / 256 / 128 == w / 2 % 2 && k % 256 / 128 == w % 2
  let new := (List.range 16384).filterMap fun n =>
    let v := a[n]?.getD 0
    if v == 0 then none else some (accIndex w (n / 128) (n % 128), v)
  (acc.filter fun x => !inside x.1) ++ new

/-! ### Addresses (R364, R371, R385 to R387) -/

/-- A failure of the engine: SUB, cause, REMOTE and CORE of the access, I, J, the offset. -/
structure MxErr where
  sub : Nat
  cause : Nat
  remote : Bool
  core : Nat
  i : Nat
  j : Nat
  off : Int
  deriving DecidableEq, Repr

/-- REMOTE of a base word. -/
def baseRemote (b : W32) : Bool := bit b.toNat 27
/-- CORE of a base word. -/
def baseCore (b : W32) : Nat := bits b.toNat 22 5
/-- OFF of a base word. -/
def baseOff (b : W32) : Int := (bits b.toNat 0 22 : Nat)

/-- The allocation a base word names (R16, R364). -/
def State.mxAlloc (s : State) (w : Workgroup) (b : W32) : Option Workgroup :=
  if !baseRemote b then some w
  else if 24 ≤ baseCore b || w.gang.isNone then none
  else
    s.wgs.find? fun x =>
      x.lid == w.lid && x.gang == w.gang && x.core == (⟨w.core.die, baseCore b⟩ : CoreId) && !x.out && !x.retired

/-- Check an access of len bytes at an offset of a base word's allocation, and rotate it (R52, R371): the workgroup and the
offset there. Bounds come first, then alignment. -/
def State.mxPlace (s : State) (w : Workgroup) (b : W32) (rho : Nat) (off : Int) (len sub i j : Nat) : Except MxErr (Nat × Nat) :=
  let err (c : Nat) : MxErr := ⟨sub, c, baseRemote b, if baseRemote b then baseCore b else 0, i, j, off⟩
  match s.mxAlloc w b with
  | none => .error (err 2)
  | some x =>
    if off < 0 || (x.scratchSize : Int) < off + len then .error (err 1)
    else if off % (len : Int) != 0 then .error (err 3)
    else .ok (x.wid, rotate rho off.toNat)

/-- The number in len bytes of a workgroup's scratchpad. -/
def State.mxRead (s : State) (p : Nat × Nat) (len : Nat) : Nat :=
  match s.wg? p.1 with
  | some w => w.scratch.readNat p.2 len
  | none => 0

/-- Do len bytes of a workgroup's scratchpad report an uncorrectable error? -/
def State.mxUe (s : State) (p : Nat × Nat) (len : Nat) : Bool := (s.wg? p.1).any fun w => w.scratchUe p.2 len

/-- A checked read of len bytes (R387). -/
def State.mxGet (s : State) (w : Workgroup) (b : W32) (rho : Nat) (off : Int) (len sub i j : Nat) : Except MxErr Nat := do
  let p ← s.mxPlace w b rho off len sub i j
  if s.mxUe p len then throw ⟨sub, 5, baseRemote b, if baseRemote b then baseCore b else 0, i, j, off⟩
  else return s.mxRead p len

/-- The lowest accumulator element of a window that reports an uncorrectable error: its row and column (R387). -/
def Workgroup.accUe (w : Workgroup) (win : Nat) : Option (Nat × Nat) :=
  let mine := w.accumBad.filterMap fun k =>
    if k / 65536 == win / 4 && k % 65536 / 256 / 128 == win / 2 % 2 && k % 256 / 128 == win % 2 then
      some (k % 65536 / 256 % 128 * 128 + k % 128)
    else none
  (minBy id mine).map fun n => (n / 128, n % 128)

/-! ### A step (R371, R372) -/

/-- The loop indices of step k: level 0 is innermost. -/
def stepIdx (ws : List W32) (k : Nat) : List Nat :=
  (levels.foldl (fun (acc : List Nat × Nat) l => (acc.1 ++ [acc.2 % lvlCount ws l], acc.2 / lvlCount ws l)) ([], k)).1

/-- Sum of index times stride over the levels that satisfy p. -/
def strideSum (idx : List Nat) (f : Nat → Int) (p : Nat → Bool) : Int :=
  levels.foldl (fun (a : Int) l => if p l then a + (idx[l]?.getD 0 : Nat) * f l else a) 0

/-- The window of a step. -/
def stepWindow (ws : List W32) (idx : List Nat) : Nat :=
  (cf ws 9 0 3 + levels.foldl (fun a l => a + idx[l]?.getD 0 * lvlAcc ws l) 0) % 8

/-- Offset of row r of a tile without replay. -/
def tileRow (off : Int) (layout : W32) (r : Nat) : Int :=
  off + (r % 64 * bits layout.toNat 0 16 + r / 64 * 256 * bits layout.toNat 16 12 : Nat)

/-- Window replay (R371): none is ZERO. -/
def replayRow (ws : List W32) (idx : List Nat) (offA : Int) (r : Nat) : Option Int :=
  let p := r + 128 * idx[olvl ws]?.getD 0
  let ow := cf ws 47 16 16
  let xo := p % ow
  let yo := p / ow
  let tap (k : Nat) : Nat := if cf ws k 28 3 == 7 then 0 else idx[cf ws k 28 3]?.getD 0
  let x : Int := (xo * cf ws 46 16 4 + tap 46 * cf ws 46 20 4 : Nat) - (cf ws 46 24 4 : Nat)
  let y : Int := (yo * cf ws 48 16 4 + tap 48 * cf ws 48 20 4 : Nat) - (cf ws 48 24 4 : Nat)
  if cf ws 50 0 16 ≤ yo || x < 0 || (cf ws 46 0 16 : Nat) ≤ x || y < 0 || (cf ws 48 0 16 : Nat) ≤ y then none
  else some (offA + y * (cw ws 49).toNat + x * cf ws 47 0 16)

/-- A operand row of a step; none is ZERO. -/
def rowA (ws : List W32) (idx : List Nat) (r : Nat) : Option Int :=
  if replay ws then
    let skip (l : Nat) : Bool := l == olvl ws || l == cf ws 46 28 3 || l == cf ws 48 28 3
    replayRow ws idx (baseOff (cw ws 2) + strideSum idx (lvlA ws) fun l => !skip l) r
  else some (tileRow (baseOff (cw ws 2) + strideSum idx (lvlA ws) fun _ => true) (cw ws 3) r)

/-- B operand row of a step. -/
def rowB (ws : List W32) (idx : List Nat) (r : Nat) : Int :=
  tileRow (baseOff (cw ws 4) + strideSum idx (lvlB ws) fun _ => true) (cw ws 5) r

/-- Gather the results of 128 rows, the first failure winning. -/
def rows128 {α : Type} (f : Nat → Except MxErr α) : Except MxErr (List α) :=
  (List.range 128).foldr (fun r acc => match f r, acc with
    | .error e, _ => .error e
    | .ok _, .error e => .error e
    | .ok x, .ok xs => .ok (x :: xs)) (.ok [])

/-- Value of an E3M5 code (R251). -/
def e3m5 (c : Nat) : Fp :=
  let e := c / 32
  let f := c % 32
  if e == 0 then .fin false f (-7) else .fin false (32 + f) ((e : Int) - 8)

/-- The elements of a 4-byte row (R250). -/
def rowElems (f : FFmt) (v : Nat) : List Fp := (List.range (32 / f.width)).map fun k => fpOf f (bits v (f.width * k) f.width)

/-- The integer elements of a row. -/
def rowInts (signed : Bool) (v : Nat) : List Int :=
  (List.range 4).map fun k => if signed then signedOf 8 (bits v (8 * k) 8) else (bits v (8 * k) 8 : Nat)

/-- The exact dot product of two rows. -/
def dotFp : List Fp → List Fp → Option Fp → Fp
  | a :: as, b :: bs, none => dotFp as bs (some (a.mul b))
  | a :: as, b :: bs, some d => dotFp as bs (some (d.add .rne (a.mul b)))
  | _, _, some d => d
  | _, _, none => .fin false 0 0

/-- The accumulator element after one step: one rounding, or two with block scales (R372). -/
def cellFp (acc : W32) (d : Fp) (scale : Option Fp) : W32 :=
  let t := match scale with
    | none => d
    | some x => f32 (rn32 (d.mul x))
  rn32 ((f32 acc).add .rne t)

/-- Everything a step reads: A rows, B rows, scale codes. -/
structure StepIn where
  a : List Nat
  b : List Nat
  sa : List Nat
  sb : List Nat
  deriving DecidableEq, Repr

/-- Read a step's operands; the lowest SUB, then the lowest row fails first (R387). -/
def State.stepRead (s : State) (w : Workgroup) (ws : List W32) (idx : List Nat) (k : MxKind) : Except MxErr StepIn := do
  let a ← rows128 fun r => match rowA ws idx r with
    | none => .ok 0
    | some off => s.mxGet w (cw ws 2) (cf ws 3 28 4) off 4 1 r 0
  let b ← rows128 fun r => s.mxGet w (cw ws 4) (cf ws 5 28 4) (rowB ws idx r) 4 2 r 0
  if k != .fp4 then return { a := a, b := b, sa := [], sb := [] }
  else
    let offSA := baseOff (cw ws 6) + strideSum idx (lvlSA ws) fun _ => true
    let offSB := baseOff (cw ws 7) + strideSum idx (lvlSB ws) fun _ => true
    let code (base : W32) (off : Int) (r : Nat) : Except MxErr Nat := do
      let c ← s.mxGet w base 0 off 1 3 r 0
      if c == 0xFF then
        throw ⟨3, 4, baseRemote base, if baseRemote base then baseCore base else 0, r, 0, off⟩
      else return c
    let scales ← rows128 fun r => do
      let x ← match rowA ws idx r with
        | none => pure 0x60
        | some _ => code (cw ws 6) (offSA + (r * cf ws 8 0 16 : Nat)) r
      let y ← code (cw ws 7) (offSB + (r * cf ws 8 16 16 : Nat)) r
      return (x, y)
    return { a := a, b := b, sa := scales.map (·.1), sb := scales.map (·.2) }

/-- The window after a step (R372). -/
def stepWindowVals (k : MxKind) (x : StepIn) (acc : Array W32) : Array W32 :=
  match k with
  | .ints sa sb =>
    let a := (x.a.map (rowInts sa)).toArray
    let b := (x.b.map (rowInts sb)).toArray
    (Array.range 16384).map fun n =>
      let d := ((a[n / 128]?.getD []).zip (b[n % 128]?.getD [])).foldl (fun (v : Int) p => v + p.1 * p.2) 0
      BitVec.ofInt 32 ((acc[n]?.getD 0).toInt + d)
  | .fp4 =>
    let a := (x.a.map (rowElems .fp4)).toArray
    let b := (x.b.map (rowElems .fp4)).toArray
    let sa := x.sa.toArray
    let sb := x.sb.toArray
    (Array.range 16384).map fun n =>
      cellFp (acc[n]?.getD 0) (dotFp (a[n / 128]?.getD []) (b[n % 128]?.getD []) none)
        (some ((e3m5 (sa[n / 128]?.getD 0)).mul (e3m5 (sb[n % 128]?.getD 0))))
  | .floats fa fb =>
    let a := (x.a.map (rowElems fa)).toArray
    let b := (x.b.map (rowElems fb)).toArray
    (Array.range 16384).map fun n =>
      cellFp (acc[n]?.getD 0) (dotFp (a[n / 128]?.getD []) (b[n % 128]?.getD []) none) none

/-! ### The drain (R373) -/

/-- Bytes of an output element. -/
def ofmtBytes (o : Nat) : Nat :=
  match o with
  | 2 => 2
  | 3 => 1
  | 4 => 1
  | _ => 4

/-- The code of an element in the output format. FP8 outputs saturate on every finite overflow. -/
def outCode (o : Nat) (sat : Bool) (v : W32) : Nat :=
  match o with
  | 2 => roundCode .bf16 .rne sat 0 (f32 v)
  | 3 => roundCode .e4m3 .rne true 0 (f32 v)
  | 4 => roundCode .e5m2 .rne true 0 (f32 v)
  | _ => v.toNat

/-- One element of a drain: where it goes and its code. -/
def State.drainElem (s : State) (w : Workgroup) (ws : List W32) (k : MxKind) (offD : Int) (win i j : Nat) (v : W32) :
    Except MxErr ((Nat × Nat) × Nat) := do
  let o := cf ws 11 20 4
  let n := ofmtBytes o
  let v ← if k.isInt || cf ws 11 26 1 == 0 then pure v
    else do
      let ba ← s.mxGet w (cw ws 12) 0 (baseOff (cw ws 12) + (2 * ((128 * (win / 2 % 2) + i) / 64) : Nat)) 2 5 i j
      let bb ← s.mxGet w (cw ws 13) 0 (baseOff (cw ws 13) + (2 * ((128 * (win % 2) + j) / 64) : Nat)) 2 5 i j
      if ba == 0x3F80 && bb == 0x3F80 then pure v
      else pure (rn32 ((f32 v).mul (f32 (rn32 ((fpOf .bf16 ba).mul (fpOf .bf16 bb))))))
  let v ← if k.isInt || cf ws 11 27 1 == 0 then pure v
    else do
      let bias ← s.mxGet w (cw ws 14) 0 (baseOff (cw ws 14) + (4 * (128 * (win % 2) + j) : Nat)) 4 5 i j
      pure (rn32 ((f32 v).add .rne (f32 (w32 bias))))
  let p ← s.mxPlace w (cw ws 10) (cf ws 11 16 4) (offD + (i * cf ws 11 0 16 + j * n : Nat)) n 5 i j
  return (p, outCode o (bit (cw ws 11).toNat 24) v)

/-- Drain the rows of a window from row i on; with a failure, the state with the earlier rows drained (R385). -/
def drainRows (wid : Nat) (ws : List W32) (k : MxKind) (offD : Int) (win : Nat) (vals : Array W32) :
    List Nat → State → State × Option MxErr
  | [], s => (s, none)
  | i :: is, s =>
    match s.wg? wid with
    | none => (s, none)
    | some w =>
      match rows128 fun j => s.drainElem w ws k offD win i j (vals[128 * i + j]?.getD 0) with
      | .error e => (s, some e)
      | .ok outs =>
        let n := ofmtBytes (cf ws 11 20 4)
        let s := outs.foldl (fun (s : State) x =>
          s.modWg x.1.1 (·.scratchPut x.1.2 n x.2)) s
        let s := if bit (cw ws 11).toNat 25 then
            s.modWg wid fun y =>
              { y with accum := drop (fun c => (List.range 128).any fun j => c.1 == accIndex win i j) y.accum }
          else s
        drainRows wid ws k offD win vals is s

/-- Does the step with these indices call for a drain (R371)? -/
def drainsAfter (ws : List W32) (idx : List Nat) (last : Bool) : Bool :=
  if dlvl ws ≤ 5 then levels.all fun l => dlvl ws ≤ l || idx[l]?.getD 0 + 1 == lvlCount ws l
  else dlvl ws == 6 && last

/-! ### The bytes a step touches (R374, R390) -/

/-- The pieces that step k of a command reads, and that its drain, if it calls for one, reads and writes. -/
def State.stepPieces (s : State) (w : Workgroup) (ws : List W32) (k : Nat) : List Piece × List Piece :=
  let idx := stepIdx ws k
  let at_ (b : W32) (rho : Nat) (off : Int) (len : Nat) : List Piece :=
    match s.mxPlace w b rho off len 0 0 0 with
    | .ok p => [Piece.new (.scratch p.1 p.2) 0 len]
    | .error _ => []
  let rows := List.range 128
  let a := rows.flatMap fun r => ((rowA ws idx r).toList).flatMap fun off => at_ (cw ws 2) (cf ws 3 28 4) off 4
  let b := rows.flatMap fun r => at_ (cw ws 4) (cf ws 5 28 4) (rowB ws idx r) 4
  let sc := if mxKind ws != some .fp4 then [] else
    let offSA := baseOff (cw ws 6) + strideSum idx (lvlSA ws) fun _ => true
    let offSB := baseOff (cw ws 7) + strideSum idx (lvlSB ws) fun _ => true
    rows.flatMap fun r =>
      (if (rowA ws idx r).isSome then at_ (cw ws 6) 0 (offSA + (r * cf ws 8 0 16 : Nat)) 1 else []) ++
        at_ (cw ws 7) 0 (offSB + (r * cf ws 8 16 16 : Nat)) 1
  if !drainsAfter ws idx (k + 1 == stepCount ws) then (a ++ b ++ sc, [])
  else
    let win := stepWindow ws idx
    let n := ofmtBytes (cf ws 11 20 4)
    let offD := baseOff (cw ws 10) + strideSum idx (lvlD ws) fun _ => true
    let isInt := (mxKind ws).any (·.isInt)
    let bands := if isInt || cf ws 11 26 1 == 0 then [] else (List.range 2).flatMap fun h =>
      at_ (cw ws 12) 0 (baseOff (cw ws 12) + (2 * (2 * (win / 2 % 2) + h) : Nat)) 2 ++
        at_ (cw ws 13) 0 (baseOff (cw ws 13) + (2 * (2 * (win % 2) + h) : Nat)) 2
    let bias := if isInt || cf ws 11 27 1 == 0 then [] else rows.flatMap fun j =>
      at_ (cw ws 14) 0 (baseOff (cw ws 14) + (4 * (128 * (win % 2) + j) : Nat)) 4
    (a ++ b ++ sc ++ bands ++ bias,
      rows.flatMap fun i => rows.flatMap fun j => at_ (cw ws 10) (cf ws 11 16 4) (offD + (i * cf ws 11 0 16 + j * n : Nat)) n)

/-! ### Faults (R385 to R387, R408) -/

/-- The fault record. -/
def faultRecord (slot : Nat) (c : NSlot) (idx : List Nat) (steps : Nat) (e : MxErr) : List W64 :=
  let status := e.cause + b2n e.remote * 2 ^ 8 + e.core * 2 ^ 9 + e.i * 2 ^ 16 + e.j * 2 ^ 23
  let i (l : Nat) : Nat := idx[l]?.getD 0
  [w64 (1 + slot * 2 + e.sub * 4 + c.seq * 256 + status * 2 ^ 32),
   w64 (i 0 + i 1 * 2 ^ 16 + i 2 * 2 ^ 32 + i 3 * 2 ^ 48),
   w64 (i 4 + i 5 * 2 ^ 16 + (BitVec.ofInt 32 e.off).toNat * 2 ^ 32),
   w64 (steps + c.tag * 2 ^ 48)]

/-- The group that receives a command's fault: the one that issued its go, or the lowest-numbered one still running. -/
def Workgroup.faultGroup (w : Workgroup) (c : NSlot) : Option Group :=
  match w.group? c.byGroup with
  | some g => if g.ended then minBy (·.gi) (w.groups.filter (!·.ended)) else some g
  | none => minBy (·.gi) (w.groups.filter (!·.ended))

/-- The engine fails: the command stops, the slots are cleared, the record is filled, and the trap goes to its group. An
uncorrectable error then resets the engine and is a consumption of poison instead of a trap (R408). -/
def State.mxFault (s : State) (wid : Nat) (idx : List Nat) (e : MxErr) : State :=
  match s.wg? wid with
  | none => s
  | some w =>
    match w.nest.running with
    | none => s
    | some c =>
      let slot := w.nest.slots.findIdx (·.st == .running)
      let rec_ := faultRecord slot c idx w.nest.steps e
      let (now, s) := s.sampleTime
      let info : TrapInfo :=
        { precise 0x30 e.cause 7 with pc := c.pc, info0 := rec_[0]?.getD 0, info1 := rec_[2]?.getD 0, time := now }
      let s := s.modNest wid fun n =>
        let failed : Nest := { n.clearSlots with faulted := true, fault := rec_ }
        if e.cause == 5 then failed.reset else failed
      let s := s.settleMx wid
      match w.faultGroup c with
      | none => s.terminate ⟨wid, c.byGroup⟩ { info with exited := true } c.pc
      | some g =>
        s.modGroup ⟨wid, g.gi⟩ fun g =>
          if e.cause == 5 then { g with check := consumePoison g.check 1 } else { g with pend := g.pend ++ [info] }

/-- One step of the active command of a workgroup, with the drain it calls for. An error that the event brings is found in the first row
read (log 27). -/
def State.mxDoStep (s : State) (wid : Nat) (ue : Bool) : State :=
  match s.wg? wid with
  | none => s
  | some w =>
    match w.nest.running with
    | none => s
    | some c =>
      let ws := c.words
      let idx := stepIdx ws w.nest.steps
      let win := stepWindow ws idx
      match mxKind ws with
      | none => s
      | some k =>
        let off0 := (rowA ws idx 0).getD (baseOff (cw ws 2))
        if ue then s.mxFault wid idx ⟨1, 5, baseRemote (cw ws 2), if baseRemote (cw ws 2) then baseCore (cw ws 2) else 0, 0, 0, off0⟩
        else
          match s.stepRead w ws idx k with
          | .error e => s.mxFault wid idx e
          | .ok x =>
            if w.accumBanks.length ≤ win / 4 then s.mxFault wid idx ⟨4, 6, false, 0, 0, 0, 0⟩
            else match w.accUe win with
            | some (i, j) => s.mxFault wid idx ⟨4, 5, false, 0, i, j, Config.freeOffset w.nest.cmdSeq⟩
            | none =>
              let vals := stepWindowVals k x (accWindow w.accum win)
              let s := s.modWg wid fun w =>
                { w with accum := accPut w.accum win vals, nest := { w.nest with steps := w.nest.steps + 1 } }
              if drainsAfter ws idx (w.nest.steps + 1 == stepCount ws) then
                let offD := baseOff (cw ws 10) + strideSum idx (lvlD ws) fun _ => true
                match drainRows wid ws k offD win vals (List.range 128) s with
                | (s, none) => s
                | (s, some e) => s.mxFault wid idx e
              else s

end Sys2Proof.Machine
end

