-- ==== Sys2Proof/Machine/Perm.lean ====
section
/-!
DEFINITION. Perm: what the triggers of p0 compute over the participating lanes of a group (R287 to R290).
-/

namespace Sys2Proof.Machine

/-- idx (R287). -/
def p0Idx (width : Nat) (ps : List (Nat × LaneIn)) (_ : Nat) (x : LaneIn) : W64 :=
  let j := (lo32 x.a).toNat
  match ps.find? fun (y : Nat × LaneIn) => y.1 == j with
  | some (_, y) => if j < width then y.t else 0
  | none => 0

/-- scan (R288): the sum over participating lanes up to and including this one. -/
def p0Scan (_ : Nat) (ps : List (Nat × LaneIn)) (l : Nat) (_ : LaneIn) : W64 :=
  zx (ps.foldl (fun acc (y : Nat × LaneIn) => if y.1 ≤ l then acc + lo32 y.2.t else acc) 0)

/-- The running FP32 sum of R288, every step rounded; none before the first participating lane. -/
def scanfTo (l : Nat) : List (Nat × LaneIn) → Option W32 → Option W32
  | [], acc => acc
  | (j, y) :: rest, acc =>
    if l < j then acc
    else
      let v := match acc with
        | none => rn32 (f32 (lo32 y.t))
        | some p => rn32 ((f32 p).add .rne (f32 (lo32 y.t)))
      scanfTo l rest (some v)

/-- scanf (R288). -/
def p0Scanf (_ : Nat) (ps : List (Nat × LaneIn)) (l : Nat) (_ : LaneIn) : W64 := zx ((scanfTo l ps none).getD 0)

/-- redadd (R288). -/
def p0Redadd (_ : Nat) (ps : List (Nat × LaneIn)) (_ : Nat) (_ : LaneIn) : W64 :=
  zx (ps.foldl (fun acc (y : Nat × LaneIn) => acc + lo32 y.2.t) 0)

/-- redmax (R288). -/
def p0Redmax (_ : Nat) (ps : List (Nat × LaneIn)) (_ : Nat) (x : LaneIn) : W64 :=
  zx (ps.foldl (fun acc (y : Nat × LaneIn) => if acc.slt (lo32 y.2.t) then lo32 y.2.t else acc) (lo32 x.t))

/-- redmin (R288). -/
def p0Redmin (_ : Nat) (ps : List (Nat × LaneIn)) (_ : Nat) (x : LaneIn) : W64 :=
  zx (ps.foldl (fun acc (y : Nat × LaneIn) => if (lo32 y.2.t).slt acc then lo32 y.2.t else acc) (lo32 x.t))

/-- ballot (R289). -/
def p0Ballot (width : Nat) (ps : List (Nat × LaneIn)) (_ : Nat) (_ : LaneIn) : W64 :=
  maskOf width fun j => ps.any fun (y : Nat × LaneIn) => y.1 == j && lo32 y.2.t != 0

/-- popl (R289). -/
def p0Popl (_ : Nat) (ps : List (Nat × LaneIn)) (l : Nat) (_ : LaneIn) : W64 :=
  w64 (ps.filter fun (y : Nat × LaneIn) => y.1 < l && lo32 y.2.t != 0).length

/-- pack8 (R290): four i16 values saturated to bytes. -/
def p0Pack8 (_ : Nat) (_ : List (Nat × LaneIn)) (_ : Nat) (x : LaneIn) : W64 :=
  let one (v : W64) (k : Nat) : Nat := ((satW32 (signedOf 16 (fld v (16 * k) 16)) (-128) 127).toNat) % 256
  w64 (one x.a 0 + 256 * one x.a 1 + 65536 * one x.t 0 + 16777216 * one x.t 1)

/-- unpk8 (R290): two bytes extended to halves. -/
def p0Unpk8 (_ : Nat) (_ : List (Nat × LaneIn)) (_ : Nat) (x : LaneIn) : W64 :=
  let h := fld x.a 0 1
  let one (k : Nat) : Nat :=
    let b := fld x.t (8 * k) 8
    if x.a.getLsbD 1 then b else if b < 128 then b else b + 0xFF00
  w64 (one (2 * h) + 65536 * one (2 * h + 1))

end Sys2Proof.Machine
end

