-- ==== Sys2Proof/Machine/QueueUnit.lean ====
section
/-!
DEFINITION. QueueUnit: the q0 unit (R320 to R323): named queues, their data operations at the queue, and the triggers.
-/

namespace Sys2Proof.Machine

/-! ### Naming (R320) -/

/-- Where a queue is: the workgroup that owns it and its number. -/
structure QAt where
  wid : Nat
  q : Nat
  deriving DecidableEq, Repr

/-- The queue a trigger value names, unless its first two cases make it invalid. -/
def State.queueAt (s : State) (g : GRef) (t : W64) : Option QAt :=
  match s.wg? g.wg with
  | none => none
  | some w =>
    let owner : Option Workgroup :=
      if !t.getLsbD 5 then some w
      else
        match w.gang.bind (s.gang? w.lid) with
        | some x => (x.members[fld t 6 5]?).bind s.wg?
        | none => none
    match owner with
    | some o => if fld t 0 5 < o.queues.length then some ⟨o.wid, fld t 0 5⟩ else none
    | none => none

/-- The queue there. -/
def State.queue? (s : State) (a : QAt) : Option Queue := (s.wg? a.wid).bind (·.queues[a.q]?)

/-- Change a queue. -/
def State.modQueue (s : State) (a : QAt) (f : Queue → Queue) : State :=
  s.modWg a.wid fun w => { w with queues := modAt w.queues a.q f }

/-- Handles held. -/
def Queue.count (q : Queue) : Nat := q.tail - q.head

/-! ### What the group sees (R322) -/

/-- The result word: handle and ST. -/
def qResult (h : W32) (st : Nat) : W64 := pair h (w32 st)

/-- Does the operation push a q0.r entry? -/
def QKind.gives (k : QKind) : Bool := k == .pop || k == .trypush || k == .trypop

/-- A queue operation has been performed: its q0.r lanes fill, and a push or pop no longer holds its group. One without a
result leaves the q0 queue; the others keep their place until their result is popped (R210, R323). -/
def Group.qDone (g : Group) (o : QOp) (res : W64) : Group :=
  let spent (x : QOp) : Bool := x.id == o.id && (!o.kind.gives || x.popped)
  let g : Group := { g with q0q := upd (fun (x : QOp) => x.id == o.id) (fun x => { x with done := true }) (drop spent g.q0q) }
  let g := if !o.kind.gives then g else (lanesOf g.width o.lanes).foldl (fun g l => g.land .q0 o.id l res false false) g
  g.dropWaits fun w => w == .queueOp o.id

/-- The same, for a waiter of a queue. -/
def State.qFinish (s : State) (x : QWait) (res : W64) : State := 
  s.modGroup x.g fun g => (g.qDone x.op res).settleFences (s.acqHeld x.g)

/-! ### At the queue (R322) -/

/-- Write a handle into the tail slot. -/
def State.qPut (s : State) (a : QAt) (q : Queue) (h : W32) : State :=
  (s.modWg a.wid fun w => { w with scratch := w.scratch.writeNat (q.base + 4 * (q.tail % q.depth)) 4 h.toNat }).modQueue a
    fun q => { q with tail := q.tail + 1 }

/-- The handle in the head slot, taken. -/
def State.qTake (s : State) (a : QAt) (q : Queue) : W32 × State :=
  let h := match s.wg? a.wid with
    | some w => w32 (w.scratch.readNat (q.base + 4 * (q.head % q.depth)) 4)
    | none => 0
  (h, s.modQueue a fun q => { q with head := q.head + 1 })

/-- Serve the waiting operations in order of arrival, for as long as the first of a kind can be served. -/
def serveQueue (a : QAt) : (fuel : Nat) → State → State
  | 0, s => s
  | fuel + 1, s =>
    match s.queue? a with
    | none => s
    | some q =>
      let room := decide (q.count < q.depth)
      let can (x : QWait) : Bool := if x.op.kind == .push then room else decide (0 < q.count)
      match q.waiting.find? can with
      | none => s
      | some x =>
        let s := s.modQueue a fun q => { q with waiting := drop (fun (y : QWait) => y == x) q.waiting }
        if x.op.kind == .push then serveQueue a fuel ((s.qPut a q x.op.handle).qFinish x 0)
        else
          let (h, s) := s.qTake a q
          serveQueue a fuel (s.qFinish x (qResult h 0))

/-- Release every waiter of a queue (R321): a pop with INVALID, a push with its handle dropped. -/
def State.qRelease (s : State) (a : QAt) : State :=
  match s.queue? a with
  | none => s
  | some q =>
    let s := s.modQueue a fun q => { q with waiting := [] }
    q.waiting.foldl (fun s x => s.qFinish x (qResult 0 2)) s

/-- An operation arrives at its queue and is performed there, or waits there (R322, R323). -/
def State.qArrive (s : State) (g : GRef) (o : QOp) : State :=
  let x : QWait := ⟨g, o⟩
  let invalid : W64 := match o.kind with
    | .trypush => qResult o.handle 2
    | .push | .pop | .trypop | .qinit | .qinval => qResult 0 2
  match s.queueAt g o.name with
  | none => s.qFinish x invalid
  | some a =>
    match s.queue? a with
    | none => s.qFinish x invalid
    | some q =>
      if o.kind == .qinit then
        ((s.qRelease a).modQueue a fun q =>
          { q with valid := true, base := o.handle.toNat, head := 0, tail := 0 }).qFinish x 0
      else if o.kind == .qinval then ((s.qRelease a).modQueue a fun q => { q with valid := false }).qFinish x 0
      else if !q.valid then s.qFinish x invalid
      else
        let waitingPush := q.waiting.any fun y => y.op.kind == .push
        let waitingPop := q.waiting.any fun y => y.op.kind == .pop
        match o.kind with
        | .qinit | .qinval => s
        | .push | .pop =>
          let s := s.modQueue a fun q => { q with waiting := q.waiting ++ [x] }
          serveQueue a (q.waiting.length + 2) s
        | .trypush =>
          if q.count < q.depth && !waitingPush then
            serveQueue a (q.waiting.length + 2) ((s.qPut a q o.handle).qFinish x (qResult o.handle 0))
          else s.qFinish x (qResult o.handle 1)
        | .trypop =>
          if 0 < q.count && !waitingPop then
            let (h, s) := s.qTake a q
            serveQueue a (q.waiting.length + 2) (s.qFinish x (qResult h 0))
          else s.qFinish x (qResult 0 1)

/-! ### Triggers -/

/-- A data operation: it enters the q0 queue; a push or pop holds its group until it is performed. One that applies to no
lane performs nothing: a pop, trypush or trypop then pushes an entry with ST 01. -/
def qTrigger (k : QKind) : Trigger := fun i s =>
  .ok (s.onGroup i fun g =>
    let (id, g) := g.takeOrd
    match lowestLane i.width i.lanes with
    | none =>
      if k == .push then g
      else
        let e : REntry := { newEntry g id 0 with vals := List.replicate g.width (qResult 0 1) }
        let o : QOp := { id := id, kind := k, name := 0, handle := 0, lanes := 0, arrived := true, done := true, popped := false }
        { g with q0r := g.q0r ++ [e], q0q := g.q0q ++ [o] }
    | some l =>
      let o : QOp :=
        { id := id, kind := k, name := i.tv l, handle := lo32 (g.opnd l 0x0E 0), lanes := i.lanes, arrived := false, done := false,
          popped := false }
      let g : Group := { g with q0q := g.q0q ++ [o] }
      let g := if k == .push then g else { g with q0r := g.q0r ++ [newEntry g id i.lanes] }
      if k == .push || k == .pop then g.addWait (.queueOp id) else g)

def q0Push : Trigger := qTrigger .push
def q0Pop : Trigger := qTrigger .pop
def q0Trypush : Trigger := qTrigger .trypush
def q0Trypop : Trigger := qTrigger .trypop

/-- Queue a qinit or qinval behind the group's earlier q0 triggers (R323). -/
def Group.qControl (g : Group) (k : QKind) (name : W64) (base : W32) (lanes : Mask) : Group :=
  let (id, g) := g.takeOrd
  { g with q0q := g.q0q ++
      [{ id := id, kind := k, name := name, handle := base, lanes := lanes, arrived := false, done := false,
         popped := false }] }

/-- Make a queue valid and empty at scratchpad offset A of its owner (R321). -/
def q0Qinit : Trigger := fun i s =>
  match s.group? i.g, lowestLane i.width i.lanes with
  | some g, some l =>
    let queue (s : State) : TrigRes := .ok (s.onGroup i fun g => g.qControl .qinit (i.tv l) (lo32 (g.opnd l 0x0E 0)) i.lanes)
    match s.queueAt i.g (i.tv l) with
    | none => queue s
    | some a =>
      let base := (lo32 (g.opnd l 0x0E 0)).toNat
      let va := 0xFF000000000000 + base
      match s.queue? a, s.wg? a.wid with
      | some q, some owner =>
        if base % 4 != 0 then
          .trap { precise 0x06 0 i.bus with addr := w64 va, lane := l, lanes := i.lanes }
        else if owner.scratchSize < base + 4 * q.depth then
          .trap { precise 0x07 fcWindowBound i.bus with addr := w64 va, lane := l, lanes := i.lanes }
        else queue s
      | _, _ => .ok s
  | _, _ => .ok s

/-- Make a queue invalid and release its waiters (R321). -/
def q0Qinval : Trigger := fun i s =>
  match lowestLane i.width i.lanes with
  | none => .ok s
  | some l => .ok (s.onGroup i fun g => g.qControl .qinval (i.tv l) 0 i.lanes)

end Sys2Proof.Machine
end

