-- ==== Sys2Proof/Machine/Table.lean ====
section
/-!
DEFINITION. Table: the trigger each port of each unit starts (R228 to R240), as lists from port 0x04 up.
-/

namespace Sys2Proof.Machine

/-- Triggers of a0 and a1 (R228). -/
def tbl04 : List Trigger :=
  [laneTrigger aAdd, laneTrigger aSub, laneTrigger aAddc, laneTrigger aSubb, laneTrigger aAdds, laneTrigger aSubs,
   laneTrigger aAddsn, laneTrigger aSubsn, laneTrigger aAnd, laneTrigger aOr, laneTrigger aXor, laneTrigger aAndn,
   laneTrigger aShl, laneTrigger aShr, laneTrigger aSar, laneTrigger aRol, laneTrigger aMin, laneTrigger aMax,
   laneTrigger aMinn, laneTrigger aMaxn, laneTrigger aAbs, laneTrigger aNeg, laneTrigger aClz, laneTrigger aPopc,
   laneTrigger aBrev, laneTrigger aSel, laneTrigger aBext, laneTrigger aBins, laneTrigger aAdd64, laneTrigger aSub64,
   laneTrigger aPass]

/-- Triggers of m0 (R229). -/
def tbl06 : List Trigger :=
  [laneTrigger m0Mul, laneTrigger m0Mulhi, laneTrigger m0Mulhin, laneTrigger m0Mulw, laneTrigger m0Mad,
   laneTrigger m0Lea, divTrigger m0Div, divTrigger m0Divn]

/-- Triggers of f0 (R230). -/
def tbl07 : List Trigger :=
  [laneTrigger fAdd, laneTrigger fSub, laneTrigger fMul, laneTrigger fFma, laneTrigger fFms, laneTrigger fFnma,
   laneTrigger fMin, laneTrigger fMax, laneTrigger fAbs, laneTrigger fNeg, laneTrigger fCsgn, laneTrigger fFloor,
   laneTrigger fCeil, laneTrigger fTrunc, laneTrigger fRint, laneTrigger fCvtif, laneTrigger fCvtnf,
   laneTrigger fCvtfi, laneTrigger fCvtfn, flushTrigger fCvth, flushTrigger fCvtb, laneTrigger fCvte4,
   laneTrigger fCvte5, laneTrigger fCvtf4, flushTrigger fCvthf, flushTrigger fCvtbf, laneTrigger fCvte4f,
   laneTrigger fCvte5f, laneTrigger fCvtf4f, flushTrigger fHadd2, flushTrigger fHfma2, flushTrigger fBfma2]

/-- Triggers of f1 (R230). -/
def tbl08 : List Trigger :=
  [laneTrigger fAdd, laneTrigger fSub, laneTrigger fMul, laneTrigger fFma, laneTrigger fFms, laneTrigger fFnma,
   laneTrigger fMin, laneTrigger fMax, laneTrigger fAbs, laneTrigger fNeg, laneTrigger fCsgn, laneTrigger fFloor,
   laneTrigger fCeil, laneTrigger fTrunc, laneTrigger fRint, laneTrigger fCvtif, laneTrigger fCvtnf,
   laneTrigger fCvtfi, laneTrigger fCvtfn, flushTrigger fCvth, flushTrigger fCvtb, laneTrigger fCvte4,
   laneTrigger fCvte5, laneTrigger fCvtf4, flushTrigger fCvthf, flushTrigger fCvtbf, laneTrigger fCvte4f,
   laneTrigger fCvte5f, laneTrigger fCvtf4f, flushTrigger fHadd2, flushTrigger fHfma2, flushTrigger fBfma2]

/-- Triggers of x0 (R231). -/
def tbl09 : List Trigger :=
  [laneTrigger x0Rcp, laneTrigger x0Rsqrt, laneTrigger x0Sqrt, laneTrigger x0Exp2, laneTrigger x0Log2,
   laneTrigger x0Sinpi, laneTrigger x0Cospi, laneTrigger x0Tanh, laneTrigger x0Sigm, laneTrigger x0Gelu,
   laneTrigger x0Fdiv, laneTrigger x0Twid, laneTrigger x0Rnd, genTrigger x0Seed]

/-- Triggers of c0 (R232). -/
def tbl0A : List Trigger :=
  [laneTrigger c0Eq, laneTrigger c0Ne, laneTrigger c0Lt, laneTrigger c0Le, laneTrigger c0Ltn, laneTrigger c0Len,
   laneTrigger c0Feq, laneTrigger c0Fne, laneTrigger c0Flt, laneTrigger c0Fle, laneTrigger c0Fun, laneTrigger c0Fcls,
   laneTrigger c0Btst, laneTrigger c0Eq64, laneTrigger c0Lt64, laneTrigger c0Ltn64]

/-- Triggers of p0 (R232). -/
def tbl0B : List Trigger :=
  [groupTrigger p0Idx, groupTrigger p0Scan, groupTrigger p0Scanf, groupTrigger p0Redadd, groupTrigger p0Redmax,
   groupTrigger p0Redmin, groupTrigger p0Ballot, groupTrigger p0Popl, groupTrigger p0Pack8, groupTrigger p0Unpk8]

/-- Triggers of ld (R234). -/
def tbl0C : List Trigger :=
  [ldL8, ldL8n, ldL16, ldL16n, ldL32, ldL64, ldS8, ldS16, ldS32, ldS64, ldFeacq, ldFerel, ldFefull]

/-- Triggers of cp (R235). -/
def tbl0D : List Trigger :=
  [cpG2s, cpS2g, cpS2s, cpShape, cpSeal, cpWait, cpWptr, cpBar]

/-- Triggers of q0 (R236). -/
def tbl0E : List Trigger :=
  [q0Push, q0Pop, q0Trypush, q0Trypop, q0Qinit, q0Qinval]

/-- Triggers of mx (R237). -/
def tbl0F : List Trigger :=
  [mxCfg, mxFmt, mxGo, mxWait, mxPoll, mxStat, mxBank, mxReset]

/-- Triggers of am (R238). -/
def tbl10 : List Trigger :=
  [amSwap, amSwap64, amCas, amCas64, amAdd, amAdd64, amAnd, amOr, amXor, amMin, amMax, amFadd, amRadd, amRadd64,
   amRfadd, amRmax, amAcinit, amActake, amAcgive, amAcread, amAcpeek, amAcfree]

/-- Triggers of xe (R239). -/
def tbl11 : List Trigger :=
  [xeOpen, xeSend, xeSel, xeClose, xeIdle, xeClr]

/-- Triggers of sy (R240). -/
def tbl12 : List Trigger :=
  [syJmp, syBr, syCall, syRet, syMark, syJoin, syLoop, syBrk, syBar, syBarar, syBarwt, syBarinit, syBarinv, syCbar,
   syCbarar, syCbarinit, syCbarinv, syWait, syTime, syTrap, syChkerr, sySegchk, syEnd, syIcinv, syGstat, syRfe,
   syYield, syTrec, syDbg]

/-- Triggers of bf (R233). -/
def tbl13 : List Trigger :=
  [laneTrigger bfDit2, laneTrigger bfDif2, laneTrigger bfFft4e, laneTrigger bfFft4o, laneTrigger bfCmul,
   laneTrigger bfCmulc]

/-- The trigger of a port of a unit. -/
def trigTable (unit port : Nat) : Option Trigger :=
  let at_ (l : List Trigger) : Option Trigger := if port < 4 then none else l[port - 4]?
  match unit with
  | 0x04 => at_ tbl04
  | 0x05 => at_ tbl04
  | 0x06 => at_ tbl06
  | 0x07 => at_ tbl07
  | 0x08 => at_ tbl08
  | 0x09 => at_ tbl09
  | 0x0A => at_ tbl0A
  | 0x0B => at_ tbl0B
  | 0x0C => if port == 0x30 then some ldPgstate else at_ tbl0C
  | 0x0D => at_ tbl0D
  | 0x0E => at_ tbl0E
  | 0x0F => at_ tbl0F
  | 0x10 => at_ tbl10
  | 0x11 => at_ tbl11
  | 0x12 => at_ tbl12
  | 0x13 => at_ tbl13
  | _ => none

end Sys2Proof.Machine
end

