-- ==== Sys2Proof/Machine/Engine.lean ====
section
/-!
DEFINITION. Engine: the leader (R192), and the issue of the bundle that holds one move on bus 0.
-/

namespace Sys2Proof.Machine

/-- The outcome of an issue: the state after it; a bundle that waits leaves the state as it is. -/
def IssueRes.outcome (r : IssueRes) (s : State) : Host.Outcome State Fault Refusal :=
  match r with
  | .done s => .next s
  | .noted s => .next s
  | .waits => .next s

/-- The group that issues the next bundle: the first candidate that is in no pad and is not asked to stop (R192). -/
def State.leader (s : State) : Option (Workgroup × Group) :=
  s.candidates.find? fun x => x.2.pad == 0 && (stopHere x.1 x.2).isNone

/-- Extension words a lone move takes: those its source names, and the guard word (R215, R217); a header holds at most 3. -/
def extnOf (m : Mv) : Nat :=
  let src := if srcClass m.s == 3 then extIndex m.s + (if extKind m.s == 3 then 2 else 1) else 0
  min 3 (src + (if wantsGuardWord m then 1 else 0))

/-- The bundle of a lone move on bus 0, whose extension words are zeros. -/
def loneBundle (word : W32) : Bundle :=
  let n := extnOf (mvOfWord word)
  { header := { present := 1, extn := n, pad := 0, clrhold := false, region := 0 }
    moves := [(0, word)]
    ext := List.replicate n 0 }

/-- The words of that bundle: header, move, extension words. -/
def loneWords (word : W32) : List W32 :=
  let n := extnOf (mvOfWord word)
  w32 (1 + 64 * n) :: word :: List.replicate n 0

/-- The bundle of a lone move, issued by a group at its program counter. -/
def issueLone (s : State) (w : Workgroup) (g : Group) (word : W32) : IssueRes :=
  let r := refOf w g
  match s.launchOf? r, s.who? r with
  | some l, some who =>
    (execBundle trigTable s r g l (loneBundle word) (loneWords word) g.pc (4 * (loneWords word).length) false).settle who
  | _, _ => .waits

/-- The leader issues the bundle of a lone move; with no leader nothing issues. -/
def issueOne (dest : BitVec 12) (m : Mv) (s : State) : Host.Outcome State Fault Refusal :=
  match s.leader with
  | some (w, g) => (issueLone s w g (mvWord m dest)).outcome s
  | none => .next s

end Sys2Proof.Machine
end

