-- ==== Sys2Proof/Machine/Counters.lean ====
section
/-!
DEFINITION. Counters: apportioned counters (R161 to R173): takes and gives at cores and dies, the home's requests, grants,
recalls and returns. Requests for a counter wait in the order of their arrival, at a die in State.takes and at the home in
Counter.waiting.
-/

namespace Sys2Proof.Machine

/-- The live counter of a word. -/
def State.counter? (s : State) (word : Nat) : Option Counter := s.counters.find? (·.word == word)

/-- Change it. -/
def State.modCounter (s : State) (word : Nat) (f : Counter → Counter) : State :=
  { s with counters := upd (·.word == word) f s.counters }

/-- Set the reserve H; the counter's word reads as H while it is live (R161). -/
def State.setH (s : State) (word h : Nat) : State :=
  match s.counter? word with
  | some c => (s.modCounter word fun c => { c with h := h }).writeWord c.ctx word (w64 h)
  | none => s

/-- Largest value of a counter. -/
def ctrMax : Nat := 2 ^ 63 - 1

/-- An amount arrives at the home: added with saturation (R168). -/
def State.addH (s : State) (word n : Nat) : State :=
  match s.counter? word with
  | some c =>
    if ctrMax < c.h + n then (s.setH word ctrMax).modCounter word fun c => { c with ovf := true } else s.setH word (c.h + n)
  | none => s

/-- Home die of a counter. -/
def State.ctrHome (s : State) (word : Nat) : Nat := s.homeDie (partOf word)

/-! ### Allowances (R162, R166) -/

/-- A die's part of a counter. -/
def Counter.die? (c : Counter) (d : Nat) : Option DieAllow := c.dies.find? (·.die == d)

/-- Change it, creating it with grant size 8g. -/
def Counter.modDie (c : Counter) (d : Nat) (f : DieAllow → DieAllow) : Counter :=
  let new : DieAllow := { die := d, f := 0, sd := 8 * c.g, lastGrant := none }
  { c with dies := upsert (·.die == d) new f c.dies }

/-- A core's allowance. -/
def Counter.core? (c : Counter) (k : CoreId) : Option CoreAllow := c.cores.find? (·.core == k)

/-- Change it, creating it with grant size g. -/
def Counter.modCore (c : Counter) (k : CoreId) (f : CoreAllow → CoreAllow) : Counter :=
  { c with cores := upsert (·.core == k) { core := k, c := 0, sc := c.g, lastReq := none } f c.cores }

/-- Cycles of the arithmetic clock that have passed since a time in ns (R4). -/
def cyclesSince (now since : Nat) : Nat := (now - since) * 3 / 2

/-- The free part of a die. -/
def Counter.freePart (c : Counter) (d : Nat) : Nat :=
  match c.die? d with
  | some a => a.f
  | none => 0

/-- The allowance of a core. -/
def Counter.allowance (c : Counter) (k : CoreId) : Nat :=
  match c.core? k with
  | some a => a.c
  | none => 0

/-- An operation of a die, or of an agent outside (die 4), reaches the counter's line at its home: the line's copies are recalled, and
with C = 0 none is filled (R61, R62). False: copies on other dies have to be invalidated first (R64). -/
def State.ctrLine (s : State) (ctx word die : Nat) (fill : Bool) : State × Bool :=
  match s.homeAccess (s.cacheReq ⟨die, 0⟩ ctx none word 0 true) true fill with
  | .wait s => (s, false)
  | .done _ s => (s, true)

/-- A home operation of a counter is counted, once, as a write of the die it comes from, 4 for another device (R69, R70). -/
def State.countCtr (s : State) (word die : Nat) : State :=
  (if die < Config.numDies then s.countAccess (partOf word) die true else s.countExt (partOf word) true).noteWrite (partOf word)

/-! ### Amounts on their way (R166, R168, R169) -/

/-- Send an amount from a die to the home (R166, R169): COUNTER_RETURN brings it there. -/
def State.homeward (s : State) (word die amount : Nat) (p : Option PieceRef) : State :=
  if amount == 0 && p.isNone then s
  else s.modCounter word fun c => { c with inflight := c.inflight ++ [(die, amount, p)] }

/-- F of a die has grown: what is above 1,024g goes home (R166). -/
def State.spillDie (s : State) (word die : Nat) : State :=
  match (s.counter? word).bind fun c => (c.die? die).map (c, ·) with
  | some (c, d) =>
    if 1024 * c.g < d.f then
      (s.modCounter word fun c => c.modDie die fun d => { d with f := 512 * c.g }).homeward word die (d.f - 512 * c.g) none
    else s
  | none => s

/-- Allowance caches that have lost their last entry of a context on some dies send their notices (R169). -/
def State.leaveDies (s : State) (ctx : Nat) (dies : List Nat) : State :=
  dies.foldl (fun s die =>
    if s.counters.any fun x => x.ctx == ctx && (x.die? die).isSome then s else s.sendNotices (s.cacheIdent ctx die)) s

/-- A die gives up its entry: its free part goes home (R166). -/
def State.dropDieAllow (s : State) (word die : Nat) : State :=
  match (s.counter? word).bind fun c => (c.die? die).map (c, ·) with
  | some (c, d) =>
    ((s.homeward word die d.f none).modCounter word fun c => { c with dies := drop (·.die == die) c.dies }).leaveDies c.ctx [die]
  | none => s

/-- Has a core a take or give of the counter in progress? -/
def State.coreBusy (s : State) (word : Nat) (k : CoreId) : Bool :=
  s.takes.any fun t => t.word == word && t.die == k.die && t.core == k.core

/-- Has a die one, or a request of it? -/
def State.dieBusy (s : State) (word die : Nat) : Bool := s.takes.any fun t => t.word == word && t.die == die

/-- Room for an entry of a counter at a die's cache of 256: the counter created first that has no request in progress on the die
leaves (log 12). None when there is no such entry. -/
def State.roomDie (s : State) (word die : Nat) : Option State :=
  let held := s.counters.filter fun c => (c.die? die).isSome
  if held.any (·.word == word) || held.length < 256 then some s
  else (held.find? fun c => !s.dieBusy c.word die).map fun v => s.dropDieAllow v.word die

/-- An amount goes from a core to its die, or, where the die's cache has no room for an entry or the counter is recalled, on to the
home (R165, R166). -/
def State.toDie (s : State) (word die amount : Nat) : State :=
  let frozen := (s.counter? word).any fun c => c.round == 2
  match if frozen then none else s.roomDie word die with
  | some s => (s.modCounter word fun c => c.modDie die fun d => { d with f := d.f + amount }).spillDie word die
  | none => s.homeward word die amount none

/-- C of a core has grown: what is above 128g goes to its die (R166). -/
def State.spillCore (s : State) (word : Nat) (k : CoreId) : State :=
  match (s.counter? word).bind fun c => (c.core? k).map (c, ·) with
  | some (c, a) =>
    if 128 * c.g < a.c then
      (s.modCounter word fun c => c.modCore k fun a => { a with c := 64 * c.g }).toDie word k.die (a.c - 64 * c.g)
    else s
  | none => s

/-- A core gives up its entry: the whole amount goes to its die (R166). -/
def State.dropCoreAllow (s : State) (word : Nat) (k : CoreId) : State :=
  match (s.counter? word).bind (·.core? k) with
  | some a => (s.modCounter word fun c => { c with cores := drop (·.core == k) c.cores }).toDie word k.die a.c
  | none => s

/-- Room for an entry of a counter at a core's cache of 32: the counter created first that has no request in progress at the core
leaves (log 12). None when there is no such entry. -/
def State.roomCore (s : State) (word : Nat) (k : CoreId) : Option State :=
  let held := s.counters.filter fun c => (c.core? k).isSome
  if held.any (·.word == word) || held.length < 32 then some s
  else (held.find? fun c => !s.coreBusy c.word k).map fun v => s.dropCoreAllow v.word k

/-- The oldest amount that can go on does: over the on-die network to the home, where it is added with saturation; or from another
die as a covered operation of its allowance cache, once its window lets it (R147, R168, R169). -/
def State.returnAmount (s : State) (word : Nat) : Option State :=
  (s.counter? word).bind fun c =>
    let (home, slice) := s.homeOf word
    let ident (die : Nat) : Nat := s.cacheIdent c.ctx die
    let goes (x : Nat × Nat × Option PieceRef) : Bool := x.1 == home.die || (s.windowOpen (ident x.1) && (s.incOf x.1 home).isSome)
    match c.inflight.find? goes with
    | none => none
    | some (die, n, p) =>
      let rest (s : State) : State := s.modCounter word fun c => { c with inflight := c.inflight.erase (die, n, p) }
      if die == home.die then
        match s.ctrLine c.ctx word die c.cached with
        | (s, false) => some s
        | (s, true) => some (((rest s).countCtr word die).addH word n)
      else
        some ((rest s).sendCovered (ident die) c.ctx die home slice ((s.incOf die home).getD 0) (.giveBack word n p))

/-! ### At the core and the die (R163, R164, R168, R169) -/

/-- What an attempt to serve an operation comes to. -/
inductive CtrTry where
  | ends (status : Nat) (val : W64) (flag : Bool) (s : State)
  /-- it is on its way; its piece ends later -/
  | sent (s : State)
  /-- it waits where it is -/
  | wait
  deriving DecidableEq, Repr

/-- Refill a core from its die's F and take n (R164). None when F and C do not hold n. -/
def State.refillTake (s : State) (word : Nat) (k : CoreId) (n : Nat) (since : Option Nat) : Option State :=
  (s.counter? word).bind fun c =>
    let a := (c.core? k).getD { core := k, c := 0, sc := c.g, lastReq := none }
    let f := c.freePart k.die
    if a.c + f < n then none
    else
      let x := min f (max (n - a.c) a.sc)
      some (s.modCounter word fun c =>
        (c.modDie k.die fun d => { d with f := d.f - x }).modCore k fun a =>
          { a with c := a.c + x - n, lastReq := a.lastReq.or since })

/-- The core asks its die for a refill: its grant size doubles when it asked within 4,096 cycles (R166). An entry that the refill
creates keeps the time of this request. -/
def State.askDie (s : State) (word : Nat) (k : CoreId) : State :=
  s.modCounter word fun c =>
    if (c.core? k).isSome then
      c.modCore k fun a =>
        let quick : Bool := match a.lastReq with
          | some t => decide (cyclesSince s.clock t ≤ 4096)
          | none => false
        { a with sc := if quick then min (64 * c.g) (2 * a.sc) else a.sc, lastReq := some s.clock }
    else c

/-- Forget a take that waits, and end its piece. -/
def State.endTake (s : State) (t : TakeWait) (status : Nat) (val : W64) (flag : Bool) : State :=
  ({ s with takes := s.takes.erase t } : State).finishPiece t.p status val flag false

/-- A give goes from a die to the home, where it waits in the order of arrival and its piece ends: over the on-die network, or under
the identity of the die's cache (R165, R168, R169). -/
def State.giveHome (s : State) (word die n : Nat) (p : PieceRef) : State :=
  if s.ctrHome word == die then
    s.modCounter word fun c => { c with waiting := c.waiting ++ [.op .acgive (w64 n) 0 die (.lane p)] }
  else s.homeward word die n (some p)

/-- A give at a core or its die (R168): C, then F; with no entry for the word at either, or a counter that is FROZEN, it goes home. -/
def State.giveAt (s : State) (word : Nat) (k : CoreId) (n : Nat) (p : PieceRef) : State :=
  match s.counter? word with
  | none => s.finishPiece p 0x44 0 false false
  | some c =>
    if c.st == .live && (c.core? k).isSome then
      ((s.modCounter word fun c => c.modCore k fun a => { a with c := a.c + n }).spillCore word k).finishPiece p 0 0 false false
    else if c.st == .live && (c.die? k.die).isSome then
      ((s.modCounter word fun c => c.modDie k.die fun d => { d with f := d.f + n }).spillDie word k.die).finishPiece p 0 0 false false
    else s.giveHome word k.die n p

/-- A die asks the home for `need` on behalf of a take (R164, R169). None while its cache has no room, or its identity's window is
closed. -/
def State.askHome (s : State) (t : TakeWait) (ctx need : Nat) : Option State :=
  let (home, slice) := s.homeOf t.word
  let cache := s.cacheIdent ctx t.die
  let asked (s : State) : State :=
    { s with takes := upd (· == t) (fun x => { x with asked := true }) s.takes }
  let entry : Option State := match s.counter? t.word with
    | some _ => (s.roomDie t.word t.die).map fun s => s.modCounter t.word fun c => c.modDie t.die id
    | none => some s
  match entry with
  | none => none
  | some s =>
    if home.die == t.die then
      if (s.counter? t.word).isNone then some (s.endTake t 0x44 0 false)
      else some ((asked s).modCounter t.word fun c => { c with waiting := c.waiting ++ [.grant t.die t.n need (.lane t.p)] })
    else
      match s.incOf t.die home with
      | none => some (s.endTake t 1 0 false)
      | some stamp =>
        if !s.windowOpen cache then none
        else some ((asked s).sendCovered cache ctx t.die home slice stamp (.grant t.word t.n need t.p))

/-- A die serves what waits at it for a counter, in the order of arrival (R164): from C, from F, or by a request to the home, which
holds the later ones back. A core that C does not suffice asks its die for a refill first (R166). While the counter is FROZEN every
take and give goes to the home (R165). -/
def serveDie (word die ctx : Nat) : (fuel : Nat) → State → State
  | 0, s => s
  | fuel + 1, s =>
    let mine (t : TakeWait) : Bool := t.word == word && t.die == die
    let frozen := (s.counter? word).any fun c => c.st == .frozen
    match s.takes.find? fun t => mine t && !(frozen && t.asked) with
    | none => s
    | some t =>
      let k : CoreId := ⟨die, t.core⟩
      let drop_ : State := { s with takes := s.takes.erase t }
      if t.asked then s
      else
        match s.counter? word with
        | none =>
          if t.give then serveDie word die ctx fuel (s.endTake t 0x44 0 false)
          else match s.askHome t ctx t.n with
            | some s => serveDie word die ctx fuel s
            | none => s
        | some c =>
          if c.st == .poisoned then serveDie word die ctx fuel (s.endTake t 0x48 0 false)
          else if t.give then serveDie word die ctx fuel (drop_.giveAt word k t.n t.p)
          else if c.st == .live && t.n ≤ c.allowance k then
            serveDie word die ctx fuel ((s.modCounter word fun c => c.modCore k fun a => { a with c := a.c - t.n }).endTake t 0 1 true)
          else if c.st == .live && t.since.isNone then
            let asks : State := { s with takes := upd (· == t) (fun x => { x with since := some s.clock }) s.takes }
            serveDie word die ctx fuel (asks.askDie word k)
          else if c.st == .live && t.n ≤ c.allowance k + c.freePart die then
            match (drop_.roomCore word k).bind fun s => s.refillTake word k t.n t.since with
            | some s => serveDie word die ctx fuel (s.finishPiece t.p 0 1 true false)
            | none => s
          else
            match s.askHome t ctx (if c.st == .frozen then t.n else t.n - c.allowance k - c.freePart die) with
            | some s => serveDie word die ctx fuel s
            | none => s

/-- Serve what waits at a die for a counter. -/
def State.serveAt (s : State) (word die ctx : Nat) : State := serveDie word die ctx (2 * s.takes.length + 1) s

/-- The same on every die. -/
def State.serveDies (s : State) (word ctx : Nat) : State :=
  (List.range Config.numDies).foldl (fun s d => s.serveAt word d ctx) s

/-- Send an operation of a lane to the counter's home (R169): it waits there, or travels as a covered operation. -/
def State.toHome (s : State) (w : Workgroup) (g : Group) (h : HomeOp) (word : Nat) (p : PieceRef) : CtrTry :=
  let (home, slice) := s.homeOf word
  if home.die == w.core.die then
    .sent (s.modCounter word fun c => { c with waiting := c.waiting ++ [.op (h.am.getD .acgive) h.t h.b home.die (.lane p)] })
  else
    match s.incOf w.core.die home with
    | none => .ends 1 0 false s
    | some stamp =>
      if !s.windowOpen g.ident then .wait else .sent (s.sendCovered g.ident w.ctx w.core.die home slice stamp (.access p h))

/-- Let a take, or a give behind one, wait at its die. -/
def State.queueTake (s : State) (w : Workgroup) (word n : Nat) (give : Bool) (p : PieceRef) : State :=
  let t : TakeWait :=
    { die := w.core.die, word := word, ctx := w.ctx, core := w.core.core, n := n, give := give, p := p, since := none, asked := false,
      granted := none }
  ({ s with takes := s.takes ++ [t] } : State).serveAt word w.core.die w.ctx

/-- A take of n by a core (R164). -/
def State.ctrTake (s : State) (w : Workgroup) (g : Group) (h : HomeOp) (word n : Nat) (p : PieceRef) : CtrTry :=
  let k := w.core
  if n == 0 then .ends 0 1 true s
  else
    match s.counter? word with
    | none => .sent (s.queueTake w word n false p)
    | some c =>
      if c.st == .poisoned then .ends 0x48 0 false s
      else if c.st == .frozen then s.toHome w g h word p
      else if s.coreBusy word k then .sent (s.queueTake w word n false p)
      else if n ≤ c.allowance k then .ends 0 1 true (s.modCounter word fun c => c.modCore k fun a => { a with c := a.c - n })
      else .sent (s.queueTake w word n false p)

/-- A give of n by a core (R168, R169). A word of this device that has no live counter gets NO-COUNTER from its home. -/
def State.ctrGive (s : State) (w : Workgroup) (g : Group) (h : HomeOp) (word n : Nat) (p : PieceRef) : CtrTry :=
  let k := w.core
  let (home, slice) := s.homeOf word
  let cache := s.cacheIdent w.ctx k.die
  if n == 0 then .ends 0 0 false s
  else
    match s.counter? word with
    | none =>
      if home.die == k.die then .ends 0x44 0 false s
      else
        match s.incOf k.die home with
        | none => .ends 1 0 false s
        | some stamp =>
          if !s.windowOpen cache then .wait
          else .sent (s.sendCovered cache w.ctx k.die home slice stamp (.giveBack word n (some p)))
    | some c =>
      if c.st == .poisoned then .ends 0x48 0 false s
      else if c.st == .frozen then s.toHome w g h word p
      else if s.coreBusy word k then .sent (s.queueTake w word n true p)
      else .sent (s.giveAt word k n p)

/-! ### At the home (R163, R165, R170 to R173) -/

/-- A die's request was refused, or its take is over otherwise: the take ends; a die that never had a grant keeps no entry (R169; log
33). -/
def State.refuseTake (s : State) (word die ctx status : Nat) (p : PieceRef) : State :=
  match s.takes.find? fun t => t.word == word && t.die == die && t.p == p with
  | none => s
  | some t =>
    let s := s.endTake t status 0 false
    let bare := (s.counter? word).any fun c => match c.die? die with
      | some d => d.lastGrant.isNone && d.f == 0
      | none => false
    let s := if bare && !s.dieBusy word die then s.dropDieAllow word die else s
    s.serveAt word die ctx

/-- The home refuses a die's request. -/
def State.refuseGrant (s : State) (word die ctx status : Nat) (a : Asker) : State :=
  match a with
  | .lane p => s.refuseTake word die ctx status p
  | .op _ => s.endForwarded a status 0 false

/-- Live counters homed at the slice of a word. -/
def State.tableUse (s : State) (word : Nat) : Nat :=
  (s.counters.filter fun c => s.homeSlice c.word == s.homeSlice word).length

/-- acinit on a word that has no live counter (R160, R163). The round-robin pointer of a new counter stands at die 3, so that round one
begins with die 0 (log 65). -/
def State.initCounter (s : State) (ctx word : Nat) (cached : Bool) (t b : W64) (a : Asker) : State :=
  let g := (lo32 b).toNat
  if ctrMax < t.toNat || g == 0 || 65536 < g then s.endForwarded a 0x47 0 false
  else if 256 ≤ s.tableUse word then s.endForwarded a 0x45 0 false
  else
    let c : Counter :=
      { word := word, ctx := ctx, cached := cached, h := t.toNat, g := g, st := .live, rr := 3, ovf := false, dies := [], cores := [],
        inflight := [], waiting := [], round := 0, recallDies := [], recallCores := [], visited := [] }
    (({ s with counters := s.counters ++ [c] } : State).setH word t.toNat).endForwarded a 0 t true

/-- A request that waited at a counter which is no more (R173): a take or give ends with NO-COUNTER, and so does any other operation
unless an acinit before it has made a new counter. -/
def State.meetFreed (s : State) (ctx word : Nat) (cached : Bool) (r : CtrReq) : State :=
  match r with
  | .grant die _ _ a => s.refuseGrant word die ctx 0x44 a
  | .op o t b die a =>
    if o == .acinit && (s.counter? word).isNone then s.initCounter ctx word cached t b a
    else if (s.counter? word).isNone || o == .actake || o == .acgive then s.endForwarded a 0x44 0 false
    else s.modCounter word fun c => { c with waiting := c.waiting ++ [.op o t b die a] }

/-- Remove a counter: its word holds a value, its entries leave the caches, and what waits at it is settled. -/
def State.removeCounter (s : State) (word : Nat) (v : W64) : State :=
  match s.counter? word with
  | none => s
  | some c =>
    let s := (({ s with counters := drop (·.word == word) s.counters } : State).writeWord c.ctx word v).leaveDies c.ctx
      (c.dies.map (·.die))
    let s := c.inflight.foldl (fun s (_, _, p) => match p with
      | some p => s.finishPiece p 0x44 0 false false
      | none => s) s
    (c.waiting.foldl (fun s r => s.meetFreed c.ctx word c.cached r) s).serveDies word c.ctx

/-- A counter operation of a lane, or of another device, reaches the home of its word, where requests are served in the order of their
arrival (R165); cached is C of the page it comes through. False: it has to wait at the bank for a collapse or an invalidation. -/
def State.homeCounter (s : State) (ctx : Nat) (o : AmOp) (word : Nat) (cached : Bool) (t b : W64) (die : Nat) (a : Asker) :
    State × Bool :=
  match s.counter? word with
  | none =>
    if o != .acinit then (s.endForwarded a 0x44 0 false, true)
    else
      match s.writeGate (partOf word) die with
      | some s => (s, false)
      | none =>
        match s.ctrLine ctx word die cached with
        | (s, false) => (s, false)
        | (s, true) => ((s.countCtr word die).initCounter ctx word cached t b a, true)
  | some c =>
    if c.st == .poisoned then
      if o != .acfree then (s.endForwarded a 0x48 0 false, true)
      else
        match s.ctrLine ctx word die cached with
        | (s, false) => (s, false)
        | (s, true) => (((s.countCtr word die).removeCounter word 0).endForwarded a 0x48 0 false, true)
    else (s.modCounter word fun c => { c with waiting := c.waiting ++ [.op o t b die a] }, true)

/-- Is an amount of the counter that a core or a die held still on its way home (R170)? A give that has gone to the home is none of
them: it waits there (R165). -/
def State.amountsOut (s : State) (c : Counter) : Bool :=
  (c.inflight.any fun x => x.2.2.isNone) || s.covOps.any fun o => match o.body with
    | .giveBack word _ none => word == c.word && (s.cached? o.home o.slice o.ref).isNone
    | _ => false

/-- Is a grant on its way to a die, or there and not applied? The die answers a recall after it (R164). -/
def State.grantComing (s : State) (word die : Nat) : Bool :=
  (s.takes.any fun t => t.word == word && t.die == die && t.granted.isSome) || s.covOps.any fun o => match o.body with
    | .grant w _ _ _ => w == word && o.die == die && (s.cached? o.home o.slice o.ref).any fun e => e.status == 0 && e.flag
    | _ => false

/-- Round two, or an exact read, begins: every die and core is recalled. -/
def Counter.freeze (c : Counter) : Counter :=
  { c with round := 2, st := .frozen, visited := [], recallDies := List.range 4, recallCores := c.cores.map (·.core) }

/-- Round one goes on: the next die with a free part, round-robin after the last visited; none left starts round two. -/
def Counter.nextVisit (c : Counter) : Counter :=
  let order := (List.range 4).map fun i => (c.rr + 1 + i) % 4
  match order.find? fun d => !c.visited.contains d && c.freePart d != 0 with
  | some d => { c with round := 1, rr := d, visited := c.visited ++ [d], recallDies := [d] }
  | none => c.freeze

/-- The first waiting request is answered. -/
def Counter.served (c : Counter) : Counter := { c with waiting := c.waiting.drop 1, round := 0, visited := [], st := .live }

/-- Grant an amount to a die: its grant size doubles when the previous grant came within 16,384 cycles (R165, R166). -/
def State.grantOut (s : State) (word die y : Nat) (a : Asker) : State :=
  let s := s.modCounter word fun c => if (c.die? die).isNone then c else c.modDie die fun d =>
    let quick : Bool := match d.lastGrant with
      | some t => decide (cyclesSince s.clock t ≤ 16384)
      | none => false
    { d with sd := if quick then min (512 * c.g) (2 * d.sd) else d.sd, lastGrant := some s.clock }
  match a with
  | .lane p =>
    let mine (t : TakeWait) : Bool := t.word == word && t.die == die && t.p == p
    { s with takes := upd mine (fun t => { t with granted := some y }) s.takes }
  | .op _ => s.endForwarded a 0 (w64 y) true

/-- The home answers the first waiting request of a counter with a value: H becomes h. -/
def State.serveOp (s : State) (word h : Nat) (a : Asker) (v : W64) (flag : Bool) : State :=
  ((s.setH word h).modCounter word (·.served)).endForwarded a 0 v flag

/-- What the home does with the first waiting request of a counter, its line at hand (R165, R170, R171, R173). -/
def State.serveFirst (s : State) (c : Counter) (r : CtrReq) : State :=
  match r with
  | .grant die n need a =>
    if c.round == 2 then
      let s' := s.modCounter c.word (·.served)
      if n ≤ c.h then (s'.setH c.word (c.h - n)).grantOut c.word die n a else s'.refuseGrant c.word die c.ctx 0 a
    else if need ≤ c.h then
      let sd := match c.die? die with
        | some d => d.sd
        | none => 8 * c.g
      let y := min c.h (max need (min sd (c.h / 2)))
      ((s.modCounter c.word (·.served)).setH c.word (c.h - y)).grantOut c.word die y a
    else s.modCounter c.word (·.nextVisit)
  | .op .actake t _ _ a =>
    let n := (lo32 t).toNat
    if n ≤ c.h then s.serveOp c.word (c.h - n) a 1 true
    else if c.round == 2 then s.serveOp c.word c.h a 0 false
    else s.modCounter c.word (·.nextVisit)
  | .op .acgive t _ _ a => ((s.addH c.word (lo32 t).toNat).modCounter c.word (·.served)).endForwarded a 0 0 false
  | .op .acpeek _ _ _ a => s.serveOp c.word c.h a (w64 c.h) true
  | .op .acinit _ _ _ a => (s.modCounter c.word (·.served)).endForwarded a 0x43 0 false
  | .op o _ _ _ a =>
    if c.round != 2 then s.modCounter c.word (·.freeze)
    else if o == .acfree then ((s.modCounter c.word (·.served)).removeCounter c.word (w64 c.h)).endForwarded a 0 (w64 c.h) true
    else s.serveOp c.word c.h a (w64 (c.h + b2n c.ovf * 2 ^ 63)) true

/-- The die a request came from, 4 for another device. -/
def CtrReq.die (r : CtrReq) : Nat :=
  match r with
  | .grant d _ _ _ => d
  | .op _ _ _ d _ => d

/-- The home serves the first waiting request of a counter, or goes on with its recall rounds; what waits at the dies of a counter
that is LIVE again is served then (R165, R170, R173). None when there is nothing to do. -/
def State.serveCounter (s : State) (word : Nat) : Option State :=
  match s.counter? word with
  | none => none
  | some c =>
    let recalling := !c.recallDies.isEmpty || !c.recallCores.isEmpty || s.amountsOut c
    match c.waiting with
    | [] => none
    | r :: _ =>
      if c.st == .poisoned || (c.round != 0 && recalling) then none
      else
        match s.ctrLine c.ctx word r.die c.cached with
        | (s, false) => some s
        | (s, true) =>
          let s := (if c.round == 0 then s.countCtr word r.die else s).serveFirst c r
          some (if (s.counter? word).any fun c => c.st == .live then s.serveDies word c.ctx else s)

/-- What a die still has to ask the home for, its cache or its window having been full before. -/
def State.askAgain (s : State) (word : Nat) : Option State :=
  (s.takes.find? fun t => t.word == word && !t.asked).map fun t =>
    s.serveAt word t.die t.ctx

/-- A grant reaches a die: F grows, the core is refilled, and the take completes (R164). A take whose group is gone leaves the
amount in F; one that a recall has left short of its amount asks again for the rest (log 65). None when nothing is there to be applied,
or a cache has no room. -/
def State.takeGrant (s : State) (word die : Nat) : Option State :=
  (s.takes.find? fun t => t.word == word && t.die == die && t.granted.isSome).bind fun t =>
    match s.counter? word with
    | none => some (s.endTake t 0x48 0 false)
    | some c =>
      let k : CoreId := ⟨die, t.core⟩
      let y := t.granted.getD 0
      if c.st == .poisoned then some (s.endTake t 0x48 0 false)
      else
        (s.roomDie word die).bind fun s => (s.roomCore word k).map fun s =>
          let s := s.modCounter word fun c => c.modDie die fun d => { d with f := d.f + y }
          let s :=
            if (s.pieceAt t.p).isNone then { s with takes := s.takes.erase t }
            else
              match s.refillTake word k t.n t.since with
              | some s => s.endTake t 0 1 true
              | none => { s with takes := upd (· == t) (fun x => { x with asked := false, granted := none }) s.takes }
          -- a recall that waits for this grant finds what it has left at the core
          let s := s.modCounter word fun c =>
            if c.round == 2 && (c.core? k).isSome then { c with recallCores := addNew c.recallCores k } else c
          (s.spillDie word die).serveAt word die c.ctx

/-- A recall reaches a die, or a core of it, which sends its whole amount home once the grants on their way to the die have been
applied; its grant size halves (R164 to R166). -/
def State.recall (s : State) (word die : Nat) (core : Option Nat) : Option State :=
  match s.counter? word with
  | none => none
  | some c =>
    if s.grantComing word die then none
    else
      match core with
      | none =>
        if !c.recallDies.contains die then none
        else
          let s' := s.modCounter word fun c =>
            { (if (c.die? die).isSome then c.modDie die fun d => { d with f := 0, sd := max (8 * c.g) (d.sd / 2) } else c) with
              recallDies := drop (· == die) c.recallDies }
          some ((s'.homeward word die (c.freePart die) none).serveAt word die c.ctx)
      | some k =>
        let id : CoreId := ⟨die, k⟩
        if !c.recallCores.contains id then none
        else
          let s' := s.modCounter word fun c =>
            let c' := if (c.core? id).isSome then c.modCore id fun a => { a with c := 0, sc := max c.g (a.sc / 2) } else c
            { c' with recallCores := drop (· == id) c.recallCores }
          some (s'.homeward word die (c.allowance id) none)

/-- An entry of a counter reports an uncorrectable error (R172, R173): what waits ends with POISONED; a waiting acfree frees
the counter. -/
def State.poisonCounter (s : State) (word : Nat) : State :=
  match s.counter? word with
  | none => s
  | some c =>
    let s := s.modCounter word fun c =>
      { c with st := .poisoned, dies := [], cores := [], inflight := [], waiting := [], round := 0, recallDies := [], recallCores := [],
               visited := [] }
    let s := s.leaveDies c.ctx (c.dies.map (·.die))
    let s := c.inflight.foldl (fun s (_, _, p) => match p with
      | some p => s.finishPiece p 0x48 0 false false
      | none => s) s
    let s := c.waiting.foldl (fun s r => match r with
      | .grant die _ _ a => s.refuseGrant word die c.ctx 0x48 a
      | .op _ _ _ _ a => s.endForwarded a 0x48 0 false) s
    -- takes whose grants have reached their dies, and those that have not asked
    let s := (s.takes.filter fun t => t.word == word && (!t.asked || t.granted.isSome)).foldl (fun s t => s.endTake t 0x48 0 false) s
    if c.waiting.any fun r => match r with
      | .op o _ _ _ _ => o == .acfree
      | .grant _ _ _ _ => false then (s.lineNow ioDie c.ctx word c.cached).removeCounter word 0 else s

/-- The last group of a context has left a core: its allowances go to the die (R166). -/
def State.leaveCore (s : State) (ctx : Nat) (k : CoreId) : State :=
  if s.wgs.any fun w => w.ctx == ctx && w.core == k && !w.out && !w.retired then s
  else (s.counters.filter fun c => c.ctx == ctx).foldl (fun s c => s.dropCoreAllow c.word k) s

/-- A context's counters are freed when its EN goes to 0 (R172). -/
def State.freeCounters (s : State) (ctx : Nat) : State :=
  let mine := s.counters.filter fun c => c.ctx == ctx
  let s := mine.foldl (fun s c => c.waiting.foldl (fun s r => s.meetFreed ctx c.word c.cached r) (s.modCounter c.word fun c => { c with waiting := [] })) s
  ({ s with
    counters := drop (fun (c : Counter) => c.ctx == ctx) s.counters
    takes := s.takes.filter fun t => !mine.any fun c => c.word == t.word } : State).leaveDies ctx
      (dedup (mine.flatMap fun c => c.dies.map (·.die)))

end Sys2Proof.Machine
end

