-- ==== Sys2Proof/Machine/Perform.lean ====
section
/-!
DEFINITION. Perform: when a queued access may be performed (R82 to R98, R107), and performing it at its home slice or
scratchpad bank, with overlays, Charon, caches and covered operations (R61, R74, R121, R122, R132, R139).
-/

namespace Sys2Proof.Machine

/-! ### Sending in order (R145) -/

/-- Serials are given in group order (R145): does an earlier covered operation, or counter operation, still stand in its
queue? -/
def State.sendHeld (s : State) (w : Workgroup) (g : Group) (e : MemEntry) (o : LaneOp) : Bool :=
  (g.earlier e.id o.lane).any fun x => !x.e.isLoad && !x.p.sent && match x.p.target, x.e.op with
    | _, .atomic a => a.counter || (match x.p.target with
      | .phys pa _ t _ => s.isCovered w.core.die pa t false
      | .scratch _ _ => false)
    | .phys pa _ t _, _ => s.isCovered w.core.die pa t true
    | .scratch _ _, _ => false

/-! ### Data races (R94) -/

/-- Is the access plain: a load or store without MARK to a page that is not of kind S? -/
def plain (e : MemEntry) (o : LaneOp) (p : Piece) : Bool :=
  p.kind != .s && match e.op with
    | .atomic _ => false
    | _ => !o.mark

/-- The attempt whose overlay an access through a T page belongs to (R121). -/
def overlayOf (l : Launch) (t : Bool) : Option Nat := if t && !l.lrec.ntxn then some l.lid else none

/-- The overlay a piece goes to. -/
def Piece.own (p : Piece) (l : Launch) : Option Nat :=
  match p.target with
  | .phys _ _ t _ => overlayOf l t
  | .scratch _ _ => none

/-- An access as the race test sees it: its context, when it has one, whose it is, a group's own or another agent's, its bytes, and
the overlay it goes to. -/
structure RaceIn where
  ctx : Option Nat
  me : Option GRef
  ps : List Piece
  write : Bool
  plain : Bool
  own : Option Nat
  deriving DecidableEq, Repr

/-- Do an access and a piece of another access conflict, one of them plain? -/
def RaceIn.meets (x : RaceIn) (p : Piece) (write pl : Bool) (own : Option Nat) : Bool :=
  x.ps.any (·.overlaps p) && (x.write || write) && (x.plain || pl) && x.own == own

/-- Is an operation of a workgroup's die on a piece covered (R139)? -/
def State.coveredPiece (s : State) (w : Workgroup) (e : MemEntry) (p : Piece) : Bool :=
  match p.target with
  | .phys pa _ t _ => !e.isLoad && s.isCovered w.core.die pa t (e.op == .store)
  | .scratch _ _ => false

/-- Contexts of the queued accesses of other agents that an access meets and that could be performed at this moment, so that
nothing orders the two (R94, log 29). -/
def State.racesQueued (s : State) (x : RaceIn) : List Nat :=
  s.wgs.filterMap fun w =>
    let hit (l : Launch) (g : Group) : Bool :=
      x.me != some (⟨w.wid, g.gi⟩ : GRef) && (g.ldq ++ g.stq ++ g.amq).any fun e => e.op != .pgstate && e.lanes.any fun o =>
        o.pieces.any fun p => !p.done && !p.sent && x.meets p (!e.isLoad) (plain e o p) (p.own l) &&
          g.mayPerform e o p (s.coveredPiece w e p)
    if !w.out && (s.launch? w.lid).any fun l => w.groups.any (hit l) then some w.ctx else none

/-- The pieces of the next element of a copy, as far as they translate now: read and written. -/
def State.elemPieces (s : State) (w : Who) (j : CopyJob) : List (Piece × Bool) :=
  let side (va : Nat) (acc : Acc) (rho : Nat) : List (Piece × Bool) :=
    match if isHole va then TrRes.fault fcHole else s.translate w j.lane va j.esize acc with
    | .ok (.scratch wid o) _ => [(Piece.new (.scratch wid (rotate rho o)) 0 j.esize, acc.writes)]
    | .ok t _ => [(Piece.new t 0 j.esize, acc.writes)]
    | .fault _ | .miss _ | .grow _ _ _ => []
  side (j.srcVa j.next).toNat .load j.rho ++ side (j.dstVa j.next).toNat .store j.rho

/-- Contexts of the copies whose next element an access of another agent meets (R94, R99). -/
def State.racesCopy (s : State) (x : RaceIn) : List Nat :=
  s.wgs.filterMap fun w =>
    let hit (l : Launch) (g : Group) : Bool := g.chans.any fun c => match c.jobs, s.who? ⟨w.wid, g.gi⟩ with
      | j :: _, some who => g.performedBefore j.trig && (s.elemPieces who j).any fun (p, write) => x.meets p write true (p.own l)
      | _, _ => false
    if !w.out && (s.launch? w.lid).any fun l => w.groups.any (hit l) then some w.ctx else none

/-- Contexts of the commands that are being executed and that still read, or write, bytes an access meets: the engine's accesses are plain,
and nothing but a completed wait or the order of the go orders them with it (R374, R390). The commands of one workgroup may be left out. -/
def State.racesEngine (s : State) (x : RaceIn) (without : Option Nat) : List Nat :=
  let scratch := x.ps.any fun p => match p.target with
    | .scratch _ _ => true
    | .phys _ _ _ _ => false
  if !scratch then []
  else
    s.wgs.filterMap fun w =>
      let steps (c : NSlot) : Bool := (List.range (stepCount c.words - w.nest.steps)).any fun k =>
        let (rs, ws) := s.stepPieces w c.words (w.nest.steps + k)
        (rs.any fun p => x.meets p false true none) || ws.any fun p => x.meets p true true none
      if some w.wid != without && !w.out && w.nest.active && w.nest.running.any steps then some w.ctx else none

/-- Does a piece lie in a part that has copies, or had them until its collapse ends? What an access reads there while a write waits is
the byte before or after it (R73, R433). -/
def State.duplicated (s : State) (p : Piece) : Bool :=
  match p.target with
  | .phys pa _ _ _ => paClass pa == 0 && ((s.part (partOf pa)).st == .readDup || (s.part (partOf pa)).st == .collapsing)
  | .scratch _ _ => false

/-- An access of a context, if it has one, races with accesses of others. -/
def State.raceOf (s : State) (ctx : Option Nat) (met : List Nat) : State :=
  (dedup (ctx.toList ++ met)).foldl (fun s c => s.modCtx c fun c => { c with raced := true }) s

/-- The contexts of an access that completes a data race, its own and those it meets: from here on what their accesses do is
undefined (R94). -/
def State.noteRace (s : State) (x : RaceIn) (copies : Bool) : State :=
  let x := { x with ps := x.ps.filter fun p => !s.duplicated p }
  let met := s.racesQueued x ++ s.racesEngine x none ++ if copies then s.racesCopy x else []
  if met.isEmpty then s else s.raceOf x.ctx met

/-- Note the races that the next element of a copy completes, as an agent of its own: it is ordered with later events of its group by
a batch wait alone (R94, R99). -/
def State.noteElem (s : State) (w : Who) (l : Launch) (j : CopyJob) : State :=
  (s.elemPieces w j).foldl (fun s (p, write) =>
    s.noteRace { ctx := some w.ctx, me := none, ps := [p], write := write, plain := true, own := p.own l } false) s

/-- Note the races that the next step of a command completes with queued accesses and copies (R374, R390). -/
def State.noteStep (s : State) (w : Workgroup) (ws : List W32) : State :=
  let (rs, ds) := s.stepPieces w ws w.nest.steps
  let one (s : State) (ps : List Piece) (write : Bool) : State :=
    let x : RaceIn := { ctx := some w.ctx, me := none, ps := ps, write := write, plain := true, own := none }
    let met := s.racesQueued x ++ s.racesCopy x ++ s.racesEngine x (some w.wid)
    if met.isEmpty then s else s.raceOf (some w.ctx) met
  one (one s rs false) ds true

/-- Write a byte wherever the tables of a context let it write local memory, or nowhere. -/
def State.strayByte (s : State) (ctx va : Nat) (b : Byte) : State :=
  if isHole va || 0xEF < bits va 48 8 then s
  else
    match walk s none ctx va with
    | (.leaf level _ e, _) =>
      let leaf : Leaf := ⟨level, e⟩
      if (s.leafFault ctx leaf va .store).isNone && paUsable (leaf.pa va) then s.writeByte none ctx (leaf.pa va) b else s
    | (.fault _, _) => s

/-- What the accesses of a raced context may do beside their own effect: any value at any place that the context may write, in
memory or in a scratchpad of its workgroups (R94, log 29). -/
def State.stray (s : State) (ctx : Nat) : State :=
  if !(s.ctx ctx).raced then s
  else
    let at_ := (Config.freeRace s.draws).toNat
    let b := BitVec.ofNat 8 (Config.freeRace (s.draws + 1)).toNat
    let s : State := { s with draws := s.draws + 2 }
    let s := { s with wgs := s.wgs.map fun (w : Workgroup) =>
      if w.ctx == ctx && w.wid == at_ / 2 ^ 32 && at_ % 2 ^ 32 < w.scratchSize then { w with scratch := w.scratch.write (at_ % 2 ^ 32) b } else w }
    s.strayByte ctx at_ b

/-- The data of an access of a context: free once the context has raced (R94). -/
def State.racedWord (s : State) (ctx : Nat) (v : W64) : W64 × State :=
  if (s.ctx ctx).raced then (Config.freeRace s.draws, { s with draws := s.draws + 1 }) else (v, s)

/-! ### Overlay entries (R120, R121, R132, R448) -/

/-- A frame for an overlay entry: of the part's home die, or of another die's reserve, the lowest-numbered die that has a free one
(R120; which other die is log 58's choice). -/
def State.overlayFrame (s : State) (part : Nat) : Option (Nat × State) :=
  let home := s.homeDie part
  (home :: (List.range 4).filter (· != home)).findSome? fun d =>
    match s.takeReserve d with
    | (some f, s) => some (f, s)
    | (none, _) => none

/-- Create an entry for an attempt and a part; none when the quota or the reserves have no frame. -/
def State.newEntry (s : State) (l : Launch) (part : Nat) : Option State :=
  let c := s.ctx l.ctx
  if c.quota ≤ c.used then none
  else
    match s.overlayFrame part with
    | none => none
    | some (f, s) =>
      let o : Overlay :=
        { ctx := l.ctx, lid := l.lid, ver := l.version, ticket := none, part := part, frame := some f, lines := [], bytes := [],
          discarded := false, pending := false }
      some ({ s with overlays := s.overlays ++ [o] }.modCtx l.ctx fun c => { c with used := c.used + 1 })

/-- A stalled write of an attempt gets its entry; an exchange of the part that has begun comes to its end first (R131). -/
def State.stallEntry (s : State) (l : Launch) (part : Nat) : Option State :=
  (if (s.part part).st == .migrating then s.exchangeNow part else s).newEntry l part

/-- Give frames to the stalled writes of a context, the longest stalled first, as far as there are frames (R448). -/
def State.releaseStalls (s : State) (ctx : Nat) : (fuel : Nat) → State
  | 0 => s
  | fuel + 1 =>
    match s.stalls.find? fun (x : Stall) => x.ctx == ctx with
    | none => s
    | some x =>
      let rest : State := { s with stalls := drop (fun (y : Stall) => y == x) s.stalls }
      match s.launch? x.lid with
      | none => State.releaseStalls rest ctx fuel
      | some l =>
        match rest.stallEntry l x.part with
        | some t => State.releaseStalls t ctx fuel
        | none => s

/-- Make sure that an attempt has an entry for a part: there, or created, once the context's stalled writes have theirs, or the write
stalls; with TXSTALL = 0 the attempt aborts at the first shortage. -/
def State.ensureEntry (s : State) (l : Launch) (pa : Nat) : Option State × State :=
  if (s.ownEntry? l.lid pa).isSome then (some s, s)
  else
    let s := s.releaseStalls l.ctx s.stalls.length
    if (s.ownEntry? l.lid pa).isSome then (some s, s)
    else
      match s.newEntry l (partOf pa) with
      | some s => (some s, s)
      | none =>
        if l.lrec.txStall == 0 then (none, s.failLaunch l.lid 0x15)
        else if s.stalls.any fun (x : Stall) => x.lid == l.lid && x.part == partOf pa then (none, s)
        else (none, { s with stalls := s.stalls ++ [{ lid := l.lid, ctx := l.ctx, part := partOf pa, since := s.time }] })

/-! ### At the home -/

/-- What performing an access comes to. -/
inductive PerfRes where
  | done (status : Nat) (val : W64) (flag poison : Bool) (s : State)
  | wait (s : State)
  deriving DecidableEq, Repr

/-- The cause with which the owner of a peer's or the host's memory refuses an access, if it does (R303, R308). -/
def State.outsideErr (s : State) (pa : Nat) : Option Nat :=
  if paClass pa == 0 then none else (s.refusing.find? fun (x : Nat × Nat) => x.1 == partOf pa).map (·.2)

/-- Has a die a route and an incarnation of the home for a peer's address (R417)? The I/O die has no table of its own: it goes by die
0's (log 28). -/
def State.reaches (s : State) (die pa : Nat) : Bool :=
  s.routed (bits pa 40 10) && (s.incOf (if die < Config.numDies then die else 0) (s.homeOf pa).1).isSome

/-- A read by the ld engine, the copy engine or the front end's like: len bytes for a requester. -/
def State.readAt (s : State) (core : CoreId) (ctx : Nat) (own : Option Nat) (pa len : Nat) (c : Bool) (cls : Nat) : PerfRes :=
  let bytes := w64 (bytesNat (s.readPhys own ctx pa len))
  let bad := s.badLines.contains (lineOf (if paUsable pa then s.bytePlace own pa else pa))
  let v := if bad then 0 else bytes
  match s.outsideErr pa, paClass pa with
  | some cause, _ => .done cause 0 false false s
  | none, 2 =>
    if !s.reaches core.die pa then .done 1 0 false false s
    else if s.laneOpen (bits pa 40 10) 0 then .done 0 v false bad s else .wait s
  | none, 0 =>
    if s.readHeld own pa then .wait s
    else
      let q := s.cacheReq core ctx own pa cls false
      let r := if s.linePending pa then CacheRes.done true s
        else if c then s.cacheRead q else s.homeAccess q false false
      match r with
      | .wait s => .wait s
      | .done arrived s => .done 0 v false bad (if arrived then s.countAccess (partOf pa) core.die false else s)
  | none, _ =>
    if c then
      match s.cacheRead (s.cacheReq core ctx own pa cls false) with
      | .wait s => .wait s
      | .done _ s => .done 0 v false bad s
    else .done 0 v false bad s

/-- A store of 8 bytes by the device itself, on the I/O die (R137, R184): it waits, and collapses copies, as any store to committed
state does, and ends with a status as any store does (R160, R303); c is the page's C (R62). -/
def State.ownStore (s : State) (ctx pa : Nat) (c : Bool) (v : W64) : PerfRes :=
  match s.outsideErr pa with
  | some cause => .done cause 0 false false s
  | none =>
    if paClass pa == 2 && !s.reaches ioDie.die pa then .done 1 0 false false s
    else if paClass pa == 2 && !s.laneOpen (bits pa 40 10) 2 then .wait s
    else if paClass pa != 0 then .done 0 0 false false (s.writeWord ctx pa v).wakeAll
    else if s.counters.any fun c => c.word < pa + 8 && pa < c.word + 8 then .done 0x43 0 false false s
    else
      match s.outsideWrite ctx ((List.range 8).map (pa + ·)) c with
      | (s, false) => .wait s
      | (s, true) =>
        if s.badLines.contains (lineOf (s.bytePlace none pa)) then .done 3 0 false false s
        else .done 0 0 false false (s.writeWord ctx pa v).wakeAll

/-- Does an operation write its word: any but an atomic that fails, as memory stands now (R121, R306)? -/
def State.changes (s : State) (h : HomeOp) : Bool :=
  match h.am with
  | none => true
  | some o => (amResult o h.len (w64 (bytesNat (s.readPhys h.own h.ctx h.pa h.len))) h.t h.b).2

/-- What stands before a write, atomic or home operation: the counter's word, Charon's state, the caches, the overlay entry. An
atomic reads, so a commit under way holds it (R128). -/
def State.beforeWrite (s : State) (h : HomeOp) (cls : Nat) : Except PerfRes State :=
  let atomic := h.am.isSome
  if paClass h.pa != 0 then
    match s.outsideErr h.pa with
    | some cause => .error (.done cause 0 false false s)
    | none =>
      if paClass h.pa == 2 && !s.reaches h.core.die h.pa then .error (.done 1 0 false false s)
      else if paClass h.pa == 2 && !s.laneOpen (bits h.pa 40 10) 2 then .error (.wait s)
      else if paClass h.pa == 1 && h.c then
        -- atomics and reductions are performed by the die's slice, which holds the line exclusively (R140)
        let q := s.cacheReq h.core h.ctx h.own h.pa cls true
        match if atomic then s.homeAccess q true true else s.cacheWrite q false with
        | .wait s => .error (.wait s)
        | .done _ s => .ok s
      else .ok s
  else
    let part := partOf h.pa
    let gate (s : State) : Except PerfRes State :=
      let q := s.cacheReq h.core h.ctx h.own h.pa cls true
      let r := if atomic && s.readHeld h.own h.pa then CacheRes.wait s
        else if atomic || !h.c then s.homeAccess q true (h.c && !(atomic && s.linePending h.pa)) else s.cacheWrite q (h.kind == .s)
      match r with
      | .wait s => .error (.wait s)
      | .done arrived s =>
        .ok (if !arrived then s else if h.own.isSome then s.countOverlay part h.core.die else s.countAccess part h.core.die true)
    match h.own with
    | some lid =>
      match s.launch? lid with
      | none => .error (.done 0 0 false false s)
      | some l =>
        -- a write of an attempt that is over is dropped (R134)
        if l.phase != .running || l.version != h.ver then .error (.done 0 0 false false s)
        else if (s.part part).st == .migrating then .error (.wait s)
        else if !s.changes h then gate s
        else
          match s.ensureEntry l h.pa with
          | (some s, _) => gate s
          | (none, s) => .error (.wait s)
    | none =>
      if s.counters.any fun c => c.word < h.pa + h.len && h.pa < c.word + 8 then .error (.done 0x43 0 false false s)
      else
        match s.writeGate part h.core.die with
        | some s => .error (.wait s)
        | none => gate s

/-- Perform a store, atomic or reduction at its home; who asks for it notes it and wakes the words' waiters. An uncorrectable error in a line that a partial store merges into leaves
the bytes unwritten (R303). -/
def State.performAt (s : State) (h : HomeOp) (cls : Nat) : PerfRes :=
  match s.beforeWrite h cls with
  | .error r => r
  | .ok s =>
    let s := if h.own.isNone && paClass h.pa == 0 then s.noteWrite (partOf h.pa) else s
    match h.am with
    | none =>
      if s.badLines.contains (lineOf (if paUsable h.pa then s.bytePlace h.own h.pa else h.pa)) then .done 3 0 false false s
      else .done 0 0 false false (s.writePhys h.own h.ctx h.pa (natBytes h.len h.t.toNat))
    | some o =>
      let m := w64 (bytesNat (s.readPhys h.own h.ctx h.pa h.len))
      let (new, flag) := amResult o h.len m h.t h.b
      let s := if flag then s.writePhys h.own h.ctx h.pa (natBytes h.len new.toNat) else s
      .done 0 m flag false s

/-- The same at a scratchpad bank (R54, R98). A load of a word with an uncorrectable error is poisoned, and a store that merges into one
writes nothing (R303, log 27). -/
def State.performScratch (s : State) (wid off len : Nat) (e : MemEntry) (o : LaneOp) (p : Piece) : PerfRes :=
  match s.wg? wid with
  | none => .done 0 0 false false s
  | some w =>
    let m := w64 (w.scratch.readNat off len)
    let put (v : W64) : State := s.modWg wid (·.scratchPut off len (v.toNat % 2 ^ (8 * len)))
    let bad := w.scratchUe off len
    match e.op with
    | .load _ => .done 0 (if bad then 0 else m) false bad s
    | .store => if bad && len < 8 then .done 3 0 false false s else .done 0 0 false false (put (o.t >>> (8 * p.off)))
    | .atomic a =>
      if a.counter then .done 0x46 0 false false s
      else
        let (new, flag) := amResult a len m o.t o.b
        .done 0 m flag false (if flag then put new else s)
    | .fence _ _ => .done 0 0 false false s
    | .pgstate => .done 0 0 false false s

/-! ### HOME_SLICE_ACCESS -/

/-- The operation of a piece as its home performs it. -/
def homeOpOf (w : Workgroup) (l : Launch) (e : MemEntry) (o : LaneOp) (p : Piece) (pa : Nat) (k : OrdKind) (t c : Bool) : HomeOp where
  ctx := w.ctx
  core := w.core
  own := overlayOf l t
  ver := l.version
  pa := pa
  len := p.len
  kind := k
  c := c
  am := match e.op with
    | .atomic a => some a
    | _ => none
  t := o.t >>> (8 * p.off)
  b := o.b

/-- Note that a piece has left its queue, with the serial it travels under. -/
def State.markSent (s : State) (r : PieceRef) (serial : Option Nat) (stamp : Nat) : State :=
  s.modGroup r.g fun g => g.modOp r.q r.id r.lane fun o =>
    { o with pieces := modAt o.pieces r.piece fun x => { x with sent := true, serial := serial, stamp := stamp } }

/-- Send a covered operation, or end it where no route or incarnation is known (R147, R154, R417). -/
def State.sendAccess (s : State) (w : Workgroup) (g : Group) (r : PieceRef) (h : HomeOp) : Option State :=
  let (home, slice) := s.homeOf h.pa
  match if s.routed home.device then s.incOf w.core.die home else none with
  | none => some (s.finishPiece r 1 0 false false)
  | some stamp =>
    if !s.windowOpen g.ident then none
    else
      let serial := s.nextSerial g.ident
      some ((s.sendCovered g.ident w.ctx w.core.die home slice stamp (.access r h)).markSent r (some serial) stamp)

/-- A counter operation as it leaves the am queue (R169, R309). One on a T page or on another physical class ends with NOT-DIRECT: R309
and R160 say so, where R162 and R168 speak of counters on another device (log 65). -/
def State.counterAccess (s : State) (w : Workgroup) (g : Group) (r : PieceRef) (h : HomeOp) (a : AmOp) (lane t : Bool) : State :=
  let n := (lo32 h.t).toNat
  let ends (x : CtrTry) : State :=
    match x with
    | .ends st v f s => s.finishPiece r st v f false
    | .sent s' =>
      let mine := s.nextSerial g.ident
      let took := s'.nextSerial g.ident != mine
      s'.markSent r (if took then some mine else none) (if took then ((s.incOf w.core.die (s.homeOf h.pa).1).getD 0) else 0)
    | .wait => s
  if lane || t || paClass h.pa != 0 then s.finishPiece r 0x46 0 false false
  else
    match a with
    | .actake => ends (s.ctrTake w g h h.pa n r)
    | .acgive => ends (s.ctrGive w g h h.pa n r)
    | _ =>
      if s.ctrHome h.pa != w.core.die then (s.sendAccess w g r h).getD s
      else
        match s.homeCounter w.ctx a h.pa h.c h.t h.b w.core.die (.lane r) with
        | (s, true) => s.markSent r none 0
        | (s, false) => s

/-- Does a group's requester slot send nothing new: its workgroup is pre-empted and the group has stopped (R157)? -/
def Workgroup.slotHeld (w : Workgroup) (g : Group) : Bool := w.preempt && w.atStop g

/-- A piece of a queued access is at its home, with the state in which it is applied there (R61). None where it waits on. -/
def State.applyPiece (s : State) (r : PieceRef) (w : Workgroup) (g : Group) (l : Launch) (e : MemEntry) (o : LaneOp) (p : Piece) :
    Option State :=
  let fin (x : PerfRes) : Option State :=
    match x with
    | .done st v f bad s =>
      let s := if !e.isLoad && st == 0 then s.noteEarly r.g e o p else s
      let (v, s) := if e.reads then s.racedWord w.ctx v else (v, s)
      some (s.finishPiece r st v f bad)
    | .wait s => some s
  match p.target with
  | .scratch wid off => fin (s.performScratch wid off p.len e o p)
  | .phys pa k t c =>
    let h := homeOpOf w l e o p pa k t c
    match e.op with
    | .load _ => fin (s.readAt w.core w.ctx h.own pa p.len c 0)
    | .store =>
      if s.isCovered w.core.die pa t true then if w.slotHeld g || s.sendHeld w g e o then none else s.sendAccess w g r h
      else fin (s.performAt h 0)
    | .atomic a =>
      if a.counter then if w.slotHeld g || s.sendHeld w g e o then none else some (s.counterAccess w g r h a (1 < o.pieces.length) t)
      else if s.isCovered w.core.die pa t false then if w.slotHeld g || s.sendHeld w g e o then none else s.sendAccess w g r h
      else fin (s.performAt h 0)
    | .fence _ _ => none
    | .pgstate => none

/-- Apply a piece of a queued access (R61): once its group's order lets it, and, for an acquire, once the releases it would read from
have been made. Whether it completes a data race is noted (R94). -/
def State.access (s : State) (r : PieceRef) : Option State :=
  match s.pieceAt r with
  | none => none
  | some (w, g, e, o, p) =>
    match s.launch? w.lid with
    | none => none
    | some l =>
      if w.out || o.done || p.done || p.sent || e.op == .pgstate || !g.mayPerform e o p (s.coveredPiece w e p) then none
      else if s.acquireHeld r.g e o p then none
      else
        let x : RaceIn := { ctx := some w.ctx, me := some r.g, ps := [p], write := !e.isLoad, plain := plain e o p, own := p.own l }
        let s := (s.noteRace x true).stray w.ctx
        let (t, s) := if e.isLoad then (o.t, s) else s.racedWord w.ctx o.t
        s.applyPiece r w g l e { o with t := t } p

end Sys2Proof.Machine
end

