-- ==== Sys2Proof/Machine/EvIssue.lean ====
section
/-!
DEFINITION. EvIssue: issue, results landing, waits that end by themselves, and the delivery of imprecise and held traps. A
step whose condition does not hold leaves the state as it is (log 22).
-/

namespace Sys2Proof.Machine

/-- The outcome of an event that may have nothing to do. -/
def orStay (s : State) (o : Option State) : Host.Outcome State Fault Refusal := .next (o.getD s)

/-! ### BUNDLE_ISSUE, PAD_ISSUE -/

/-- BUNDLE_ISSUE (R192, R221): the leader of a slot issues its bundle, and with it the groups that co-issue. -/
def execBundleIssue (g : GRef) (s : State) : Host.Outcome State Fault Refusal :=
  match s.wg? g.wg, s.group? g with
  | some w, some grp =>
    if grp.pad == 0 && s.leads trigTable w grp then (issueSlot trigTable s w grp).outcome s else .next s
  | _, _ => .next s

/-- PAD_ISSUE (R219). -/
def execPadIssue (g : GRef) (s : State) : Host.Outcome State Fault Refusal :=
  match s.group? g with
  | some grp => if grp.pad != 0 then (issueGroup trigTable s g).outcome s else .next s
  | none => .next s

/-! ### RESULT_LANDS -/

/-- The value a load pushes (R301). -/
def loadValue (size : Nat) (signed : Bool) (v : W64) : W64 :=
  if signed then w64 (BitVec.ofInt 64 (signedOf (8 * size) v.toNat)).toNat else v

/-- A lane of a load or am operation has landed: a popped entry that has landed everywhere leaves its queue. -/
def Group.noteLanded (g : Group) (q : QSel) (id lane : Nat) : Group :=
  let g := g.modOp q id lane fun o => { o with landed := true }
  g.setQueue q ((g.queue q).filter fun e => !(e.popped && e.lanes.all (·.landed)))

/-- A lane of an ld entry lands: a load that has been performed, or a query, whose word is taken now (R78). -/
def landLd (s : State) (g : GRef) (id lane : Nat) : Option State := do
  let w ← s.wg? g.wg
  let grp ← w.group? g.gi
  let e ← grp.ldq.find? fun (e : MemEntry) => e.id == id
  let o ← e.lanes.find? fun (o : LaneOp) => o.lane == lane
  if o.landed then none
  else
    match e.op with
    | .load signed =>
      if !o.done then none
      else
        let s := if o.status == 0 then s else s.postErrors g .ld { e with lanes := [o] }
        some (s.modGroup g fun x =>
          ((x.noteLanded .ld id lane).land .ld id lane (if o.poison || o.status != 0 then 0 else loadValue e.size signed o.val) false o.poison).settleFences (s.acqHeld g)).wakeAll
    | .pgstate =>
      let v := match o.pieces with
        | p :: _ => match p.target with
          | .phys pa _ _ _ => s.pgstateWord pa w.core.die o.b.toNat
          | .scratch _ _ => 3
        | [] => 3
      some (s.modGroup g fun x => (x.noteLanded .ld id lane).land .ld id lane v false false)
    | _ => none

/-- A lane of an am.r entry lands. -/
def landAm (s : State) (g : GRef) (id lane : Nat) : Option State := do
  let grp ← s.group? g
  let e ← grp.amq.find? fun (e : MemEntry) => e.id == id
  let o ← e.lanes.find? fun (o : LaneOp) => o.lane == lane
  if o.landed || !o.done then none
  else some (s.modGroup g fun x => ((x.noteLanded .am id lane).land .am id lane o.val o.flag false).settleFences (s.acqHeld g))

/-- RESULT_LANDS (R207). A q0.r lane lands when its operation is performed at the queue, an xe.r lane by the group's own
issues; nothing lands for them here. -/
def execResultLands (g : GRef) (port : RPort) (id lane : Nat) (s : State) : Host.Outcome State Fault Refusal :=
  orStay s (match port with
    | .ld => landLd s g id lane
    | .am => landAm s g id lane
    | .q0 => none
    | .cp | .mx | .xe =>
      match s.group? g with
      | none => none
      | some grp =>
        (grp.varPend.find? fun (x : VarRes) => x.port == port && x.id == id && x.lanes.getLsbD lane).bind fun x =>
          match x.ask with
          | none => some (s.setGroup g (grp.landVar x))
          | some t =>
            -- the read of a write pointer is made now
            if grp.syncHeld x.id then none else some (s.setGroup g (grp.landVar x (s.writePointer g t))).wakeAll)

/-! ### Waits that end by themselves -/

/-- End the waits of a group that satisfy p, when it has one. -/
def State.endWait (s : State) (g : GRef) (p : Wait → Bool) : Option State :=
  match s.group? g with
  | some grp => if grp.waits.any p then some (s.setGroup g (grp.dropWaits p)) else none
  | none => none

/-- CANDIDATE_PROMOTION (R192): after 48 consecutive clocked cycles as a candidate without issuing. -/
def execCandidatePromotion (g : GRef) (s : State) : Host.Outcome State Fault Refusal :=
  orStay s (match s.wg? g.wg, s.group? g with
    | some w, some grp =>
      if clockedCycles 48 ≤ grp.waited && s.candidate w grp then some (s.setGroup g { grp with promoted := true }) else none
    | _, _ => none)

/-- YIELD_EXPIRY (R356): the clocked cycles of the yield have passed. -/
def execYieldExpiry (g : GRef) (s : State) : Host.Outcome State Fault Refusal :=
  orStay s (s.endWait g fun w => match w with
    | .yield till => till ≤ s.clocked
    | _ => false)

/-- FETCH_REDIRECTION_END (R335). -/
def execFetchRedirectionEnd (g : GRef) (s : State) : Host.Outcome State Fault Refusal := orStay s (s.endWait g (· == .redirect))

/-- TRAP_ENTRY_COMPLETE (R396). -/
def execTrapEntryComplete (g : GRef) (s : State) : Host.Outcome State Fault Refusal := orStay s (s.endWait g (· == .trapEntry))

/-- GROWTH_COMPLETE (R29): the cycles of a growth are over; its pages were mapped when it began. -/
def execGrowthComplete (g : GRef) (s : State) : Host.Outcome State Fault Refusal := orStay s (s.endWait g (· == .growth))

/-- The frames that a code range maps: first part and parts of each page that translates (R355). -/
def codeFrames (s : State) (ctx va len : Nat) : List (Nat × Nat) :=
  let first := va / 65536
  let n := (va % 65536 + len + 65535) / 65536
  (List.range n).filterMap fun i =>
    match walk s none ctx ((first + i) * 65536) with
    | (.leaf level _ e, _) => some (((⟨level, e⟩ : Leaf).pa ((first + i) * 65536)) / 65536, 1)
    | (.fault _, _) => none

/-- Invalidate the code-cache lines of the frames on every core (R355). -/
def State.dropCode (s : State) (frames : List (Nat × Nat)) : State :=
  let hit (line : Nat) : Bool := frames.any fun (f, n) => f ≤ line / 512 && line / 512 < f + n
  { s with cores := s.cores.map fun (c : Core) => { c with code := drop (fun (x : CodeLine) => hit x.line) c.code } }

/-- ICINV_COMPLETE (R355): it starts once every earlier write of the group has been performed. -/
def execIcinvComplete (g : GRef) (s : State) : Host.Outcome State Fault Refusal :=
  orStay s (match s.wg? g.wg, s.group? g with
    | some w, some grp =>
      match grp.waits.findSome? fun x => match x with
        | .icinv va len => some (va, len)
        | _ => none with
      | none => none
      | some (va, len) =>
        if !grp.writesBefore grp.ord then none
        else
          let s := s.dropCode (codeFrames s w.ctx va.toNat len)
          s.endWait g fun x => match x with
            | .icinv _ _ => true
            | _ => false
    | _, _ => none)

/-! ### Imprecise and held traps (R391, R398 to R400) -/

/-- The waits of step 3 of R221, which a trap makes its group abandon (R391). -/
def Wait.ofStep3 (x : Wait) : Bool := x == .translate || x == .missRoom || x == .growth

/-- Waits in which a trap is delivered: a bundle that waits in step 3 abandons the wait; a redirection is a boundary. In any
other wait the trap comes when the wait returns (R391). -/
def boundary (g : Group) : Bool := g.waits.all fun w => w.ofStep3 || w == .redirect

/-- Offset of the k-th place of the held area (R395). -/
def heldOff (k : Nat) : Nat := 0x200 + 64 * k

/-- A trap that reaches a group in its handler is held, unless it is the 17th or the vector is not enabled (R398, R399). The 16 places of
the held area are filled in turn (log 73). None while Phobos serves the group's area (R45). -/
def State.holdTrap (s : State) (g : GRef) (grp : Group) (w : Workgroup) (l : Launch) (who : Who) (t : TrapInfo) : Option State :=
  let resume := grp.resumeAt l
  match s.groupArea who 0 true with
  | (.error c, s) =>
    let fails (c : Nat) (s : State) : State :=
      s.doubleFault g { precise 0x07 c 7 with pc := t.pc, addr := w64 (groupVa 0), time := t.time } resume
    if c == fcPoolEmpty || c == fcNotResident then (s.expiredFw who none).map fun c => fails c (s.clearFw who none)
    else some (fails c s)
  | (.ok pa, s) =>
    let vector := w64 (bytesNat (s.ownLoad g l.ctx pa 8))
    if !vector.getLsbD 32 then some (s.terminate g t resume)
    else if 16 ≤ grp.held.length then some (s.doubleFault g t resume)
    else
      let t := { t with held := true }
      let s := s.deviceWrite w.core l.ctx (pa + heldOff (grp.heldNext % 16)) (wordsBytes (recordWords t l g.gi w.num resume))
      some (s.modGroup g fun x => { x with held := x.held ++ [t], heldNext := x.heldNext + 1 })

/-- IMPRECISE_TRAP_DELIVERY (R391): the oldest pending trap of a group at its next bundle boundary. A trap of a group that
has ended is reported, and its workgroup terminated (R400). -/
def execImpreciseTrapDelivery (g : GRef) (s : State) : Host.Outcome State Fault Refusal :=
  orStay s (match s.wg? g.wg, s.group? g, s.launchOf? g, s.who? g with
    | some w, some grp, some l, some who =>
      match grp.pend with
      | [] => none
      | t :: rest =>
        let s1 := s.setGroup g { grp with pend := rest }
        let t := { t with exited := grp.ended }
        if grp.ended then some (s1.terminate g t (grp.resumeAt l))
        else if w.out || !boundary grp then none
        else if grp.handler then some ((s1.holdTrap g { grp with pend := rest } w l who t).getD (s.stopForArea g))
        else
          -- the handler entry is a check point (R410); the explicit trap's bundle has passed its own
          match if t.code == 0x0B then CheckRes.pass else checkPoint s g (grp.resumeAt l) none with
          | .gone s => some s
          | .pass =>
            let s1 := s1.modGroup g fun x => x.dropWaits (·.ofStep3)
            match s1.takeTrap g t (grp.resumeAt l) with
            | some s => some s
            | none => some (s.takeTrapOrStop g t (grp.resumeAt l))
    | _, _, _, _ => none)

/-- HELD_TRAP_DELIVERY (R398): the oldest held trap at a bundle boundary after rfe, a check point (R410). -/
def execHeldTrapDelivery (g : GRef) (s : State) : Host.Outcome State Fault Refusal :=
  orStay s (match s.wg? g.wg, s.group? g, s.launchOf? g with
    | some w, some grp, some l =>
      match grp.held with
      | [] => none
      | t :: rest =>
        if w.out || grp.handler || grp.ended || !boundary grp then none
        else
          match checkPoint s g (grp.resumeAt l) none with
          | .gone s => some s
          | .pass =>
            let s1 := (s.setGroup g { grp with held := rest }).modGroup g fun x => x.dropWaits (·.ofStep3)
            match s1.takeTrap g t (grp.resumeAt l) with
            | some s => some s
            | none => some (s.takeTrapOrStop g t (grp.resumeAt l))
    | _, _, _ => none)

end Sys2Proof.Machine
end

