-- ==== Sys2Proof/Machine/Outside.lean ====
section
/-!
DEFINITION. Outside: what reaches homes of this device by itself: accesses from outside, through a virtual function's aperture, from
a peer and by CXL.mem (R85, R94, R107, R109, R415, R419, R423); and covered requests of this device and of peers (R148, R149).
-/

namespace Sys2Proof.Machine

/-- Bytes an access touches. -/
def extLen (k : ExtKind) : Nat :=
  match k with
  | .read n => n
  | .write bs => bs.length
  | .atomic _ wide _ _ => if wide then 8 else 4
  | .cas128 _ _ _ _ => 16
  | .reduce _ wide _ => if wide then 8 else 4
  | .counter _ _ _ => 8

/-- Does it write? -/
def extWrites (k : ExtKind) : Bool :=
  match k with
  | .read _ => false
  | _ => true

/-- The device's operation of the same name. -/
def atomAm (o : AtomOp) : AmOp :=
  match o with
  | .swap => .swap
  | .cas => .cas
  | .add => .add
  | .band => .band
  | .bor => .bor
  | .bxor => .bxor
  | .min => .min
  | .max => .max
  | .fadd => .fadd

/-- A reduction as the am unit names it. -/
def redAm (o : RedOp) : AmOp :=
  match o with
  | .radd => .radd
  | .rfadd => .rfadd
  | .rmax => .rmax

/-- A counter operation as the am unit names it. -/
def ctrAm (o : CtrOp) : AmOp :=
  match o with
  | .acinit => .acinit
  | .actake => .actake
  | .acgive => .acgive
  | .acread => .acread
  | .acpeek => .acpeek
  | .acfree => .acfree

/-- What an access finds and leaves: the bytes it answers with, the bytes it writes, and the flag of an atomic. Counter operations are
not made here. -/
def extApply (k : ExtKind) (old : List Byte) : List Byte × List Byte × Bool :=
  match k with
  | .read _ => (old, [], true)
  | .write bs => ([], bs, true)
  | .atomic o wide t b =>
    let n := if wide then 8 else 4
    let (new, flag) := amResult (atomAm o) n (w64 (bytesNat old)) t b
    (old, if flag then natBytes n new.toNat else [], flag)
  | .cas128 tl th bl bh =>
    if old == natBytes 8 bl.toNat ++ natBytes 8 bh.toNat then (old, natBytes 8 tl.toNat ++ natBytes 8 th.toNat, true) else (old, [], false)
  | .reduce o wide t =>
    let n := if wide then 8 else 4
    ([], natBytes n (amResult (redAm o) n (w64 (bytesNat old)) t 0).1.toNat, true)
  | .counter _ _ _ => ([], [], false)

/-- A read from outside is about to be performed: the home recalls its lines, and it is counted (R69). None while a commit under way
holds a line (R128). -/
def State.outsideRead (s : State) (ctx : Nat) (pas : List Nat) : Option State :=
  if pas.any (s.readHeld none) then none
  else
    let takeBack (s : State) (pa : Nat) : State :=
      match s.homeAccess (s.cacheReq ioDie ctx none pa 0 false) false (!s.linePending pa) with
      | .done _ s => s
      | .wait s => s
    let s := (dedup (pas.map fun pa => lineOf pa * 128)).foldl takeBack s
    some ((dedup (pas.map partOf)).foldl (fun s p => s.countExt p false) s)

/-- Does the word of a live counter lie among the bytes? A write or atomic there is not performed (R160). -/
def State.liveAt (s : State) (pas : List Nat) : Bool := s.counters.any fun c => pas.any fun pa => c.word ≤ pa && pa < c.word + 8

/-- The byte stored at an address (R423). -/
def State.storedByte (s : State) (pa : Nat) : Byte :=
  let at_ := s.bytePlace none pa
  unitByte (s.storedUnit (at_ / 128)) (at_ % 128)

/-- A data unit, held as the bytes that are stored. -/
def State.rawUnit (s : State) (u : Nat) : State :=
  if s.rawUnits.contains u then s
  else
    { s with
      mem := s.mem.writeBytes (u * 128) ((List.range 128).map (unitByte (s.storedUnit u)))
      rawUnits := s.rawUnits ++ [u] }

/-- Is it an atomic, a reduction or a counter operation, which is marked? Any other access from outside is plain (R94). -/
def extMarked (k : ExtKind) : Bool :=
  match k with
  | .read _ => false
  | .write _ => false
  | .atomic _ _ _ _ => true
  | .cas128 _ _ _ _ => true
  | .reduce _ _ _ => true
  | .counter _ _ _ => true

/-- An access from outside as the race test sees it. -/
def ExtWait.race (x : ExtWait) : RaceIn where
  ctx := x.ctx
  me := none
  ps := x.pas.map (pieceAtPa · 1)
  write := extWrites x.kind
  plain := !extMarked x.kind
  own := none

/-- The context as whose an access reads and writes: a peer's has none, and moves bytes as their units' keys give them (log 7). -/
def ExtWait.asCtx (x : ExtWait) : Nat := x.ctx.getD Config.numContexts

/-- Write bytes from outside: as data, or by CXL.mem as the stored bytes of their data units (R423). -/
def State.putOutside (s : State) (x : ExtWait) (bytes : List Byte) : State :=
  (x.pas.zip bytes).foldl (fun (s : State) y =>
    if x.src == .cxlMem then
      let at_ := s.bytePlace none y.1
      let s := s.rawUnit (at_ / 128)
      { s with mem := s.mem.write at_ y.2 }
    else s.writeByte none x.asCtx y.1 y.2) s

/-- What performing an access from outside comes to: its status, the bytes it answers with, and the flag; or a wait. -/
inductive ExtRes where
  | done (status : Nat) (answer : List Byte) (flag : Bool) (s : State)
  | wait (s : State)
  deriving DecidableEq, Repr

/-- Perform an access from outside at the homes of its bytes, if it need not wait: for a pending line, a collapse or a migration. A
release at scope s, which alone holds the agents outside, is performed after what it releases (R85, R88). -/
def State.extDo (s : State) (x : ExtWait) : ExtRes :=
  let old := x.pas.map fun pa => if x.src == .cxlMem then s.storedByte pa else s.readByte none x.asCtx pa
  let (answer, bytes, flag) := extApply x.kind old
  if x.pas.any (s.readHeld none) then .wait s
  else if !extWrites x.kind then
    match s.outsideRead x.asCtx x.pas with
    | some t => .done 0 answer flag (t.noteRace x.race true)
    | none => .wait s
  else if s.liveAt x.pas then .done 0x43 (answer.map fun _ => 0) false s
  else
    match s.hostWrite x.asCtx x.pas with
    | (s, false) => .wait s
    | (s, true) => .done 0 answer flag ((s.noteRace x.race true).putOutside x bytes).wakeAll

/-! ### Covered requests (R148, R149) -/

/-- What the home does with an operation it executes: the answer comes at once, later (a counter's queue), or it has to
wait first. -/
inductive HomeRes where
  | answer (status : Nat) (val : W64) (flag : Bool) (s : State)
  | later (s : State)
  | wait (s : State)
  deriving DecidableEq, Repr

/-- What a request asks for, and the die it comes from, 4 for another device. -/
def State.request? (s : State) (ref : OpRef) : Option (OpBody × Nat) :=
  match s.covOps.find? fun (o : CovOp) => o.ref == ref with
  | some o => some (o.body, o.die)
  | none => (s.peerOps.find? fun o => o.ref == ref).map fun o => (.peer o.x, Config.numDies)

/-- A lane's operation at its home: a returning atomic waits for the releases it would read from (R88); a write is noted, and wakes the
words' waiters (R107). -/
def State.execLane (s : State) (ref : OpRef) (p : PieceRef) (h : HomeOp) : HomeRes :=
  let ctr := match h.am with
    | some a => a.counter
    | none => false
  let held := match s.pieceAt p with
    | some (_, _, e, o, x) => s.acquireHeld p.g e o x
    | none => false
  if ctr then
    match s.homeCounter h.ctx (h.am.getD .acpeek) h.pa h.c h.t h.b h.core.die (.op ref) with
    | (s, true) => .later s
    | (s, false) => .wait s
  else if held then .wait s
  else
    match s.performAt h 0 with
    | .wait s => .wait s
    | .done st v f _ t =>
      .answer st v f (match st, t.pieceAt p with
        | 0, some (_, _, e, o, x) => (t.noteEarly p.g e o x).wakeAll
        | _, _ => t.wakeAll)

/-- An operation of another device at its home (R162, R419). A counter that a peer makes belongs to the context of this device that has
the number in the peer's identity (log 65). -/
def State.execPeer (s : State) (ref : OpRef) (x : ExtWait) : HomeRes :=
  match x.kind with
  | .counter o t b =>
    match s.homeCounter (identCtx ref.ident) (ctrAm o) (x.pas.headD 0) true t b Config.numDies (.op ref) with
    | (s, true) => .later s
    | (s, false) => .wait s
  | _ =>
    match s.extDo x with
    | .done st answer flag s => .answer st (w64 (bytesNat (answer.take 8))) flag s
    | .wait s => .wait s

/-- Execute the body of a covered operation of a die. -/
def State.execBody (s : State) (ref : OpRef) (body : OpBody) (die : Nat) : HomeRes :=
  match body with
  | .access p h => s.execLane ref p h
  | .peer x => s.execPeer ref x
  | .grant word n need _ =>
    match s.counter? word with
    | none => .answer 0x44 0 false s
    | some c =>
      if c.st == .poisoned then .answer 0x48 0 false s
      else .later (s.modCounter word fun c => { c with waiting := c.waiting ++ [.grant die n need (.op ref)] })
  | .giveBack word amount p =>
    match s.counter? word with
    | none => .answer 0x44 0 false s
    | some c =>
      if c.st == .poisoned then .answer 0x48 0 false s
      else if p.isSome then
        .later (s.modCounter word fun c => { c with waiting := c.waiting ++ [.op .acgive (w64 amount) 0 die (.op ref)] })
      else
        match s.ctrLine c.ctx word die c.cached with
        | (s, true) => .answer 0 0 false ((s.countCtr word die).addH word amount)
        | (s, false) => .wait s

/-- Give the answer BUSY, which leaves no entry. -/
def State.answerBusy (s : State) (p : Packet) : State := s.reply p.home p.slice p.ref 0 0 false true

/-- A request is taken at its slice; one whose identity has a reserved bit set is dropped (R142). A copy of an operation that waits in
its counter's queue is dropped without an answer: the answer comes when the operation has been executed (log 71). False: the bank has to
wait. -/
def State.takeRequest (s : State) (p : Packet) (stamp : Nat) (pred : Option Nat) (wm : Nat) : State × Bool :=
  let below (s : State) : State := s.retireBelow p.home p.slice p.ref.ident wm
  if 2 ^ 30 ≤ p.ref.ident then (s, true)
  else if s.homeInc p.home != some stamp then (below (s.reply p.home p.slice p.ref 0x40 0 false false), true)
  else
    match s.cached? p.home p.slice p.ref with
    | some e => (below (s.reply p.home p.slice p.ref e.status e.val e.flag false), true)
    | none =>
      match s.request? p.ref with
      | none => (s, true)
      | some (body, die) =>
        if s.queuedAtCounter p.ref then (below s, true)
        else if !s.predDone p pred wm then
          let held := s.holds.filter fun (x : Packet) => x.home == p.home && x.slice == p.slice
          if held.any fun x => x.ref == p.ref then
            -- the held request takes the watermark of a later copy of itself (R148)
            let mine (x : Packet) : Bool := x.ref == p.ref && x.home == p.home && x.slice == p.slice
            (below { s with holds := upd mine (fun x => { x with kind := p.kind }) s.holds }, true)
          else if held.length < 32 then (below { s with holds := s.holds ++ [p] }, true)
          else (below (s.answerBusy p), true)
        else if !s.cacheRoom p.home p.slice then (below (s.answerBusy p), true)
        else
          match s.execBody p.ref body die with
          | .answer st v f s => (below (s.answer p.home p.slice p.ref st v f), true)
          | .later s => (below s, true)
          | .wait s => (s, false)

/-- Held requests whose predecessor has been executed by now are taken. -/
def serveHolds : (fuel : Nat) → State → State
  | 0, s => s
  | fuel + 1, s =>
    let ready (p : Packet) : Bool := match p.kind with
      | .request _ pred wm => s.predDone p pred wm
      | _ => true
    match s.holds.find? ready with
    | none => s
    | some p =>
      let rest : State := { s with holds := drop (fun (x : Packet) => x == p) s.holds }
      match p.kind with
      | .request stamp pred wm =>
        let (s', taken) := rest.takeRequest p stamp pred wm
        if taken then serveHolds fuel s' else { s' with holds := s'.holds ++ [p] }
      | _ => serveHolds fuel rest

/-! ### In the order of arrival (R109) -/

/-- A covered request of a peer as it arrives at its home slice. -/
def State.takePeer (s : State) (x : ExtWait) (h : CovHead) : State × Bool :=
  let ref : OpRef := ⟨h.ident, h.serial⟩
  let (home, slice) := s.peerHome x
  let p : Packet := { pid := 0, ref := ref, home := home, slice := slice, port := none, sentAt := s.time, kind := .request h.stamp h.pred h.wm }
  let known : State := { s with peerOps := upsert (fun (o : PeerOp) => o.ref == ref) ⟨ref, x⟩ id s.peerOps }
  match known.takeRequest p h.stamp h.pred h.wm with
  | (s, true) => (serveHolds (s.holds.length + 1) s, true)
  | (s, false) => (s, false)

/-- One access from outside at its home. False: it waits. -/
def State.extTry (s : State) (x : ExtWait) : State × Bool :=
  match x.head with
  | some h => s.takePeer x h
  | none =>
    match s.extDo x with
    | .wait s => (s, false)
    | .done _ answer _ s => (if answer.isEmpty then s else s.note (.readReply answer), true)

/-- Perform what waits, each source's accesses in their order (R109). -/
def State.drainOutside (s : State) : State :=
  s.extQueue.foldl (fun s x =>
    if s.extQueue.find? (fun y => y.src == x.src) == some x then
      match s.extTry x with
      | (s, true) => { s with extQueue := s.extQueue.erase x }
      | (s, false) => s
    else s) s

/-- An access from outside has come: it is performed after those of its source before it (R109). -/
def State.extAccess (s : State) (x : ExtWait) : State :=
  ({ s with extQueue := s.extQueue ++ [x] } : State).drainOutside

end Sys2Proof.Machine
end

