-- ==== Sys2Proof/Machine/EvMem.lean ====
section
/-!
DEFINITION. EvMem: accesses at home slices and stores performed, cache and region events, page walks, and the faults that
Phobos serves (R41 to R47, R57, R61 to R65, R302, R303).
-/

namespace Sys2Proof.Machine

/-! ### Accesses -/

/-- HOME_SLICE_ACCESS (R61). -/
def execHomeSliceAccess (g : GRef) (q : QSel) (id lane piece : Nat) (s : State) : Host.Outcome State Fault Refusal :=
  orStay s ((s.access { g := g, q := q, id := id, lane := lane, piece := piece }).map (·.drainOutside))

/-- A retired workgroup is forgotten once the stores of its groups are performed and their errors reported; its private
segments are zeroed and free from then on (R28, R191). -/
def State.tidyRetired (s : State) : State :=
  let gone (w : Workgroup) : Bool := w.retired && w.groups.all fun g => g.stq.isEmpty && g.pend.isEmpty
  (s.wgs.filter gone).foldl (fun s w => s.removeWg w.wid) s

/-- Does an imprecise store fault apply to a piece? -/
def storeErrorHits (err : StoreError) (p : Piece) : Bool :=
  !p.done && match err, p.target with
    | .peerRefused, .phys pa _ _ _ => paClass pa == 2
    | .hostError, .phys pa _ _ _ => paClass pa == 1
    | .mergeUe, .phys _ _ _ _ => true
    | _, .scratch _ _ => false

/-- Its cause. -/
def storeErrorCause (err : StoreError) : Nat :=
  match err with
  | .peerRefused => 1
  | .hostError => 2
  | .mergeUe => 3

/-- The line of memory that a store's piece merges into. -/
def State.mergeLine (s : State) (g : GRef) (p : Piece) : Option Nat :=
  match p.target, s.launchOf? g with
  | .phys pa _ t _, some l => some (lineOf (if paUsable pa then s.bytePlace (overlayOf l t) pa else pa))
  | _, _ => none

/-- STORE_PERFORMED (R302, R303): a store all of whose lanes are performed leaves its queue, its errors reported; with an
error, the pieces it hits end unperformed. -/
def execStorePerformed (g : GRef) (id : Nat) (error : Option StoreError) (s : State) : Host.Outcome State Fault Refusal :=
  orStay s (match (s.group? g).bind fun grp => grp.stq.find? fun (e : MemEntry) => e.id == id with
    | none => none
    | some e =>
      match error with
      | none =>
        if e.lanes.all (·.done) then
          let s := (s.postErrors g .st e).modGroup g fun x =>
            ({ x with stq := drop (fun (y : MemEntry) => y.id == id) x.stq } : Group).settleFences (s.acqHeld g)
          some s.tidyRetired.wakeAll
        else none
      | some err =>
        let hits := e.lanes.filter fun o => !o.done && o.pieces.any (storeErrorHits err)
        if hits.isEmpty then none
        else
          let stop (p : Piece) : Piece := if storeErrorHits err p then { p with done := true, status := storeErrorCause err } else p
          let s := hits.foldl (fun s o =>
            s.modGroup g fun x => x.modOp .st id o.lane fun o =>
              { o with pieces := o.pieces.map stop, done := (o.pieces.map stop).all (·.done) }) s
          -- a line that the bytes would have been merged into stays poisoned (R303)
          let poisoned : List Nat := if err != .mergeUe then []
            else hits.flatMap fun o => (o.pieces.filter (storeErrorHits err)).filterMap fun p => s.mergeLine g p
          let s := { s with badLines := s.badLines ++ (dedup poisoned).filter (!s.badLines.contains ·) }
          -- a refused operation has its final response
          let mine (p : PieceRef) : Bool := p.g == g && p.q == .st && p.id == id && match hits.find? fun o => o.lane == p.lane with
            | some o => (o.pieces[p.piece]?).any (storeErrorHits err)
            | none => false
          some ({ s with covOps := drop (fun (c : CovOp) => match c.body with
            | .access p _ => mine p
            | _ => false) s.covOps } : State).wakeAll)

/-! ### L1 (R57) -/

/-- L1_WRITEBACK_GRANT: the data, or the no-data reply, goes out and the entry is free. -/
def execL1WritebackGrant (c : CoreId) (line : Nat) (s : State) : Host.Outcome State Fault Refusal :=
  orStay s (if (s.core c).victims.any fun (v : Victim) => v.line == line then
      some (s.modCore c fun k => { k with victims := drop (fun (v : Victim) => v.line == line) k.victims })
    else none)

/-- L1_SNOOP. -/
def execL1Snoop (c : CoreId) (line : Nat) (inval : Bool) (s : State) : Host.Outcome State Fault Refusal :=
  orStay s (if s.cores.any fun (k : Core) => k.id == c then some (s.modCore c fun k => k.snoop line inval) else none)

/-- CXL_CACHE_SNOOP (R62): the device gives up or keeps shared its copies of a host line. -/
def execCxlCacheSnoop (line : Nat) (inval : Bool) (s : State) : Host.Outcome State Fault Refusal :=
  orStay s (if paClass (line * 128) != 1 then none
    else some (if inval then s.dropLines (fun _ => true) (· == line) else s.snoopAll (fun _ => true) line false))

/-! ### Region directory (R64, R65) -/

/-- REGION_INVALIDATION: a sharer drops the half's lines and acknowledges. -/
def execRegionInvalidation (base size die : Nat) (s : State) : Host.Outcome State Fault Refusal :=
  orStay s ((s.regionInvals.find? fun (v : RegionInval) => v.base == base && v.size == size && v.awaited.contains die).map
    fun v =>
      let s := s.dropRange v.at_ v.half v.halfSize (· == die)
      let left := { v with awaited := drop (· == die) v.awaited }
      { s with regionInvals := upd (fun (x : RegionInval) => x == v) (fun _ => left) s.regionInvals })

/-- REGION_INVALIDATION_ACK: the last acknowledgement splits the region; the write that waits can then be performed. -/
def execRegionInvalidationAck (base size : Nat) (s : State) : Host.Outcome State Fault Refusal :=
  orStay s ((s.regionInvals.find? fun (v : RegionInval) => v.base == base && v.size == size && v.awaited.isEmpty).map fun v =>
    (s.endInval v).drainOutside)

/-- Cycles of quiet time after which halves merge (R65). -/
def regionQuiet : Nat := 2 ^ 20

/-- May the two halves of a region merge: neither is split further, and neither has triggered a step of R64 for 2^20 cycles? -/
def State.halvesReady (s : State) (base size : Nat) (r x : RegionEntry) : Bool :=
  r.size == size / 2 && r.base == base && x.at_ == r.at_ && x.size == r.size && x.base == base + r.size &&
    regionQuiet ≤ cyclesSince s.clock r.lastSplit && regionQuiet ≤ cyclesSince s.clock x.lastSplit &&
    !s.regionInvals.any fun v => v.at_ == r.at_ && base ≤ v.base && v.base < base + size

/-- REGION_MERGE: the region of this base and size takes the place of its two halves, in the first slice where they may merge. No step
of R64 has occurred: a merge upward may follow at once. -/
def execRegionMerge (base size : Nat) (s : State) : Host.Outcome State Fault Refusal :=
  orStay s (if size < 256 || 65536 < size || base % size != 0 then none
    else
      (s.regions.findSome? fun r => (s.regions.find? (s.halvesReady base size r)).map (r, ·)).map fun (r, x) =>
        let merged : RegionEntry :=
          { r with size := size, mask := r.mask ||| x.mask, lastFill := max r.lastFill x.lastFill,
                   lastSplit := max r.lastSplit x.lastSplit }
        { s with regions := drop (fun y => y == r || y == x) s.regions ++ [merged] })

/-! ### Page walks (R41, R42) -/

/-- PAGE_WALK_START: round-robin across the contexts with walks pending, oldest first within one; 64 walks run at once. The first turn
after reset is context 0's (log 71). -/
def execPageWalkStart (die : Nat) (s : State) : Host.Outcome State Fault Refusal :=
  let mine := (s.walks.filter fun (x : Nat × Walk) => x.1 == die).map (·.2)
  let pending := mine.filter (!·.running)
  let last := match s.lastWalkCtx.find? fun (x : Nat × Nat) => x.1 == die with
    | some (_, c) => c
    | none => Config.numContexts - 1
  let order (c : Nat) : Nat := (c + 2 * Config.numContexts - last - 1) % Config.numContexts
  orStay s (if 64 ≤ (mine.filter (·.running)).length then none
    else
      match minBy order (pending.map (·.ctx)) with
      | none => none
      | some c =>
        match pending.find? (·.ctx == c) with
        | none => none
        | some w =>
          some { s with
            walks := upd (fun (x : Nat × Walk) => x.1 == die && x.2 == w) (fun x => (x.1, { x.2 with running := true })) s.walks
            lastWalkCtx := drop (fun (x : Nat × Nat) => x.1 == die) s.lastWalkCtx ++ [(die, c)] })

/-- Answer the misses of a die that satisfy p: buffers are filled, or the fault is kept for the access; their groups go on. -/
def State.answerMisses (s : State) (die : Nat) (p : Miss → Bool) (t : Option TbEntry) (fault : Option Nat) : State :=
  let groups := s.cores.flatMap fun (c : Core) => if c.id.die == die then (c.misses.filter fun m => p m && m.chan.isNone).map (·.g) else []
  let cores := (s.cores.filter fun (c : Core) => c.id.die == die && c.misses.any p).map (·.id)
  let one (c : Core) : Core :=
    if c.id.die != die then c
    else
      match t with
      | some t =>
        let hit := c.misses.filter p
        { hit.foldl (fun (c : Core) m => c.fillTb m.slot t) c with misses := drop p c.misses }
      | none => { c with misses := upd p (fun m => { m with fault := fault }) c.misses }
  let s := { s with cores := s.cores.map one }
  let s := groups.foldl (fun s g => s.modGroup g fun x => x.dropWaits (· == .translate)) s
  cores.foldl (fun s c => s.roomAgain c) s

/-- PAGE_WALK_COMPLETE: the walk reads the tables now; every waiting request inside the leaf it finds completes from it, queued
and running walks among them (R41). There is room in the die's queue then (R40). -/
def execPageWalkComplete (die ctx page : Nat) (s : State) : Host.Outcome State Fault Refusal :=
  orStay s (match s.walks.find? fun (x : Nat × Walk) => x.1 == die && x.2.ctx == ctx && x.2.page == page && x.2.running with
    | none => none
    | some x =>
      let s := { s with walks := drop (fun (y : Nat × Walk) => y == x) s.walks }
      match walk s (some die) ctx (page * 65536) with
      | (.leaf level _ e, s) =>
        let size := 2 ^ levelShift level
        let t : TbEntry := { ctx := ctx, base := page * 65536 / size * size, level := level, leaf := e }
        let s := s.learnLeaf ctx ⟨level, e⟩
        let s := { s with walks := drop (fun (y : Nat × Walk) => y.1 == die && t.maps y.2.ctx (y.2.page * 65536)) s.walks }
        some ((s.answerMisses die (fun m => m.ctx == ctx && m.fault.isNone && t.maps ctx (m.page * 65536)) (some t) none).queueMisses
          die)
      | (.fault c, s) =>
        some (((s.logFault ctx (page * 65536) c).answerMisses die (fun m => m.ctx == ctx && m.fault.isNone && m.page == page) none
          (some c)).queueMisses die))

/-! ### Faults that Phobos serves (R45 to R47) -/

/-- What the growth that met POOL-EMPTY comes to when it is tried now: segment, area and page of its address. -/
def State.retryGrowth (s : State) (f : FwFault) : GrowRes :=
  let o := (f.va - segBase 0) % 2 ^ 30
  s.grow f.ctx ((f.va - segBase 0) / 2 ^ 30) (8388608 ≤ o) ((if 8388608 ≤ o then o - 8388608 else o) / 65536)

/-- Cores whose growth the pool satisfies now resume (R45 step 3): of each core the fault that is being served, as long as it is
one. `trial` is the state with the growths made that are to be satisfied before the next. -/
def resumeCore (c : CoreId) : (fuel : Nat) → (trial s : State) → State × State
  | 0, trial, s => (trial, s)
  | fuel + 1, trial, s =>
    match (s.core c).serving with
    | none => (trial, s)
    | some f =>
      if f.code != fcPoolEmpty then (trial, s)
      else
        match trial.retryGrowth f with
        | .done t => resumeCore c fuel t (s.endStop c f none)
        | .fault code t => if code == fcPoolEmpty then (trial, s) else resumeCore c fuel t (s.endStop c f none)

/-- Resume the cores that wait for the pool and need not any more (R45 step 3). -/
def State.resumePool (s : State) : State :=
  ((s.cores.filter fun (c : Core) => !c.fw.isEmpty).foldl (fun (x : State × State) c => resumeCore c.id c.fw.length x.1 x.2) (s, s)).2

/-- Where the walk of an address ends, whatever it finds there: the entry's level and address. -/
def walkEnd (s : State) (ctx va : Nat) : (level : Nat) → (table : Nat) → Nat × Nat
  | 0, table => (0, table + 8 * levelIndex 0 va)
  | level + 1, table =>
    let epa := table + 8 * levelIndex (level + 1) va
    match readEntry ctx (level + 1) (s.readWord ctx epa) with
    | .table t => walkEnd s ctx va level t
    | .leaf => (level + 1, epa)
    | .fault _ => (level + 1, epa)

/-- Does the page of an address of a context lie in the host-attached tier, as Phobos finds it (R34)? -/
def State.pageAbsent (s : State) (ctx va : Nat) : Bool :=
  !isHole va && bits va 48 8 ≤ 0xEF && (match walk s none ctx va with
    | (.fault c, _) => c == fcNotResident
    | (.leaf _ _ _, _) => false)

/-- Does a launch's completion word lie on such a page (R137)? -/
def State.doneAbsent (s : State) (l : Launch) : Bool := s.pageAbsent l.ctx l.lrec.doneWord.toNat

/-- The leaf takes the place of the stub that a walk of the address ends at. -/
def State.placeLeaf (s : State) (ctx va : Nat) (leaf : W64) : State :=
  let (_, epa) := walkEnd s ctx va 3 (s.ctx ctx).root
  if s.readWord ctx epa &&& 7 == 6 then s.deviceWord ioDie ctx epa leaf else s

/-- The page of a completion word comes in (R45, R137, log 46): the first launch that waits for one. -/
def State.placeDone (s : State) (leaf : W64) : Option State :=
  (s.launches.find? fun l => l.doneSince.isSome && s.doneAbsent l).map fun l =>
    (s.placeLeaf l.ctx l.lrec.doneWord.toNat leaf).modLaunch l.lid fun x => { x with doneSince := none }

/-- The words that a record waits on (R177). -/
def LaunchRec.words (r : LaunchRec) : List W64 := (if r.waitKind == 1 then [r.waitAddr] else []) ++ (if r.armed then [r.armAddr] else [])

/-- The address of a page in the host-attached tier that a stream waits for: of a read of its head record, or of a word that the
record waits on (R45, R181, R182). -/
def State.streamAbsent (s : State) (x : Stream) : Option Nat :=
  match x.absent, x.head with
  | some (va, _), _ => some va
  | none, some h =>
    (h.lrec.words.map (·.toNat)).find? (s.pageAbsent x.ctx)
  | none, none => none

/-- The page that a stream waits for comes in: that of the first stream that waits for one. -/
def State.placeStream (s : State) (leaf : W64) : Option State :=
  s.streams.findSome? fun x => (s.streamAbsent x).map fun va =>
    (s.placeLeaf x.ctx va leaf).modStrm x.num fun x => { x with absent := none }

/-- NOT_RESIDENT_RESOLVED: the leaf takes the stub's place, and the core resumes; of a core that is not stopped, the page of a
completion word or of a word that the front end reads. -/
def execNotResidentResolved (c : CoreId) (leaf : W64) (s : State) : Host.Outcome State Fault Refusal :=
  orStay s (match (s.core c).serving with
    | some f =>
      if f.code != fcNotResident || !(s.ctx f.ctx).en then none
      else
        let s := (s.endStop c f none).placeLeaf f.ctx f.va leaf
        -- the answered miss of the stub is asked again
        some (s.modCore c fun k =>
          { k with misses := drop (fun (m : Miss) => m.g == f.g && m.fault == some fcNotResident) k.misses }).resumePool
    | none => (s.placeDone leaf).or (s.placeStream leaf))

/-- FAULTLIMIT_EXPIRY: the core resumes and the access fails with its code. -/
def execFaultlimitExpiry (c : CoreId) (s : State) : Host.Outcome State Fault Refusal :=
  orStay s (match (s.core c).serving with
    | some f =>
      if s.time < f.since + (s.ctx f.ctx).faultLimit * 1000 then none
      else some (s.endStop c f (some { f with expired := true })).resumePool
    | none => none)

/-- POOL_RING_PROD_WRITE (R45). -/
def execPoolRingProdWrite (ctx : Nat) (prod : W32) (s : State) : Host.Outcome State Fault Refusal :=
  orStay s (if Config.numContexts ≤ ctx || !s.served then none
    else some (((s.modCtx ctx fun c => { c with prod := prod.toNat }).rearmLow ctx).resumePool))

end Sys2Proof.Machine
end

