-- ==== Sys2Proof/Machine/EvCharon.lean ====
section
/-!
DEFINITION. EvCharon: epochs, copies filled, exchanges, collapses and merges (R69 to R77).
-/

namespace Sys2Proof.Machine

/-- EPOCH_END (R69, R70): 2^20 cycles after the one before. -/
def execEpochEnd (s : State) : Host.Outcome State Fault Refusal :=
  orStay s (if s.clock * 3 / 2 < (s.epoch + 1) * 2 ^ 20 then none else some s.endEpoch.drainOutside)

/-- REPLICA_FILL_COMPLETE (R70). -/
def execReplicaFillComplete (part die : Nat) (s : State) : Host.Outcome State Fault Refusal :=
  let p := s.part part
  orStay s (match p.filling.find? fun (x : Nat × Nat) => x.1 == die with
    | some x =>
      if p.st == .readDup then
        some (s.modPart part fun p => { p with filling := drop (· == x) p.filling, copies := p.copies ++ [x] })
      else none
    | none => none)

/-- MIGRATION_EXCHANGE_COMPLETE (R71): a part and its partner swap homes. The exchanges of a unit complete in ascending part
order. -/
def execMigrationExchangeComplete (part : Nat) (s : State) : Host.Outcome State Fault Refusal :=
  let p := s.part part
  orStay s (match p.partner with
    | none => none
    | some q =>
      let earlier (x : Nat) : Bool := (s.fellows x).any fun n => n < x && (s.part n).st == .migrating
      if p.st != .migrating || earlier part || earlier q then none
      else
        let hp := p.home
        let hq := (s.part q).home
        let s := s.dropLines (fun _ => true) fun line => lineInPart part line || lineInPart q line
        let s := (s.modPart part fun x => { x with home := hq, st := .single, partner := none }).modPart q fun x =>
          { x with home := hp, st := .single, partner := none }
        some s.drainOutside)

/-- COLLAPSE_REQUEST (R74): the home splits a merged unit, sets the part COLLAPSING and asks every die with a copy. -/
def execCollapseRequest (part : Nat) (s : State) : Host.Outcome State Fault Refusal :=
  orStay s (if (s.part part).requested then some ((s.splitUnit part).startCollapse part) else none)

/-- COLLAPSE_INVALIDATION (R73): a die drops the part's lines and acknowledges. -/
def execCollapseInvalidation (part die : Nat) (s : State) : Host.Outcome State Fault Refusal :=
  let p := s.part part
  orStay s (if p.st == .collapsing && p.awaited.contains die then
      some ((s.dropLines (· == die) (lineInPart part)).modPart part fun p => { p with awaited := drop (· == die) p.awaited })
    else none)

/-- COLLAPSE_ACK (R74): the last acknowledgement makes the part SINGLE; the write that waits can then be performed. -/
def execCollapseAck (part : Nat) (s : State) : Host.Outcome State Fault Refusal :=
  let p := s.part part
  orStay s (if p.st == .collapsing && p.awaited.isEmpty then some (s.endCollapse part).drainOutside else none)

/-- UNIT_MERGE (R70): a split unit with 2^24 cycles without a write merges, READ-DUP on the union of the dies that held
copies of any part, as far as there are frames (log 62). -/
def execUnitMerge (unit : Nat) (s : State) : Host.Outcome State Fault Refusal :=
  let ps := (List.range 32).map (unit * 32 + ·)
  let u := s.unit unit
  orStay s (if !s.largeUnit unit || !u.split || cyclesSince s.clock u.lastWrite < 2 ^ 24 then none
    else if ps.any fun p => !s.rdAllowed p || s.committedHere p || s.counterHere p || (s.part p).st == .migrating ||
        (s.part p).st == .collapsing then none
    else
      let dies := dedup (ps.flatMap fun p => ((s.part p).copies ++ (s.part p).filling).map (·.1))
      some ((s.modUnit unit fun u => { u with split := false }).promote ps dies))

end Sys2Proof.Machine
end

