-- ==== Sys2Proof/Machine/EvRemote.lean ====
section
/-!
DEFINITION. EvRemote: covered requests at their home slices, answers at the requesters, timers, notices, restarts and
incarnations (R141 to R160).
-/

namespace Sys2Proof.Machine

/-- Change an outstanding operation. -/
def State.modCov (s : State) (ref : OpRef) (f : CovOp → CovOp) : State :=
  { s with covOps := upd (fun (x : CovOp) => x.ref == ref) f s.covOps }

/-! ### At the home (R149) -/

/-- A packet older than its lifetime is never delivered (R141). -/
def Packet.alive (p : Packet) (clock : Nat) : Bool := clock ≤ p.sentAt + packetLife

/-- COVERED_REQUEST (R149). -/
def execCoveredRequest (pkt : Nat) (s : State) : Host.Outcome State Fault Refusal :=
  orStay s (match s.packets.find? fun (p : Packet) => p.pid == pkt with
    | none => none
    | some p =>
      match p.kind with
      | .request stamp pred wm =>
        if !p.alive s.time || !s.deliverable p then none
        else
          let (s', taken) := s.takeRequest p stamp pred wm
          if taken then some (serveHolds (s'.holds.length + 1) (s'.dropPacket pkt)).drainOutside else some s'
      | _ => none)

/-! ### At the requester (R151 to R153, R156, R160) -/

/-- A covered operation has its final outcome: its body is told, and it is outstanding no more. -/
def State.endCovered (s : State) (o : CovOp) (status : Nat) (val : W64) (flag : Bool) : State :=
  let s := { s with covOps := drop (fun (x : CovOp) => x.ref == o.ref) s.covOps }
  match o.body with
  | .access p _ =>
    match s.wg? p.g.wg with
    | some w => if w.out then s else s.finishPiece p status val flag false
    | none => s
  | .grant word _ _ p =>
    let mine (t : TakeWait) : Bool := t.word == word && t.die == o.die && t.p == p
    if status != 0 || !flag then s.refuseTake word o.die o.ctx status p
    else if s.takes.any mine then { s with takes := upd mine (fun t => { t with granted := some val.toNat }) s.takes }
    else s.toDie word o.die val.toNat
  | .giveBack _ _ p =>
    match p with
    | some p => s.finishPiece p status 0 false false
    | none => s
  | .peer _ => s

/-- COVERED_RESPONSE (R152, R153). A response for an operation that is recorded in an image is discarded (R157). -/
def execCoveredResponse (pkt : Nat) (s : State) : Host.Outcome State Fault Refusal :=
  orStay s (match s.packets.find? fun (p : Packet) => p.pid == pkt with
    | none => none
    | some p =>
      match p.kind with
      | .answer status val flag busy =>
        if !p.alive s.time || !s.deliverable p then none
        else
          let s := s.dropPacket pkt
          match s.covOps.find? fun (o : CovOp) => o.ref == p.ref with
          | none => some s
          | some o =>
            let out := match o.body with
              | .access q _ => match s.wg? q.g.wg with
                | some w => w.out
                | none => false
              | _ => false
            if out then some s
            else if busy then
              some (s.modCov o.ref fun x =>
                { x with answered := true, due := if x.st == .quiet then x.due else s.time + 8000 })
            else some ((s.endCovered o status val flag).track o.ref.ident o.home o.slice).drainOutside
      | _ => none)

/-- Is the operation that of a group that is switched out: its limits count resident time only (R158)? -/
def State.covParked (s : State) (o : CovOp) : Bool :=
  match o.body with
  | .access p _ => match s.wg? p.g.wg with
    | some w => w.out
    | none => false
  | _ => false

/-- RETRANSMIT_TIMER (R152). -/
def execRetransmitTimer (op : OpRef) (s : State) : Host.Outcome State Fault Refusal :=
  orStay s (match s.covOps.find? fun (o : CovOp) => o.ref == op with
    | none => none
    | some o =>
      if o.st == .quiet || s.time < o.due || s.covParked o then none
      else
        let next := min packetLife (2 * o.interval)
        some ((s.modCov op fun x => { x with interval := next, due := s.time + next, lastSent := s.time }).transmit o))

/-- OPERATION_TIMEOUT (R152 item 4). -/
def execOperationTimeout (op : OpRef) (s : State) : Host.Outcome State Fault Refusal :=
  orStay s (match s.covOps.find? fun (o : CovOp) => o.ref == op with
    | none => none
    | some o =>
      if o.st == .quiet || s.time < o.firstSent + 100000000 || s.covParked o then none
      else some (s.modCov op fun x => { x with st := .quiet, due := x.lastSent + packetLife }))

/-- QUIET_EXPIRY (R152, R153): the status is that of R160. -/
def execQuietExpiry (op : OpRef) (s : State) : Host.Outcome State Fault Refusal :=
  orStay s (match s.covOps.find? fun (o : CovOp) => o.ref == op with
    | none => none
    | some o =>
      if o.st != .quiet || s.time < o.lastSent + packetLife || s.covParked o then none
      else
        let status := if o.incCause then 0x40 else if o.answered then 0x42 else 0x41
        some (s.endCovered o status 0 false))

/-- WATERMARK_NOTICE_TIMER (R151): 16 µs after the last response of a slice. -/
def execWatermarkNoticeTimer (ident : Nat) (home : SliceId) (s : State) : Host.Outcome State Fault Refusal :=
  orStay s (match (s.trackedOf ident).find? fun t => t.home.die == home.die && t.slice == home.slice && t.since + 16000 ≤ s.time with
    | none => none
    | some t => some ((s.sendNotice ident t).setTracked ident (drop (· == t) (s.trackedOf ident))))

/-- WATERMARK_NOTICE (R149, R151). -/
def execWatermarkNotice (pkt : Nat) (s : State) : Host.Outcome State Fault Refusal :=
  orStay s (match s.packets.find? fun (p : Packet) => p.pid == pkt with
    | none => none
    | some p =>
      match p.kind with
      | .notice wm => if !p.alive s.time || !s.deliverable p then none else some ((s.dropPacket pkt).retireBelow p.home p.slice p.ref.ident wm)
      | _ => none)

/-- RESULT_ENTRY_RETIRE (R149). -/
def execResultEntryRetire (home : SliceId) (ident serial : Nat) (s : State) : Host.Outcome State Fault Refusal :=
  let hit (e : RCEntry) : Bool :=
    e.home.die == home.die && e.slice == home.slice && e.ref == ⟨ident, serial⟩ && !e.live s.time
  orStay s (if s.results.any hit then some { s with results := drop hit s.results } else none)

/-- PACKET_AGE_DROP (R141): a packet past its lifetime is dropped. -/
def execPacketAgeDrop (pkt : Nat) (s : State) : Host.Outcome State Fault Refusal :=
  orStay s (match s.packets.find? fun (p : Packet) => p.pid == pkt with
    | some p => if p.alive s.time then none else some (s.dropPacket pkt)
    | none => none)

/-! ### Restarts and incarnations (R154, R155) -/

/-- The incarnation after one, skipping 0. -/
def incAfter (n : Nat) : Nat := if (n + 1) % 2 ^ 16 == 0 then 1 else (n + 1) % 2 ^ 16

/-- A home of this device restarts: its result caches and hold buffers are emptied and its incarnation rises. -/
def State.restartHome (s : State) (die : Nat) : State :=
  let h : HomeId := ⟨s.plat.devNum, die⟩
  { s with
    results := drop (fun (e : RCEntry) => e.home == h) s.results
    holds := drop (fun (p : Packet) => p.home == h) s.holds
    incs := modAt s.incs die incAfter }

/-- HOME_RESTART (R155 case 1). -/
def execHomeRestart (die : Nat) (s : State) : Host.Outcome State Fault Refusal :=
  orStay s (if die < Config.numDies then some (s.restartHome die) else none)

/-- A die records an incarnation, and its outstanding operations to that home with another stamp turn QUIET (R155). -/
def State.learnInc (s : State) (die : Nat) (home : HomeId) (inc : Nat) : State :=
  { s with
    incTable := drop (fun (x : Nat × HomeId × Nat) => x.1 == die && x.2.1 == home) s.incTable ++ [(die, home, inc)]
    covOps := s.covOps.map fun (o : CovOp) =>
      if o.die == die && o.home == home && o.stamp != inc && o.st != .quiet then
        { o with st := .quiet, incCause := true, due := o.lastSent + packetLife } else o }

/-- A peer's home has restarted: its result caches and hold buffers are empty (R155). -/
def State.peerRestart (s : State) (h : HomeId) (inc : Nat) : State :=
  if s.homeInc h == some inc then s
  else
    { s with
      peerIncs := drop (fun (x : HomeId × Nat) => x.1 == h) s.peerIncs ++ [(h, inc)]
      results := drop (fun (e : RCEntry) => e.home == h) s.results
      holds := drop (fun (p : Packet) => p.home == h) s.holds }

/-- INCARNATION_UPDATE (R155): of a home of this device, or of a peer's home that the die can reach: its present incarnation, or a later
one that it has after a restart. -/
def execIncarnationUpdate (die : Nat) (home : HomeId) (inc : Nat) (s : State) : Host.Outcome State Fault Refusal :=
  let own := home.device == s.plat.devNum
  let now := (s.homeInc home).getD 0
  orStay s (if Config.numDies ≤ die || (own && s.incs[home.die]? != some inc) ||
      (!own && ((s.incOf die home).isNone || inc == 0 || 2 ^ 16 ≤ inc || (inc != now && !serialLater now inc))) then none
    else some ((if own then s else s.peerRestart home inc).learnInc die home inc))

/-- A fabric port at reset: its link is down (R416, log 3). -/
def Port.reset (n : Nat) : Port := { num := n, up := false, stop := [], replays := 0 }

/-- ROUTING_BRING_UP (R154, R144, R417): Phobos brings up routing to a peer over a port mask, and every die records the
incarnations of its four homes. A peer whose drop acknowledgement is still awaited has to acknowledge first. -/
def execRoutingBringUp (peer ports : Nat) (incs : List Nat) (s : State) : Host.Outcome State Fault Refusal :=
  orStay s (if incs.length != 4 || incs.any (fun n => n == 0 || 2 ^ 16 ≤ n) || 1024 ≤ peer || peer == s.plat.devNum ||
      s.contexts.any (fun c => c.awaitPeers.contains peer) then none
    else
      let s := { s with routes := drop (fun (x : Nat × Nat) => x.1 == peer) s.routes ++ [(peer, ports % 2 ^ 18)] }
      let s := ((List.range 18).filter (bit ports)).foldl (fun (s : State) n =>
        if s.ports.any fun p => p.num == n && p.up then s
        else
          -- a port that comes up is the last to be chosen (R417)
          let p := (s.ports.find? (·.num == n)).getD (Port.reset n)
          { s with ports := drop (·.num == n) s.ports ++ [{ p with up := true }] }) s
      let s := (List.range 4).foldl (fun s h => s.peerRestart ⟨peer, h⟩ (incs[h]?.getD 1)) s
      some ((List.range 4).foldl (fun s die =>
        (List.range 4).foldl (fun s h => s.learnInc die ⟨peer, h⟩ (incs[h]?.getD 1)) s) s))

/-! ### Counters (R164 to R172) -/

/-- COUNTER_GRANT_REQUEST (R165): the home serves the first waiting request; with none to serve, a die asks that could not before. -/
def execCounterGrantRequest (word : Nat) (s : State) : Host.Outcome State Fault Refusal :=
  orStay s ((s.serveCounter word).or (s.askAgain word))

/-- COUNTER_GRANT (R164). -/
def execCounterGrant (word die : Nat) (s : State) : Host.Outcome State Fault Refusal := orStay s (s.takeGrant word die)

/-- COUNTER_RECALL (R165, R170). -/
def execCounterRecall (word die : Nat) (core : Option Nat) (s : State) : Host.Outcome State Fault Refusal :=
  orStay s (s.recall word die core)

/-- COUNTER_RETURN (R168). -/
def execCounterReturn (word : Nat) (s : State) : Host.Outcome State Fault Refusal := orStay s (s.returnAmount word)

/-- COUNTER_POISONED (R172). -/
def execCounterPoisoned (word : Nat) (s : State) : Host.Outcome State Fault Refusal :=
  orStay s (if (s.counter? word).isSome then some (s.poisonCounter word) else none)

end Sys2Proof.Machine
end

