-- ==== Sys2Proof/Machine/EvUnits.lean ====
section
/-!
DEFINITION. EvUnits: the steps of the copy engine, the queue unit, Encke, barriers, wake-word timeouts and the matrix
engine (R99 to R106, R311 to R328, R344 to R348, R359 to R388).
-/

namespace Sys2Proof.Machine

/-! ### Copies (R311 to R318) -/

/-- Where one piece of an element lies: there; behind a walk that has been asked for, or a fault that Phobos serves; or nowhere,
with the code of R44. -/
inductive CopyTr where
  | at_ (t : Target) (s : State)
  | wait (s : State)
  | serve (code : Nat) (s : State)
  | fail (code : Nat) (s : State)
  deriving DecidableEq, Repr

/-- Translate, bounds-check and permission-check one piece of an element when it is moved (R315). A miss goes to the die's
walkers like a group's, and joins a walk of the same key (R40, R41). -/
def copyTr (w : Who) (lane va len : Nat) (a : Acc) : (fuel : Nat) → State → CopyTr
  | 0, s => .fail fcMalformed s
  | fuel + 1, s =>
    if isHole va then .fail fcHole s
    else
      match s.translate w lane va len a with
      | .ok t e => .at_ t (s.touch w e a.writes)
      | .fault c => if c == fcNotResident then .serve c s else .fail c s
      | .miss page => .wait (s.addMiss w page)
      | .grow seg area page =>
        match s.grow w.ctx seg area page with
        | .done s => copyTr w lane va len a fuel s
        | .fault c s =>
          if c == fcPoolEmpty || c == fcNotResident then .serve c s else .fail c (s.logFault w.ctx (w.linear lane va) c)

/-- Pieces of an element's address. -/
def elemRuns (va e : Nat) : List (Nat × Nat) := if isLaneView va && e == 8 then [(0, 4), (4, 4)] else [(0, e)]

/-- What part of an element comes to: its value, a wait, a failure with its cause and address. -/
inductive ElemRes where
  | ok (v : Nat) (s : State)
  | wait (s : State)
  | serve (code va : Nat) (s : State)
  | fail (code va : Nat) (s : State)
  deriving DecidableEq, Repr

/-- The code of a copy fault for an uncorrectable error (R392). -/
def copyUe : Nat := 0x80

/-- Read an element's source, piece by piece. -/
def elemRead (w : Who) (l : Launch) (j : CopyJob) (va : Nat) : List (Nat × Nat) → State → ElemRes
  | [], s => .ok 0 s
  | (off, len) :: runs, s =>
    match copyTr w j.lane (va + off) len .load 2 s with
    | .fail c s => .fail c (va + off) s
    | .wait s => .wait s
    | .serve c s => .serve c (va + off) s
    | .at_ (.scratch wid o) s =>
      let (v, bad) := match s.wg? wid with
        | some x => (x.scratch.readNat (rotate j.rho o) len, x.scratchUe (rotate j.rho o) len)
        | none => (0, false)
      if bad then .fail copyUe (va + off) s
      else
        match elemRead w l j va runs s with
        | .ok rest s => .ok (v * 2 ^ (8 * off) + rest) s
        | r => r
    | .at_ (.phys pa _ t c) s =>
      match s.readAt w.core w.ctx (overlayOf l t) pa len c 1 with
      | .wait s => .wait s
      | .done _ v _ bad s =>
        if bad then .fail copyUe (va + off) s
        else
          match elemRead w l j va runs s with
          | .ok rest s => .ok (v.toNat * 2 ^ (8 * off) + rest) s
          | r => r

/-- Write an element's destination. Copy writes carry no serial (R139). -/
def elemWrite (w : Who) (l : Launch) (j : CopyJob) (va v : Nat) : List (Nat × Nat) → State → ElemRes
  | [], s => .ok 0 s
  | (off, len) :: runs, s =>
    let part := v / 2 ^ (8 * off) % 2 ^ (8 * len)
    match copyTr w j.lane (va + off) len .store 2 s with
    | .fail c s => .fail c (va + off) s
    | .wait s => .wait s
    | .serve c s => .serve c (va + off) s
    | .at_ (.scratch wid o) s =>
      if (s.wg? wid).any fun x => x.scratchUe (rotate j.rho o) len && len < 8 then .fail copyUe (va + off) s
      else elemWrite w l j va v runs (s.modWg wid (·.scratchPut (rotate j.rho o) len part))
    | .at_ (.phys pa k t c) s =>
      let h : HomeOp :=
        { ctx := w.ctx, core := w.core, own := overlayOf l t, ver := l.version, pa := pa, len := len, kind := k, c := c, am := none,
          t := w64 part, b := 0 }
      match s.performAt h 1 with
      | .wait s => .wait s
      | .done st _ _ _ s => if st == 3 then .fail copyUe (va + off) s else elemWrite w l j va v runs s.wakeAll

/-- A copy that fails ends its workgroup, with a report (R103, R315). -/
def State.copyFault (s : State) (w : Workgroup) (g : GRef) (grp : Group) (l : Launch) (ch : Nat) (j : CopyJob) (code va : Nat) :
    State :=
  let (i0, i1, i2) := j.index j.next
  let (now, s) := s.sampleTime
  let t : TrapInfo :=
    { precise 0x31 code 7 with
      lane := j.lane, lanes := maskOf 64 (· == j.lane), pc := j.pc, addr := w64 va, time := now
      info0 := w64 (ch + i0 * 2 ^ 8 + i1 * 2 ^ 32 + i2 * 2 ^ 48) }
  let s := s.report l.ctx (recordWords { t with exited := grp.ended } l g.gi w.num (grp.resumeAt l))
  s.failLaunch l.lid (if code == copyUe then 0x14 else 0x10)

/-- An element has been moved: the write pointer counts its bytes, its barrier is told, and a copy that is over leaves its
channel (R314, R316, R317). -/
def State.elemMoved (s : State) (g : GRef) (ch : Nat) (j : CopyJob) : State :=
  let next (c : Channel) : Channel :=
    match c.jobs with
    | [] => c
    | x :: xs =>
      { jobs := if x.next + 1 < x.count then { x with next := x.next + 1 } :: xs else xs
        written := (c.written + j.esize) % 2 ^ 32 }
  let s := s.modGroup g fun x => ({ x with chans := modAt x.chans ch next } : Group).settleBatches
  match j.bar with
  | none => s
  | some (cluster, n) =>
    let s := s.barBytes g cluster n (-(j.esize : Int))
    match s.barAt g cluster with
    | some b => s.releaseBar b cluster n
    | none => s

/-- The copy at the head of a channel, with its group. -/
def State.copyAt (s : State) (g : GRef) (ch : Nat) : Option (Workgroup × Group × Launch × Who × CopyJob) := do
  let w ← s.wg? g.wg
  let grp ← w.group? g.gi
  let l ← s.launch? w.lid
  let who ← s.who? g
  let c ← grp.chans[ch]?
  let j ← c.jobs.head?
  return (w, grp, l, { who with chan := some ch }, j)

/-- COPY_ELEMENT. The events before its trigger come first (R99); a frozen copy engine and a stopped core move nothing, and a
copy that waits for Phobos moves nothing until its fault is resolved or its limit has passed (R315). -/
def execCopyElement (g : GRef) (ch : Nat) (ue : Bool) (s : State) : Host.Outcome State Fault Refusal :=
  orStay s (match s.copyAt g ch with
    | none => none
    | some (w, grp, l, who, j) =>
      if w.out || w.retired || l.phase != .running || (s.core w.core).copyFrozen || s.coreStopped w.core ||
          (s.core w.core).fw.any (fun (f : FwFault) => f.g == g && f.chan == some ch && !f.expired) ||
          !grp.performedBefore j.trig then none
      else
        let src := (j.srcVa j.next).toNat
        let dst := (j.dstVa j.next).toNat
        let fail (code va : Nat) (s : State) : State := s.copyFault w g grp l ch j code va
        let serve (code va : Nat) (s' : State) : State :=
          match s'.expiredFw who (some ch) with
          | some c => fail c va (s'.clearFw who (some ch))
          | none =>
            let s := s'.stopCore who code va j.lane (some ch)
            if j.phobos then
              s.modCore who.core fun c => { c with fw := upd (fun f => f.g == g && f.chan == some ch) (fun f => { f with taken := true }) c.fw }
            else s
        if ue then some (fail copyUe src s)
        else
          match elemRead who l j src (elemRuns src j.esize) ((s.noteElem who l j).stray w.ctx) with
          | .wait s => some s
          | .serve c va s => some (serve c va s)
          | .fail c va s => some (fail c va s)
          | .ok v s =>
            let (v, s) := s.racedWord w.ctx (w64 v)
            match elemWrite who l j dst v.toNat (elemRuns dst j.esize) s with
            | .wait s => some s
            | .serve c va s => some (serve c va s)
            | .fail c va s => some (fail c va s)
            | .ok _ s => some (((s.elemMoved g ch j).clearFw who (some ch)).clearMisses who))

/-- COPY_PHOBOS_TAKEOVER (R315): the core runs on, the stall is charged, and Phobos moves the rest. -/
def execCopyPhobosTakeover (g : GRef) (ch : Nat) (s : State) : Host.Outcome State Fault Refusal :=
  orStay s (match s.copyAt g ch with
    | none => none
    | some (w, _, _, _, _) =>
      match (s.core w.core).fw.find? fun (f : FwFault) => f.g == g && f.chan == some ch && !f.expired && !f.taken with
      | none => none
      | some f =>
        let s := s.endStop w.core f (some { f with taken := true })
        let take (c : Channel) : Channel := match c.jobs with
          | [] => c
          | x :: xs => { c with jobs := { x with phobos := true } :: xs }
        some (s.modGroup g fun x => { x with chans := modAt x.chans ch take }))

/-! ### Queues, phases, barriers, wake words -/

/-- QUEUE_OP_PERFORMED (R105, R323): the group's oldest q0 operation reaches its queue. -/
def execQueueOpPerformed (g : GRef) (s : State) : Host.Outcome State Fault Refusal :=
  orStay s (match s.wg? g.wg, s.group? g with
    | some w, some grp =>
      match grp.q0q.find? (!·.arrived) with
      | none => none
      | some o =>
        if w.out || !grp.performedBefore o.id then none
        else
          let here (x : Group) : Group :=
            { x with q0q := upd (fun (y : QOp) => y.id == o.id) (fun y => { y with arrived := true }) x.q0q }
          some ((s.modGroup g here).qArrive g { o with arrived := true }).wakeAll.drainOutside
    | _, _ => none)

/-- The group of a core that waits in an open of value v and may enter a phase: none while another of the core is in one. -/
def State.opener (s : State) (w : Workgroup) (v : W64) (core : Nat) (me : GRef) : Option GRef :=
  let here := s.wgs.filter fun (x : Workgroup) => x.core == (⟨w.core.die, core⟩ : CoreId) && !x.out
  if s.phaseOn ⟨w.core.die, core⟩ then none
  else if w.core.core == core then some me
  else
    (here.filter fun x => x.lid == w.lid && x.gang == w.gang).findSome? fun x =>
      (x.groups.find? fun y => y.waits.contains (.xeOpen v)).map (refOf x)

/-- PHASE_OPEN_COMPLETE (R324): every core of the mask has opened with an equal value; all leave the open together. An invalid open that
waited for another phase of its core to close starts its own. -/
def execPhaseOpenComplete (g : GRef) (s : State) : Host.Outcome State Fault Refusal :=
  orStay s (match s.wg? g.wg, s.group? g with
    | some w, some grp =>
      match grp.waits.findSome? fun x => match x with
        | .xeOpen v => some v
        | _ => none with
      | none => none
      | some v =>
        if w.out then none
        else
          let valid := s.openValid w (fld v 0 24)
          let mask := if valid then fld v 0 24 else 2 ^ w.core.core
          let ms := (maskCores mask).map fun c => (s.opener w v c g).map (c, ·)
          if ms.all Option.isSome then some (s.startPhase w.core.die mask (ms.filterMap id) !valid) else none
    | _, _ => none)

/-- PHASE_TIMEOUT (R328): 65,536 phase cycles have passed. -/
def execPhaseTimeout (g : GRef) (s : State) : Host.Outcome State Fault Refusal :=
  orStay s (match (s.group? g).bind (·.phase) with
    | some (pid, n) =>
      match s.phase? pid with
      | some p => if n < 65536 || p.broken then none else some (s.breakPhase pid)
      | none => none
    | none => none)

/-- BARRIER_ARRIVAL_PERFORMED (R346). -/
def execBarrierArrivalPerformed (g : GRef) (s : State) : Host.Outcome State Fault Refusal :=
  orStay s (match s.wg? g.wg, s.group? g with
    | some w, some grp =>
      match grp.waits.findSome? fun x => match x with
        | .barArrive c n stay ord => some (c, n, stay, ord)
        | _ => none with
      | none => none
      | some (cluster, n, stay, ord) =>
        match s.barAt g cluster with
        | none => none
        | some b =>
          match (s.bars b)[n]? with
          | none => none
          | some bar =>
            if w.out || !bar.valid || bar.rem == 0 || !grp.performedBefore ord then none
            else
              let left := (grp.dropWaits (· == .barArrive cluster n stay ord)).settleFences (s.acqHeld g)
              let grp := if stay then left.addWait (.barPhase cluster n bar.phase ord)
                else left.sySet (if bar.phase then 1 else 0)
              some (((s.setGroup g grp).modBar b n fun x => { x with rem := x.rem - 1 }).releaseBar b cluster n).wakeAll.drainOutside
    | _, _ => none)

/-- WAIT_TIMEOUT (R348). -/
def execWaitTimeout (g : GRef) (s : State) : Host.Outcome State Fault Refusal :=
  let late (x : Wait) : Bool := match x with
    | .wake _ _ _ _ (some d) _ => decide (d ≤ s.time)
    | _ => false
  orStay s (match s.wg? g.wg, s.group? g with
    | some w, some grp =>
      if w.out || !grp.waits.any late then none else some (s.setGroup g ((grp.dropWaits late).sySet 1))
    | _, _ => none)

/-! ### The matrix engine -/

/-- The workgroup whose command the engine of a core executes. -/
def State.mxOf (s : State) (c : CoreId) : Option Workgroup :=
  s.wgs.find? fun w => w.core == c && !w.out && !w.retired && w.nest.active

/-- Does a pre-emption keep the next command of a workgroup from starting: a READY one, while a RUNNING one completes (R388)? -/
def Workgroup.engineHeld (w : Workgroup) : Bool := w.preempt && w.nest.running.isNone

/-- MX_COMMAND_START (R104, R359, R388): the oldest command of the core that waits for the engine. -/
def execMxCommandStart (wg : Nat) (s : State) : Host.Outcome State Fault Refusal :=
  orStay s (match s.wg? wg with
    | none => none
    | some w =>
      match w.nest.next with
      | none => none
      | some c =>
        let earlier := s.wgs.any fun (x : Workgroup) => x.core == w.core && x.wid != wg && !x.out && !x.retired && !x.engineHeld &&
          match x.nest.next with
          | some d => d.order < c.order
          | none => false
        let ordered := match w.group? c.byGroup with
          | some g => g.performedBefore c.ord
          | none => true
        if w.out || w.retired || w.engineHeld || (s.mxOf w.core).isSome || earlier || !ordered then none
        else some (s.modNest wg fun n => { n.promote with active := true, steps := 0, began := s.clock }))

/-- Has the command of an engine run for 2^22 cycles (R384)? The engine then stops it and does nothing else. -/
def State.overtime (s : State) (w : Workgroup) : Bool := decide (2 ^ 22 ≤ cyclesSince s.clock w.nest.began)

/-- MX_STEP (R371 to R373, R379): a step waits for a bank that is being zeroed. -/
def execMxStep (c : CoreId) (ue : Bool) (s : State) : Host.Outcome State Fault Refusal :=
  orStay s (match s.mxOf c with
    | none => none
    | some w =>
      match w.nest.running with
      | none => none
      | some d =>
        let bank := stepWindow d.words (stepIdx d.words w.nest.steps) / 4
        if stepCount d.words ≤ w.nest.steps || w.nest.zeroing.contains bank || s.overtime w then none
        else some ((s.noteStep w d.words).mxDoStep w.wid ue))

/-- MX_COMMAND_COMPLETE (R360, R377): the slot is FREE, the next command runs, and waits that are over end. A READY command does not run
when the workgroup is asked to leave (R388), or when a reset waits, which discards it (R379, log 70). -/
def execMxCommandComplete (c : CoreId) (s : State) : Host.Outcome State Fault Refusal :=
  orStay s (match s.mxOf c with
    | none => none
    | some w =>
      match w.nest.running with
      | none => none
      | some d =>
        if w.nest.steps < stepCount d.words || s.overtime w then none
        else
          let stays := w.preempt || w.groups.any fun g => g.waits.contains .mxReset
          let withRest (n : Nest) : Nest :=
            let n : Nest := { n with doneSeq := d.seq, slots := upd (·.st == .running) (fun x => { x with st := .free }) n.slots }
            (if stays then n else n.promote).reopen
          let s := s.modNest w.wid withRest
          some ((s.modNest w.wid fun n => { n with active := false, steps := 0 }).settleMx w.wid))

/-- MX_OVERTIME (R384): the engine stops a command that has run for 2^22 cycles. -/
def execMxOvertime (c : CoreId) (s : State) : Host.Outcome State Fault Refusal :=
  orStay s (match s.mxOf c with
    | none => none
    | some w =>
      match w.nest.running with
      | none => none
      | some d =>
        if !s.overtime w then none
        else some (s.mxFault w.wid (stepIdx d.words w.nest.steps) ⟨4, 7, false, 0, 0, 0, 0⟩))

/-- MX_BANK_ZEROED (R379). -/
def execMxBankZeroed (wg bank : Nat) (s : State) : Host.Outcome State Fault Refusal :=
  orStay s (match s.wg? wg with
    | none => none
    | some w =>
      if w.nest.zeroing.contains bank then
        some (s.modWg wg fun w =>
          { w with accum := drop (fun x => x.1 / 65536 == bank) w.accum,
                   accumBad := drop (fun x => x / 65536 == bank) w.accumBad, nest := { w.nest with zeroing := drop (· == bank) w.nest.zeroing } })
      else none)

end Sys2Proof.Machine
end

