-- ==== Sys2Proof/Machine/FrontEnd.lean ====
section
/-!
DEFINITION. FrontEnd: reading and checking a head record (R175 to R181, R443), and ranking the dies (R185).
-/

namespace Sys2Proof.Machine

/-! ### What stops a head record (R181) -/

/-- ERR codes (R181). -/
inductive Refuse where
  | format | shape | fit | code | hash | args | access | mode | ring | stale
  deriving DecidableEq, Repr

/-- Their numbers. -/
def Refuse.err (r : Refuse) : Nat :=
  match r with
  | .format => 0x01
  | .shape => 0x02
  | .fit => 0x03
  | .code => 0x04
  | .hash => 0x05
  | .args => 0x06
  | .access => 0x07
  | .mode => 0x08
  | .ring => 0x09
  | .stale => 0x0A

/-! ### Reads through a context's tables by the front end -/

/-- The leaf of an address of the general region, or for a read of the code window, that a context's tables map and allow, its
accessed bit set; or the code of the fault that stops the access (R18, R44). -/
def State.frontLeaf (s : State) (ctx va : Nat) (write : Bool) : Except Nat (Leaf × State) :=
  let top := bits va 48 8
  if isHole va then .error fcHole
  else if !(top ≤ 0xEF || (top == 0xFC && !write)) then .error fcWindowKind
  else
    match walk s none ctx va with
    | (.fault c, _) => .error c
    | (.leaf level _ e, s) =>
      let l : Leaf := ⟨level, e⟩
      match s.leafFault ctx l va (if write then .store else .load) with
      | some c => .error c
      | none => .ok (l, (s.learnLeaf ctx l).setAM ioDie ctx va write)

/-- Why the front end does not go on with a head record: a check that fails (R181), a fault of a read, with its address, or a read
that a commit under way holds (R128). -/
inductive FrontStop where
  | refuse (e : Refuse)
  | fault (code va : Nat)
  | held
  deriving DecidableEq, Repr

/-- Read n 8-byte words from an 8-byte aligned address up. -/
def State.frontWords (ctx : Nat) : (n va : Nat) → State → Except FrontStop (List W64 × State)
  | 0, _, s => .ok ([], s)
  | n + 1, va, s =>
    match s.frontLeaf ctx va false with
    | .error c => .error (.fault c va)
    | .ok (l, s) =>
      if s.readHeld none (l.pa va) then .error .held
      else (State.frontWords ctx n (va + 8) s).map fun (ws, s) => (w64 (bytesNat (s.readPhys none ctx (l.pa va) 8)) :: ws, s)

/-! ### The record (R177) -/

/-- The fields of a record's sixteen words. -/
def recordOf (ws : List W64) : LaunchRec :=
  let f (k lo n : Nat) : Nat := fld (ws[k]?.getD 0) lo n
  let b (k i : Nat) : Bool := f k i 1 == 1
  { ntxn := b 0 16, policy := b 0 17, retry := f 0 18 3, persist := b 0 21, armed := b 0 22, rearm := b 0 23,
    consume := b 0 24, overlap := b 0 25, flushH := b 0 26, divTrap := b 0 27, txStall := f 0 32 16, width := f 0 48 2,
    groups := f 0 50 4, vregs8 := f 0 56 8, gang := f 1 0 8, accum := f 1 8 2, nbar := f 1 16 5, ncbar := f 1 24 6,
    stagger := f 1 32 12, dieMask := f 1 44 4, priv := f 1 48 8, armCmp := f 1 56 2, scratch := f 2 0 32,
    argSize := f 2 32 32, gridX := f 3 0 32, gridY := f 3 32 16, gridZ := f 3 48 16, code := ws[4]?.getD 0,
    entry := f 5 0 32, waitKind := f 5 32 2, waitStream := f 5 40 8, args := ws[6]?.getD 0, doneWord := ws[7]?.getD 0,
    waitSeq := f 8 0 32, waitAddr := ws[9]?.getD 0, armAddr := ws[10]?.getD 0, armVal := ws[11]?.getD 0 }

/-- FORMAT: the format number, reserved fields, WAITKIND. -/
def formatBad (ws : List W64) : Bool :=
  let f (k lo n : Nat) : Nat := fld (ws[k]?.getD 0) lo n
  f 0 0 16 != 1 || f 0 28 4 != 0 || f 0 54 2 != 0 || f 1 10 6 != 0 || f 1 21 3 != 0 || f 1 30 2 != 0 || f 1 58 6 != 0 ||
    f 5 34 6 != 0 || f 5 48 16 != 0 || f 8 32 32 != 0 || (ws.drop 12).any (· != 0) || f 5 32 2 == 3

/-- Workgroups of a launch. -/
def LaunchRec.count (r : LaunchRec) : Nat := r.gridX * r.gridY * r.gridZ

/-- SHAPE. -/
def LaunchRec.shapeBad (r : LaunchRec) : Bool :=
  r.vregs8 == 0 || 32 < r.vregs8 || r.gang == 1 || 24 < r.gang || r.accum == 3 || 16 < r.nbar || 32 < r.ncbar ||
    (r.ncbar != 0 && r.gang == 0) || 128 < r.priv || r.count == 0 || 2 ^ 32 < r.count ||
    (r.gang != 0 && r.count % r.gang != 0)

/-- MODE. -/
def LaunchRec.modeBad (r : LaunchRec) : Bool := (r.persist && !r.ntxn) || ((r.rearm || r.consume) && !r.armed)

/-- STALE: WAITSEQ lies 256 or more sequences behind the RDIDX of its stream; fewer than 2^31 count as behind (log 71). -/
def LaunchRec.stale (r : LaunchRec) (rdIdx : Nat) : Bool :=
  let d := (rdIdx + 2 ^ 32 - r.waitSeq) % 2 ^ 32
  r.waitKind == 2 && 256 ≤ d && d < 2 ^ 31

/-! ### The code object (R180, R443) -/

/-- The device code hash by STEP; a stepping without a published value reports that of the last one. -/
def codeHash (_step : Nat) : W64 × W64 := (0x6F1D2A930C45B7E8, 0x91A03C5ED7224B16)

/-- CODE lies in the code window, 128-byte aligned, and ENTRY is a multiple of 4. -/
def LaunchRec.codeBad (r : LaunchRec) : Bool :=
  fld r.code 56 8 != 0 || fld r.code 48 8 != 0xFC || fld r.code 40 8 != 0 || r.code.toNat % 128 != 0 || r.entry % 4 != 0

/-- The header's fields are valid and ENTRY lies in the text. -/
def headerBad (r : LaunchRec) (ws : List W64) : Bool :=
  let f (k lo n : Nat) : Nat := fld (ws[k]?.getD 0) lo n
  let qcount := f 5 0 8
  let depths := (List.range (min 32 qcount)).map fun q => f (6 + q / 8) (q % 8 * 8) 8
  f 0 0 16 != 1 || f 0 32 32 % 4 != 0 || f 0 32 32 < 4 || f 3 0 32 % 128 != 0 || f 3 0 32 < 128 || 32 < qcount ||
    depths.any (fun d => d < 2 || 64 < d) || f 0 32 32 ≤ r.entry

/-- What the front end keeps of a header. -/
def headerOf (ws : List W64) : CodeHdr :=
  let f (k lo n : Nat) : Nat := fld (ws[k]?.getD 0) lo n
  { textLen := f 0 32 32, textOff := f 3 0 32, qdepths := (List.range (f 5 0 8)).map fun q => f (6 + q / 8) (q % 8 * 8) 8,
    userVa := 0, affinity := [] }

/-! ### The argument block (R179) -/

/-- ARGSIZE and the alignment of ARGS. -/
def LaunchRec.argsBad (r : LaunchRec) : Bool :=
  (r.argSize != 0 && (r.argSize % 8 != 0 || r.argSize < 16 || 4096 < r.argSize)) || r.args.toNat % 8 != 0

/-- Read words 0 and 1 and the affinity entries, and then check the block's contents. Entries that lie outside the block are not
read. -/
def State.readArgs (s : State) (ctx : Nat) (r : LaunchRec) : Except FrontStop (W64 × List (W64 × Nat) × State) :=
  if r.argSize == 0 then .ok (0, [], s)
  else
    match State.frontWords ctx 2 r.args.toNat s with
    | .error e => .error e
    | .ok (ws, s) =>
      let w0 := ws[0]?.getD 0
      let n := fld w0 0 8
      if 8 < n || r.argSize < 16 + 16 * n then .error (.refuse .args)
      else
        match State.frontWords ctx (2 * n) (r.args.toNat + 16) s with
        | .error e => .error e
        | .ok (es, s) =>
          if fld w0 8 24 != 0 || ws[1]?.getD 0 != 0 || r.argSize < 16 + 16 * n + fld w0 32 32 then .error (.refuse .args)
          else
            let aff := (List.range n).map fun i => (es[2 * i]?.getD 0, (es[2 * i + 1]?.getD 0).toNat)
            .ok (r.args + w64 (16 + 16 * n), aff, s)

/-! ### Words a record names (R181 item 8) -/

/-- A word on a D page, 8-byte aligned, writable when asked. -/
def State.wordOk (s : State) (ctx : Nat) (va : W64) (write : Bool) : Except FrontStop Unit :=
  if va.toNat % 8 != 0 then .error (.refuse .access)
  else
    match s.frontLeaf ctx va.toNat write with
    | .error c => .error (.fault c va.toNat)
    | .ok (l, _) => if l.t then .error (.refuse .access) else .ok ()

/-- DONEWORD, and WAITADDR and ARMADDR where the record uses them. -/
def State.wordsOk (s : State) (ctx : Nat) (r : LaunchRec) : Except FrontStop Unit :=
  (s.wordOk ctx r.doneWord true).bind fun _ =>
    (if r.waitKind == 1 then s.wordOk ctx r.waitAddr false else .ok ()).bind fun _ =>
      if r.armed then s.wordOk ctx r.armAddr r.consume else .ok ()

/-! ### Placement on a core (R187, R188) -/

/-- A group's place: slot, group entry, first row, first column. -/
structure GroupPlace where
  slot : Nat
  entry : Nat
  row : Nat
  col : Nat
  deriving DecidableEq, Repr

/-- What a core holds of one group: its launch and place, rows of its band, and its width. -/
structure Held where
  lid : Nat
  at_ : GroupPlace
  rows : Nat
  width : Nat
  deriving DecidableEq, Repr

/-- Entries of a slot that are taken. -/
def heldEntries (hs : List Held) (slot : Nat) : List Nat := (hs.filter fun h => h.at_.slot == slot).map (·.at_.entry)

/-- Is a run of rows of a slot free? -/
def rowsFree (hs : List Held) (slot row rows : Nat) : Bool :=
  hs.all fun h => h.at_.slot != slot || row + rows ≤ h.at_.row || h.at_.row + h.rows ≤ row

/-- The lowest free column range of a band. -/
def freeColumn (hs : List Held) (slot row width : Nat) : Option Nat :=
  let used := (hs.filter fun h => h.at_.slot == slot && h.at_.row == row).map (·.at_.col)
  ((List.range (64 / width)).map (· * width)).find? fun c => !used.contains c

/-- Place one group: in an existing band of the launch, or in a new one. `free` gives an entry that a slot can hand out. -/
def placeGroup (hs : List Held) (lid rows width : Nat) (free : List Held → Nat → Option Nat) : Option GroupPlace :=
  let bands := sortBy (fun (x : Nat × Nat) => x.1 * 1024 + x.2) ((hs.filter (·.lid == lid)).map fun h => (h.at_.slot, h.at_.row))
  let inBand := bands.findSome? fun (slot, row) =>
    match freeColumn hs slot row width, free hs slot with
    | some col, some entry => some (⟨slot, entry, row, col⟩ : GroupPlace)
    | _, _ => none
  let newBand :=
    (sortBy (fun n => (heldEntries hs n).length * 4 + n) (List.range Config.slotsPerCore)).findSome? fun slot =>
      let row := ((List.range (Config.rowsPerSlot / 8)).map (· * 8)).find? fun r =>
        r + rows ≤ Config.rowsPerSlot && rowsFree hs slot r rows
      match row, free hs slot with
      | some row, some entry => some (⟨slot, entry, row, 0⟩ : GroupPlace)
      | _, _ => none
  inBand.or newBand

/-- Place the groups of a workgroup in ascending index. -/
def placeGroups (lid rows width : Nat) (free : List Held → Nat → Option Nat) : (n : Nat) → List Held → Option (List GroupPlace)
  | 0, _ => some []
  | n + 1, hs =>
    match placeGroup hs lid rows width free with
    | none => none
    | some p => (placeGroups lid rows width free n (hs ++ [⟨lid, p, rows, width⟩])).map (p :: ·)

/-- The lowest free entry of a slot when nothing but the core's own groups holds one. -/
def lowestEntry (hs : List Held) (slot : Nat) : Option Nat :=
  (List.range Config.entriesPerSlot).find? fun e => !(heldEntries hs slot).contains e

/-- FIT: one workgroup fits an empty core, and its gang the allowed dies' cores. -/
def fits (r : LaunchRec) (h : CodeHdr) : Bool :=
  (placeGroups 0 (8 * r.vregs8) (widthOf r.width) lowestEntry (r.groups + 1) []).isSome &&
    roundUp r.scratch 2048 ≤ Config.scratchBytes && h.qdepths.length ≤ 64 && r.nbar ≤ 16

/-! ### The whole check (R181) -/

/-- Check a record at an address of a context, in order. -/
def State.checkRecord (s : State) (ctx va : Nat) : Except FrontStop (Head × State) :=
  match State.frontWords ctx 16 va s with
  | .error e => .error e
  | .ok (ws, s) =>
    let r := recordOf ws
    if formatBad ws then .error (.refuse .format)
    else if r.shapeBad then .error (.refuse .shape)
    else if r.modeBad then .error (.refuse .mode)
    else if r.stale (s.strm r.waitStream).rdIdx then .error (.refuse .stale)
    else if r.codeBad then .error (.refuse .code)
    else
      match State.frontWords ctx 16 r.code.toNat s with
      | .error e => .error e
      | .ok (hs, s) =>
        if headerBad r hs then .error (.refuse .code)
        else if (hs[1]?.getD 0, hs[2]?.getD 0) != codeHash s.plat.step then .error (.refuse .hash)
        else if r.argsBad then .error (.refuse .args)
        else
          match s.readArgs ctx r with
          | .error e => .error e
          | .ok (user, aff, s) =>
            let h := { headerOf hs with userVa := user, affinity := aff }
            match s.wordsOk ctx r with
            | .error e => .error e
            | .ok _ => if !fits r h then .error (.refuse .fit) else .ok ({ lrec := r, hdr := h, prev := none }, s)

/-- Halt a stream with a refusal code (R181). -/
def State.haltStream (s : State) (n : Nat) (e : Refuse) : State :=
  (s.modStrm n fun x => { x with st := .halted, err := e.err, head := none, absent := none }).irq (.streamHalted n)

/-- A stream's head record is not started: a page in the host-attached tier is brought in first, for FAULTLIMIT µs (R45, R181);
any other fault is ACCESS, and Phobos logs it (R44). None while the page is awaited. -/
def State.stopHead (s : State) (n : Nat) (e : FrontStop) : Option State :=
  match e with
  | .refuse e => some (s.haltStream n e)
  | .held => none
  | .fault c va =>
    let x := s.strm n
    if c != fcNotResident then some ((s.logFault x.ctx va c).haltStream n .access)
    else
      match x.absent with
      | some (at_, since) =>
        if at_ != va then some (s.modStrm n fun x => { x with absent := some (va, s.time) })
        else if s.time < since + (s.ctx x.ctx).faultLimit * 1000 then none
        else some (s.haltStream n .access)
      | none => some (s.modStrm n fun x => { x with absent := some (va, s.time) })

/-- The front end looks at a stream's ring and reads its head record (R175, R176, R181, R445). A fault of the write-index word ends as
one of the record does (log 71). None when there is nothing to read. -/
def State.readHead (s : State) (n : Nat) : Option State :=
  let x := s.strm n
  if !x.en || x.st == .halted || x.head.isSome then none
  else if x.ringLog2 < 4 || 15 < x.ringLog2 || x.ringVa.toNat % 128 != 0 then some (s.haltStream n .ring)
  else if !(s.ctx x.ctx).en then some (s.haltStream n .access)
  else
    match s.frontLeaf x.ctx x.wridxVa.toNat false with
    | .error c => s.stopHead n (.fault c x.wridxVa.toNat)
    | .ok (l, s') =>
      let pa := l.pa x.wridxVa.toNat
      let w := fld (w64 (bytesNat (s'.readPhys none x.ctx pa 8))) 0 32
      -- the write that advanced the index is a release (R110)
      if w == x.rdIdx || s'.unreleased pa 8 || s'.readHeld none pa then none
      else
        match s'.checkRecord x.ctx (x.ringVa.toNat + x.rdIdx % 2 ^ x.ringLog2 * 128) with
        | .error e => s'.stopHead n e
        | .ok (h, s) => some (s.modStrm n fun x => { x with st := .active, head := some h, absent := none })

/-! ### Ranking the dies (R185) -/

/-- Sample addresses of an affinity entry: 16 of them AFFLEN/16 apart, rounded down, or every 64 KiB part when there are fewer: AFFVA
itself, and the start of each part after it (log 71). -/
def samples (va : W64) (len : Nat) : List Nat :=
  let first := va.toNat / 65536
  let parts := if len == 0 then 0 else (va.toNat + len - 1) / 65536 + 1 - first
  if 16 ≤ parts then (List.range 16).map fun i => va.toNat + i * (len / 16)
  else (List.range parts).map fun i => if i == 0 then va.toNat else (first + i) * 65536

/-- Dies that hold a usable copy of the part of a sample, its home among them. -/
def State.sampleDies (s : State) (ctx va : Nat) : List Nat :=
  match s.frontLeaf ctx va false with
  | .error _ => []
  | .ok (l, _) =>
    if paClass (l.pa va) != 0 then []
    else
      let n := partOf (l.pa va)
      (List.range Config.numDies).filter fun d => d == s.homeDie n || (s.part n).usable d

/-- Does DIEMASK allow a die (R177)? -/
def LaunchRec.allows (r : LaunchRec) (d : Nat) : Bool := r.dieMask == 0 || bit r.dieMask d

/-- The dies that DIEMASK allows, by descending score and then ascending number. -/
def State.rankDies (s : State) (ctx : Nat) (r : LaunchRec) (h : CodeHdr) : List Nat :=
  let hits := (h.affinity.flatMap fun (va, len) => samples va len).flatMap (s.sampleDies ctx)
  let score (d : Nat) : Nat := (hits.filter (· == d)).length
  let allowed := (List.range Config.numDies).filter r.allows
  sortBy (fun d => (2 ^ 20 - score d) * 4 + d) allowed

end Sys2Proof.Machine
end

