-- ==== Sys2Proof/Machine/Place.lean ====
section
/-!
DEFINITION. Place: room on a core, creating a workgroup (R20, R143, R144, R186 to R190), requests for pre-emption (R195,
R196, R343), and when a workgroup has stopped (R401).
-/

namespace Sys2Proof.Machine

/-! ### Room (R51, R187, R188) -/

/-- The workgroups that hold a core's resources. -/
def State.residents (s : State) (c : CoreId) : List Workgroup := s.wgs.filter fun w => w.core == c && !w.out && !w.retired

/-- What a core's groups hold. -/
def State.heldOn (s : State) (c : CoreId) : List Held :=
  (s.residents c).flatMap fun w => w.groups.map fun g =>
    { lid := w.lid, at_ := ⟨g.slot, g.entry, g.row, g.col⟩, rows := g.vregCount, width := g.width }

/-- Is an identity held: by a living group, or by covered operations of a group that is gone (R143, R159)? -/
def State.identHeld (s : State) (ident : Nat) : Bool :=
  (s.holder? ident).isSome || s.covOps.any fun o => o.ref.ident == ident

/-- The lowest entry of a slot for a new group of a context: free, and with an identity that nobody holds. -/
def State.newEntryOn (s : State) (ctx : Nat) (c : CoreId) (hs : List Held) (slot : Nat) : Option Nat :=
  (List.range Config.entriesPerSlot).find? fun e =>
    !(heldEntries hs slot).contains e && !s.identHeld (identOf s.plat.devNum ctx c.die c.core slot e)

/-- What a workgroup is given. -/
structure Room where
  groups : List GroupPlace
  scratchBase : Nat
  banks : List Nat
  deriving DecidableEq, Repr

/-- Lowest 2 KiB boundary with room for a scratchpad allocation. -/
def scratchPlace (ws : List Workgroup) (size : Nat) : Option Nat :=
  let n := roundUp size 2048
  let ends := ws.map fun w => w.scratchBase + w.scratchSize
  let ok (b : Nat) : Bool := b + n ≤ Config.scratchBytes &&
    ws.all fun w => w.scratchSize == 0 || b + n ≤ w.scratchBase || w.scratchBase + w.scratchSize ≤ b
  (sortBy id (0 :: ends)).find? ok

/-- Has a core room for a workgroup of a launch (R187)? -/
def State.roomOn (s : State) (c : CoreId) (l : Launch) (free : List Held → Nat → Option Nat) : Option Room :=
  let ws := s.residents c
  let r := l.lrec
  let banks := [0, 1].filter fun b => !ws.any fun w => w.accumBanks.contains b
  let queues := ws.foldl (fun n w => n + w.queues.length) 0
  let bars := ws.foldl (fun n w => n + w.bars.length) 0
  if banks.length < r.accum || 64 < queues + l.hdr.qdepths.length || 16 < bars + r.nbar then none
  else
    match placeGroups l.lid (8 * r.vregs8) (widthOf r.width) free (r.groups + 1) (s.heldOn c), scratchPlace ws r.scratch with
    | some gs, some b => some { groups := gs, scratchBase := b, banks := banks.take r.accum }
    | _, _ => none

/-- Free private segment numbers of a context, the lowest n (R20). -/
def State.freeSegs (s : State) (ctx n : Nat) : Option (List Nat) :=
  let used := (s.wgs.filter fun w => w.ctx == ctx).flatMap fun w => w.groups.map (·.seg)
  let free := ((List.range (min 8192 (used.length + n))).filter fun x => !used.contains x).take n
  if free.length < n then none else some free

/-- Priority of a launch: that of its stream, 0 the highest. -/
def State.prioOf (s : State) (l : Launch) : Nat := (s.strm l.stream).prio

/-- May the scheduler itself choose a workgroup for pre-emption (R197)? -/
def State.movable (s : State) (w : Workgroup) : Bool :=
  !w.out && !w.retired && !w.preempt && match s.launch? w.lid with
    | some l => !l.lrec.persist
    | none => false

/-- Priority of a workgroup. -/
def State.wgPrio (s : State) (w : Workgroup) : Nat :=
  match s.launch? w.lid with
  | some l => s.prioOf l
  | none => 3

/-- Does any workgroup of a launch wait for a core: one that is not created, having found none, or one that is switched out? -/
def State.waiting (s : State) (l : Launch) : Bool :=
  (l.waitSince.isSome && l.phase == .running && l.nextWg < l.lrec.count) || s.wgs.any fun w => w.lid == l.lid && w.out

/-- Since when a context has waited for a core at a launch's priority; its own last turn starts it again (R196). -/
def State.waitsSince (s : State) (l : Launch) : Nat :=
  (s.launches.filter fun m => m.ctx == l.ctx && s.prioOf m == s.prioOf l && s.waiting m).foldl
    (fun n m => min n (m.waitSince.getD s.time)) s.time

/-- The workgroups of its priority or a lower one that a launch could take the place of on a core gone. -/
def State.cleared (s : State) (c : CoreId) (l : Launch) : State :=
  { s with wgs := s.wgs.filter fun w => !(w.core == c && (s.movable w || w.preempt) && s.prioOf l ≤ s.wgPrio w) }

/-- Could a launch without gangs use a core, once workgroups that may be pre-empted for it have gone? -/
def State.couldUse (s : State) (c : CoreId) (l : Launch) : Bool :=
  l.lrec.allows c.die && ((s.cleared c l).roomOn c l lowestEntry).isSome

/-- Does a launch m have a core before a launch l: is it of a higher priority, or of a context of the same priority that has waited
longer (R196, log 67)? Gangs reserve their cores instead (R189). -/
def State.goesBefore (s : State) (c : CoreId) (l m : Launch) : Bool :=
  m.lid != l.lid && m.lrec.gang == 0 && s.waiting m &&
    (s.prioOf m < s.prioOf l || (s.prioOf m == s.prioOf l && m.ctx != l.ctx && s.waitsSince m < s.waitsSince l)) && s.couldUse c m

/-- May a launch be given a core: does no reservation for a gang keep it off (R189), and has nothing that waits the core before it? The
gang that holds a reservation gives way to a higher priority alone: to those of its own its cores are closed (R198). -/
def State.coreOpen (s : State) (c : CoreId) (l : Launch) : Bool :=
  match (s.core c).reservedFor with
  | none => !s.launches.any (s.goesBefore c l)
  | some lid =>
    if lid == l.lid then !s.launches.any fun m => s.prioOf m < s.prioOf l && s.goesBefore c l m
    else
      (match s.launch? lid with
       | some m => s.prioOf l < s.prioOf m
       | none => true) && !s.launches.any (s.goesBefore c l)

/-- A launch's context has had its turn: what else it has waiting at that priority waits from now on. -/
def State.turnTaken (s : State) (lid : Nat) : State :=
  match s.launch? lid with
  | none => s
  | some l =>
    let same (m : Launch) : Bool := m.ctx == l.ctx && s.prioOf m == s.prioOf l
    { s with launches := upd same (fun (m : Launch) => { m with waitSince := none }) s.launches }

/-- Has STAGGER passed since a workgroup of the launch last started on a core (R186)? -/
def Launch.staggerOk (l : Launch) (c : CoreId) (clock : Nat) : Bool :=
  match l.starts.find? fun (x : CoreId × Nat) => x.1 == c with
  | some (_, t) => l.lrec.stagger ≤ cyclesSince clock t
  | none => true

/-- Cluster barriers of a die in use: those of a gang that is switched out stand in its image (R344, R406). -/
def State.cbarsUsed (s : State) (d : Nat) : Nat :=
  let here (g : Gang) : Bool := g.die == d && s.wgs.any fun w => w.lid == g.lid && w.gang == some g.num && !w.out && !w.retired
  (s.gangs.filter here).foldl (fun n g => n + g.bars.length) 0

/-- Has a die n free cluster barriers (R189)? It has 32, the most one gang may ask for, and possibly more (log 30). -/
def State.cbarsFree (s : State) (d n : Nat) : Bool :=
  n == 0 || s.cbarsUsed d + n ≤ 32 || s.cbarsUsed d + n ≤ 32 + Config.freeClusterBars

/-! ### Creation (R190) -/

/-- A barrier at creation (R344). -/
def Barrier.new : Barrier := { valid := false, n := 0, rem := 0, bytes := 0, phase := false }

/-- A lane at creation: v0 and the generator take its index within the workgroup (R190, R258). -/
def newLane (vregs index : Nat) : Lane where
  vregs := setAt (List.replicate vregs 0) 0 (w32 index)
  vfull := List.replicate vregs true
  vbad := []
  opnd := List.replicate 34 0
  res := List.replicate 19 0
  gen := seedState 0 index
  regionGen := 0

/-- A group at creation, with its place, segment, identity and next serial. -/
def newGroup (l : Launch) (c : CoreId) (gi member : Nat) (xyz : Nat × Nat × Nat) (p : GroupPlace) (seg ident ser : Nat) :
    Group where
  gi := gi
  slot := p.slot
  entry := p.entry
  col := p.col
  row := p.row
  seg := seg
  ended := false
  pc := l.textBase + w64 l.lrec.entry
  sregs := [l.hdr.userVa, w64 xyz.1, w64 xyz.2.1, w64 xyz.2.2, w64 gi, w64 member, w64 (c.core + 32 * c.die), w64 l.retries] ++
    List.replicate 56 0
  kregs := fullMask (widthOf l.lrec.width) :: List.replicate 15 0
  sbad := []
  kbad := []
  mj := []
  ras := []
  spilled := 0
  loop := LoopState.off
  check := 0
  latches := noLatches
  il := false
  handler := false
  promoted := false
  waited := 0
  draining := false
  pad := 0
  target := none
  padPc := 0
  padLen := 0
  trapPad := none
  endDue := false
  lanes := (List.range (widthOf l.lrec.width)).map fun k => newLane (8 * l.lrec.vregs8) (gi * widthOf l.lrec.width + k)
  staged := []
  x0cnt := 3
  ldr := []
  amr := []
  q0r := []
  deferred := []
  rbPend := []
  varPend := []
  amrbFull := fullMask 64
  cpFull := fullMask 64
  mxFull := fullMask 64
  xeFull := fullMask 64
  ldq := []
  stq := []
  amq := []
  cpq := []
  q0q := []
  ord := 1
  shapes := List.replicate 4 Shape.zero
  chans := List.replicate 4 Channel.empty
  nextBatch := 1
  batches := []
  segCount := 0
  segSig := 0
  region := none
  xeIdle := false
  xeBroken := false
  xeUnmatched := 0
  phase := none
  ident := ident
  nextSer := ser
  tracked := []
  waits := []
  pend := []
  held := []
  heldNext := 0
  lastRec := none
  dbgReq := none
  stopped := false
  sampledAt := 0
  issues := 0

/-- Create workgroup number `num` of a launch on a core (R178, R190). -/
def State.createWg (s : State) (l : Launch) (num : Nat) (c : CoreId) (r : Room) (segs : List Nat) : State :=
  let member := if l.lrec.gang == 0 then 0 else num % l.lrec.gang
  let xyz := (num % l.lrec.gridX, num / l.lrec.gridX % l.lrec.gridY, num / l.lrec.gridX / l.lrec.gridY)
  let ident (p : GroupPlace) : Nat := identOf s.plat.devNum l.ctx c.die c.core p.slot p.entry
  let groups := (List.range (l.lrec.groups + 1)).map fun gi =>
    let p := r.groups[gi]?.getD ⟨0, 0, 0, 0⟩
    -- the notices that the identity still owes are this group's from now on (R151)
    { newGroup l c gi member xyz p (segs[gi]?.getD 0) (ident p) ((s.ctx l.ctx).serial (identPos (ident p))) with
      tracked := s.trackedOf (ident p) }
  let q (d : Nat) : Queue := { valid := false, base := 0, depth := d, head := 0, tail := 0, waiting := [] }
  let w : Workgroup :=
    { wid := s.nextWid, lid := l.lid, ctx := l.ctx, num := num, core := c,
      gang := if l.lrec.gang == 0 then none else some (num / l.lrec.gang), member := member, created := s.nextWid,
      residentSince := s.time, scratchSize := roundUp l.lrec.scratch 2048, scratchBase := r.scratchBase, scratch := [], scratchBad := [],
      accumBanks := r.banks, accum := [], accumBad := [], queues := l.hdr.qdepths.map q, bars := List.replicate l.lrec.nbar Barrier.new,
      nest := Nest.new, groups := groups, out := false, preempt := false, saveFrom := none, retired := false }
  let s : State := { s with
    wgs := s.wgs ++ [w]
    nextWid := s.nextWid + 1
    dieTracked := drop (fun (x : Nat × Tracked) => groups.any fun g => g.ident == x.1) s.dieTracked }
  (s.modLaunch l.lid fun x =>
    { x with nextWg := x.nextWg + 1, starts := drop (fun (y : CoreId × Nat) => y.1 == c) x.starts ++ [(c, s.clock)] }).turnTaken l.lid

/-! ### Reservations (R189) -/

/-- End a launch's reservation of cores. -/
def State.unreserve (s : State) (lid : Nat) : State :=
  { s with cores := s.cores.map fun (c : Core) => if c.reservedFor == some lid then { c with reservedFor := none } else c }

/-- Register rows that a core's workgroups of equal or lower priority hold. -/
def State.rowsHeld (s : State) (c : CoreId) (l : Launch) : Nat :=
  let ok (lid : Nat) : Bool := match s.launch? lid with
    | some m => s.prioOf l ≤ s.prioOf m
    | none => true
  let hs := (s.heldOn c).filter fun h => ok h.lid
  (dedup (hs.map fun h => h.at_.slot * 1024 + h.at_.row)).foldl (fun n key =>
    match hs.find? fun h => h.at_.slot * 1024 + h.at_.row == key with
    | some h => n + h.rows
    | none => n) 0

/-- Reserve n cores of the first ranked die for a gang. Cores that are reserved for another gang are left out, nothing is reserved when
fewer than n are left, and of cores with equally many rows the lowest c comes first (log 71). -/
def State.reserve (s : State) (l : Launch) (n : Nat) : State :=
  match l.rank with
  | [] => s
  | d :: _ =>
    let free := (coresOf d).filter fun c => (s.core c).reservedFor.isNone
    let cs := (sortBy (fun c => s.rowsHeld c l * 32 + c.core) free).take n
    if cs.length < n then s
    else
      (cs.foldl (fun s c => s.modCore c fun k => { k with reservedFor := some l.lid }) s).modLaunch l.lid fun x =>
        { x with reservedAt := some s.time }

/-! ### Pre-emption (R195, R196, R343) -/

/-- The members of a workgroup's gang, or the workgroup alone. -/
def State.together (s : State) (w : Workgroup) : List Workgroup :=
  if w.gang.isNone then [w] else s.wgs.filter fun x => x.lid == w.lid && x.gang == w.gang

/-- Request the pre-emption of a workgroup, and of its gang's members with it. -/
def State.requestPreempt (s : State) (w : Workgroup) : State :=
  (s.together w).foldl (fun s x =>
    if x.out || x.retired || x.preempt then s
    else
      -- the requester slots' outstanding operations drain (R153, R157)
      let mine (o : CovOp) : Bool := o.st == .sent && x.groups.any fun g => g.ident == o.ref.ident
      let s := { s with covOps := upd mine (fun (o : CovOp) => { o with st := .draining }) s.covOps }
      s.modWg x.wid fun y => { y with preempt := true, saveFrom := none, groups := y.groups.map fun g => ({ g with draining := true } : Group).drain }) s

/-- A workgroup of a launch fits nowhere: the lowest-priority, most recently created one below its priority on its ranked dies
has to go (R196). -/
def State.preemptFor (s : State) (l : Launch) : Option State :=
  let below := s.wgs.filter fun w => l.rank.contains w.core.die && s.movable w && s.prioOf l < s.wgPrio w
  let underway := s.wgs.any fun w => l.rank.contains w.core.die && w.preempt && !w.out
  if underway then none
  else (minBy (fun w => (3 - s.wgPrio w) * 2 ^ 40 + (2 ^ 40 - 1 - w.created)) below).map s.requestPreempt

/-- A workgroup of a launch, or a gang, fits nowhere: it waits from now on, and the scheduler pre-empts for it (R196). -/
def State.waitTurn (s : State) (l : Launch) : State :=
  let t := s.modLaunch l.lid fun x => { x with waitSince := x.waitSince.or (some s.time) }
  (t.preemptFor l).getD t

/-! ### When a workgroup has stopped (R195, R401) -/

/-- Is a piece outstanding as a covered operation of the group? -/
def State.coveredOut (s : State) (r : PieceRef) : Bool :=
  s.covOps.any fun o => match o.body with
    | .access p _ => p == r
    | _ => false

/-- Has every piece of a lane come to an end, or not been sent, or is it recorded as a covered operation (R157, R401)? -/
def State.laneSettled (s : State) (g : GRef) (q : QSel) (id : Nat) (o : LaneOp) : Bool :=
  ((List.range o.pieces.length).zip o.pieces).all fun (i, p) =>
    p.done || !p.sent || s.coveredOut { g := g, q := q, id := id, lane := o.lane, piece := i }

/-- Has every access that was sent come to an end, or is it recorded as a covered operation? -/
def State.sentSettled (s : State) (r : GRef) (g : Group) : Bool :=
  let unsent (o : LaneOp) : Bool := !o.done && o.pieces.all fun p => !p.done && !p.sent
  (g.ldq.all fun e => e.lanes.all fun o => o.landed || unsent o) &&
    (g.stq.all fun e => e.lanes.all fun o => o.done || s.laneSettled r .st e.id o) &&
    (g.amq.all fun e => e.lanes.all fun o =>
      (if o.done then o.landed || (match e.op with
        | .atomic a => !a.returns
        | _ => true) else s.laneSettled r .am e.id o)) &&
    (g.varPend.all fun x => x.ask.isSome && g.syncHeld x.id)

/-- Has the workgroup come to a stop, everything it sent settled? -/
def State.settledStop (s : State) (w : Workgroup) : Bool :=
  w.nest.running.isNone && w.groups.all fun g => w.atStop g && s.sentSettled (refOf w g) g

/-- Outstanding covered operations of a workgroup's groups. -/
def State.covOut (s : State) (w : Workgroup) : Bool := s.covOps.any fun o => w.groups.any fun g => g.ident == o.ref.ident

/-- May the workgroup be switched out now? The members of a gang leave together: each waits until every one of them has
stopped (R195). -/
def State.canSave (s : State) (w : Workgroup) : Bool :=
  w.preempt && !w.out && !w.retired && (s.together w).all fun x => x.out || x.retired || s.settledStop x

end Sys2Proof.Machine
end

