-- ==== Sys2Proof/Machine/Image.lean ====
section
/-!
DEFINITION. Image: the bytes of a saved workgroup's image (R403 to R406), its seals (R401), and what a debugger writes at
those offsets (R407). A section whose contents the manual names without a layout is filled with free values (log 19).
-/

namespace Sys2Proof.Machine

/-! ### Sections -/

/-- A section of n words. -/
def sect (n : Nat) (ws : List W64) : List W64 := ws.take n ++ List.replicate (n - ws.length) 0

/-- A section of n words whose layout the manual leaves open (log 19). -/
def openSect (draw off n : Nat) : List W64 := (List.range n).map fun i => Config.imageWord draw (off + 8 * i)

/-- Words of 32-bit registers, two to a word. -/
def pairUp : List W32 → List W64
  | a :: b :: rest => pair a b :: pairUp rest
  | [a] => [pair a 0]
  | [] => []

/-- Words of an entry of the mark-join stack (R336). -/
def MJEntry.words (e : MJEntry) : List W64 :=
  let kind := match e.kind with
    | .rejoin => 0
    | .pending => 1
    | .callJoin => 2
    | .callPend => 3
  [e.mask, w64 (e.addr.toNat + kind * 2 ^ 32)]

/-- An entry of the mark-join stack from its words. -/
def mjOf (w0 w1 : W64) : MJEntry :=
  let kind := match fld w1 32 2 with
    | 0 => MJKind.rejoin
    | 1 => .pending
    | 2 => .callJoin
    | _ => .callPend
  ⟨kind, lo32 w1, w0⟩

/-- The 36 places of queued result entries: ld.r 16, am.r 16, q0.r 4, oldest first (R403). -/
def Group.entrySlots (g : Group) : List (Option REntry) :=
  let places (n : Nat) (es : List REntry) := (List.range n).map fun i => es[i]?
  places 16 g.ldr ++ places 16 g.amr ++ places 4 g.q0r

/-! ### The group part -/

/-- Accesses that an image records as unperformed: fences, queue entries with a lane that has not been sent, copies of which no element has
been moved, seals and batch waits, and queue operations that have not been sent (R401, R404). Covered operations that were sent, copies in
progress and operations that wait at their queue are recorded elsewhere (R157, R318, R323). -/
def Group.unperformed (g : Group) : Nat :=
  let begun (x : CpHold) : Bool := match x with
    | .copy t => g.chans.any fun c => c.jobs.any fun j => j.trig == t && j.next != 0
    | .seal _ | .wait _ => false
  let open_ (e : MemEntry) : Bool := e.op.isFence || e.lanes.any fun o => !o.landed && o.pieces.any fun p => !p.done && !p.sent
  (g.ldq.filter open_).length + (g.stq.filter open_).length + (g.amq.filter open_).length +
    (g.cpq.filter fun x => !begun x).length + (g.q0q.filter fun o => !o.arrived).length

/-- Bytes of a group part. -/
def Group.imageBytes (g : Group) : Nat := 0x2000 + g.width * 0x1000

/-- The header of a group part, its seal given (R404). -/
def imageHeader (s : State) (l : Launch) (g : Group) (crc : Nat) : List W64 :=
  let r : Region := g.region.getD
    { pc := 0, k := [], loop := ⟨false, 0, 0, 0, 0, 0, 0, 0⟩, latches := [], mjDepth := 0, rasDepth := 0, segCount := 0, segSig := 0 }
  let cov := (s.covOps.filter fun o => o.ref.ident == g.ident).length
  [ w64 (1 + l.lrec.width * 2 ^ 16 + l.lrec.vregs8 * 2 ^ 24 + g.imageBytes * 2 ^ 32),
    w64 crc,
    w64 ((g.resumeAt l).toNat + g.pad * 2 ^ 32 + b2n g.il * 2 ^ 36 + b2n g.handler * 2 ^ 37 + min 3 g.x0cnt * 2 ^ 38),
    w64 (g.segCount % 2 ^ 32 + g.segSig.toNat * 2 ^ 32),
    w64 (g.loop.s0 + g.loop.len * 2 ^ 32 + g.loop.stages * 2 ^ 56 + b2n g.loop.active * 2 ^ 60),
    w64 (g.loop.n + g.loop.b * 2 ^ 32),
    w64 (g.loop.u + g.loop.j * 2 ^ 32),
    g.check,
    w64 (r.pc.toNat + r.segCount % 2 ^ 32 * 2 ^ 32),
    w64 (r.segSig.toNat + r.mjDepth * 2 ^ 32 + r.rasDepth * 2 ^ 38),
    w64 (g.nextBatch % 2 ^ 32 + g.batches.length * 2 ^ 32),
    g.xeFlags,
    w64 (g.nextSer + s.watermark g.ident * 2 ^ 16 + cov * 2 ^ 32 + g.staged.length * 2 ^ 37 + g.unperformed * 2 ^ 43),
    w64 (g.rasAll + g.ras.length * 2 ^ 11 + g.mj.length * 2 ^ 16) ]

/-- What follows the header up to the lane blocks: 992 words (R403). -/
def imageBody (g : Group) (draw : Nat) : List W64 :=
  sect 64 g.sregs ++ sect 16 g.kregs ++ sect 16 (g.latches.flatMap latchWords) ++
  sect 64 (g.mj.reverse.flatMap (·.words)) ++ sect 16 (g.ras.reverse.map (·.word)) ++
  sect 16 (g.shapes.flatMap fun x => [x.a, x.b, x.c, x.d]) ++ openSect draw 0x700 32 ++ openSect draw 0x800 64 ++
  sect 80 (g.entrySlots.flatMap fun e => match e with
    | some e => [e.full, e.poison]
    | none => [0, 0]) ++
  openSect draw 0xC80 256 ++ openSect draw 0x1480 128 ++ openSect draw 0x1880 8 ++
  sect 232 (match g.region with
    | some r => sect 16 r.k ++ r.latches.flatMap latchWords
    | none => [])

/-- The block of a lane: 512 words (R405). -/
def laneBlock (g : Group) (l : Nat) (x : Lane) : List W64 :=
  let bits32 (k : Nat) : W64 :=
    w64 ((List.range 64).foldl (fun n i => n + b2n (x.vfull[64 * k + i]?.getD false) * 2 ^ i) 0)
  let at_ (vs : Option (List W64)) : W64 := (vs.bind fun vs => vs[l]?).getD 0
  sect 128 (pairUp x.vregs) ++ sect 4 ((List.range 4).map bits32) ++ sect 4 [x.gen, x.regionGen] ++ sect 36 x.opnd ++ sect 20 x.res ++
  sect 64 (g.staged.flatMap fun e => [at_ e.r, at_ e.rb]) ++
  sect 256 (g.entrySlots.map fun e => at_ (e.map (·.vals)))

/-- The group part, its seal included (R401, R403, R404): the CRC-32C of the part with the field as 0. -/
def groupImage (s : State) (l : Launch) (g : Group) (draw : Nat) : List W64 :=
  let rest := imageBody g draw ++ ((List.range g.width).zip g.lanes).flatMap fun (i, x) => laneBlock g i x
  sect 32 (imageHeader s l g (crc32c (wordsBytes (sect 32 (imageHeader s l g 0) ++ rest)))) ++ rest

/-! ### The workgroup part (R406) -/

/-- Bytes of a workgroup part. -/
def Workgroup.imageBytes (w : Workgroup) : Nat := 0x1000 + w.accumBanks.length * 0x40000 + w.scratchSize

/-- The header of a workgroup part: SCRATCH and ACCUM follow in words 2 and 3 (log 19). -/
def wgImageHeader (w : Workgroup) (l : Launch) (crc : Nat) : List W64 :=
  [w64 (1 + w.imageBytes * 2 ^ 32), w64 crc, w64 l.lrec.scratch, w64 w.accumBanks.length]

/-- The values under the keys below n, zero where none is listed. -/
def spread {α : Type} [OfNat α 0] (n : Nat) (m : List (Nat × α)) : List α :=
  (m.foldl (fun (a : Array α) c => a.setIfInBounds c.1 c.2) (Array.replicate n 0)).toList

/-- Words of bytes, eight to a word. -/
def wordsOf (n : Nat) (bs : List Byte) : List W64 :=
  ((List.range n).foldl (fun (x : List Byte × List W64) _ => (x.1.drop 8, w64 (bytesNat (x.1.take 8)) :: x.2)) (bs, [])).2.reverse

/-- The workgroup part. The cluster barriers are gang member 0's to write (R406). -/
def workgroupImage (w : Workgroup) (l : Launch) (draw : Nat) : List W64 :=
  let accum := pairUp (spread (w.accumBanks.length * 0x10000) w.accum)
  let scratch := wordsOf (w.scratchSize / 8) (spread w.scratchSize w.scratch)
  let rest := openSect draw 0x100100 96 ++ (if w.gang.isSome && w.member == 0 then openSect draw 0x100400 64 else List.replicate 64 0) ++
    openSect draw 0x100600 64 ++ openSect draw 0x100800 64 ++ List.replicate 192 0 ++ accum ++ scratch
  sect 32 (wgImageHeader w l (crc32c (wordsBytes (sect 32 (wgImageHeader w l 0) ++ rest)))) ++ rest

/-! ### Writing an image -/

/-- A page of an area that cannot be reached: whose, its offset, the code. -/
structure ImageFault where
  who : Who
  off : Nat
  code : Nat
  deriving DecidableEq, Repr

/-- Reach, growing where needed, n pages of a group area from an offset; the first that cannot be reached. -/
def State.reachPages (s : State) (w : Who) (off : Nat) : (n : Nat) → Option ImageFault × State
  | 0 => (none, s)
  | n + 1 =>
    match s.groupArea w off true with
    | (.ok _, s) => State.reachPages s w (off + 65536) n
    | (.error c, s) => (some ⟨w, off, c⟩, s)

/-- Write words into a reached page: zeros first, then the words that are not 0. -/
def State.putWords (s : State) (ctx pa : Nat) : List W64 → State
  | [] => s
  | v :: vs => State.putWords (if v == 0 then s else s.writeWord ctx pa v) ctx (pa + 8) vs

/-- Write an image part of n pages from an offset of a group area. -/
def State.putImage (s : State) (w : Who) (off : Nat) (ws : List W64) : (n : Nat) → State
  | 0 => s
  | n + 1 =>
    match s.groupArea w off true with
    | (.ok pa, s) =>
      let page := ws.take 8192
      State.putImage ((s.zeroPhys pa (8 * page.length)).putWords w.ctx pa page) w (off + 65536) (ws.drop 8192) n
    | (.error _, s) => s

/-- Pages of a number of bytes. -/
def pagesOf (bytes : Nat) : Nat := (bytes + 65535) / 65536

/-- The lowest-numbered group of a workgroup, in whose area the workgroup part lies (R21). -/
def Workgroup.firstGroup (w : Workgroup) : Option Group := minBy (·.gi) w.groups

/-- The areas of a workgroup's image: whose, the offset, the number of pages. -/
def State.imageAreas (s : State) (w : Workgroup) : List (Who × Nat × Nat) :=
  w.groups.filterMap (fun g => (s.who? (refOf w g)).map fun x => (x, 0x10000, pagesOf g.imageBytes)) ++
    (w.firstGroup.bind fun g => (s.who? (refOf w g)).map fun x => (x, 0x100000, pagesOf w.imageBytes)).toList

/-- Reach every page of the image. -/
def State.reachImage (s : State) : List (Who × Nat × Nat) → Option ImageFault × State
  | [] => (none, s)
  | (w, off, n) :: rest =>
    match s.reachPages w off n with
    | (none, s) => State.reachImage s rest
    | (some f, s) => (some f, s)

/-- Does a line of n pages from an offset of a group area report an uncorrectable error? -/
def State.badPages (s : State) (w : Who) (off : Nat) : (n : Nat) → Bool
  | 0 => false
  | n + 1 =>
    (match s.groupArea w off false with
      | (.ok pa, _) => s.badLines.any fun b => pa ≤ b * 128 && b * 128 < pa + 65536
      | (.error _, _) => false) || State.badPages s w (off + 65536) n

/-- Does the image of a workgroup report one (R402)? -/
def State.imageBad (s : State) (w : Workgroup) : Bool :=
  !s.badLines.isEmpty && (s.imageAreas w).any fun (x, off, n) => s.badPages x off n

/-- Write the image of a workgroup that has stopped: its group parts in order, and the workgroup part (R401 step 4). -/
def State.writeImage (s : State) (w : Workgroup) (l : Launch) : State :=
  let draw := s.draws
  let s := { s with draws := s.draws + 1 }
  let s := w.groups.foldl (fun s g => match s.who? (refOf w g) with
    | some x => s.putImage x 0x10000 (groupImage s l g draw) (pagesOf g.imageBytes)
    | none => s) s
  match w.firstGroup.bind fun g => s.who? (refOf w g) with
  | some x => s.putImage x 0x100000 (workgroupImage w l draw) (pagesOf w.imageBytes)
  | none => s

/-- A page of the image is not at hand: the core stops until Phobos has served it (R45); given up, or not to be had, the workgroup
ends as it does when a trap's area fails (log 34). -/
def State.imageFails (s : State) (w : Workgroup) (f : ImageFault) : Option State :=
  let resume : W32 := match w.group? f.who.g.gi, s.launch? w.lid with
    | some g, some l => g.resumeAt l
    | _, _ => 0
  let gone (s : State) (c : Nat) : State :=
    let (now, s) := s.sampleTime
    s.doubleFault f.who.g { precise 0x07 c 7 with pc := resume, addr := w64 (groupVa f.off), time := now } resume
  if f.code == fcPoolEmpty || f.code == fcNotResident then
    match s.expiredFw f.who none with
    | some c => some (gone (s.clearFw f.who none) c)
    | none =>
      if (s.core w.core).fw.any fun (x : FwFault) => x.g == f.who.g && x.chan.isNone then none
      else some (s.stopCore f.who f.code (groupVa f.off) 0 none)
  else some (gone s f.code)

/-! ### What a debugger writes (R407) -/

/-- Replace a half of a word. -/
def putHalf (w : W64) (hi : Bool) (v : W32) : W64 := if hi then pair (lo32 w) v else pair v (hi32 w)

/-- Change word i of a list of words. -/
def pokeWord (ws : List W64) (i : Nat) (hi : Bool) (v : W32) : List W64 := modAt ws i fun w => putHalf w hi v

/-- The hold latches with a half word of their format replaced. -/
def pokeLatches (ls : List (Option Latch)) (i : Nat) (hi : Bool) (v : W32) : List (Option Latch) :=
  modAt ls (i / 2) fun x =>
    let ws := pokeWord (latchWords x) (i % 2) hi v
    latchOf (ws[0]?.getD 0) (ws[1]?.getD 0)

/-- A value written to a lane of a queued result: an empty lane of ld.r is full from then on. -/
def Group.pokeEntry (g : Group) (l slot : Nat) (f : REntry → REntry) : Group :=
  if slot < 16 then { g with ldr := modAt g.ldr slot fun e => let e := f e; { e with full := e.full ||| maskOf g.width (· == l) } }
  else if slot < 32 then { g with amr := modAt g.amr (slot - 16) f }
  else { g with q0r := modAt g.q0r (slot - 32) f }

/-- A half word written to the block of a lane, at offset q of it (R405). -/
def Group.pokeLane (g : Group) (l q : Nat) (v : W32) : Group :=
  let i := q / 8
  let hi := q % 8 == 4
  if q < 0x400 then if q / 4 < g.vregCount then g.writeV l (q / 4) v else g
  else if q < 0x420 then
    let first := 8 * (q - 0x400)
    let full (n : Nat) : Bool := v.getLsbD (n - first)
    let mine (n : Nat) : Bool := first ≤ n && n < first + 32
    { (g.modLane l fun x => { x with
        vfull := ((List.range x.vfull.length).zip x.vfull).map fun (n, b) => if mine n then full n else b }) with
      deferred := drop (fun (d : Deferred) => d.lane == l && mine d.reg && full d.reg) g.deferred }
  else if q < 0x428 then g.modLane l fun x => { x with gen := putHalf x.gen hi v }
  else if q < 0x430 then g.modLane l fun x => { x with regionGen := putHalf x.regionGen hi v }
  else if 0x440 ≤ q && q < 0x550 then g.modLane l fun x => { x with opnd := pokeWord x.opnd (i - 0x88) hi v }
  else if 0x560 ≤ q && q < 0x5F8 then g.modLane l fun x => { x with res := pokeWord x.res (i - 0xAC) hi v }
  else if 0x600 ≤ q && q < 0x800 then
    let second := (i - 0xC0) % 2 == 1
    { g with staged := modAt g.staged ((i - 0xC0) / 2) fun e =>
        if second then { e with rb := e.rb.map fun vs => pokeWord vs l hi v } else { e with r := e.r.map fun vs => pokeWord vs l hi v } }
  else if 0x800 ≤ q && q < 0x920 then g.pokeEntry l (i - 0x100) fun e => { e with vals := pokeWord e.vals l hi v }
  else g

/-- A half word written at an offset of the group area (R403). Where the manual gives no layout, nothing is written (log 54). -/
def Group.poke (g : Group) (off : Nat) (v : W32) : Group :=
  let o := off - 0x10000
  let i := o / 8
  let hi := o % 8 == 4
  let trim (m : Mask) : Mask := m &&& fullMask g.width
  if off < 0x10100 || off % 4 != 0 then g
  else if o < 0x300 then g.setS (i - 0x20) (putHalf (g.s (i - 0x20)) hi v)
  else if o < 0x380 then g.setK (i - 0x60) (putHalf (g.k (i - 0x60)) hi v)
  else if o < 0x3E0 then { g with latches := pokeLatches g.latches (i - 0x70) hi v }
  else if 0x400 ≤ o && o < 0x600 then
    let up (e : MJEntry) : MJEntry :=
      let ws := pokeWord e.words (i % 2) hi v
      mjOf (ws[0]?.getD 0) (ws[1]?.getD 0)
    { g with mj := (modAt g.mj.reverse ((i - 0x80) / 2) up).reverse }
  else if 0x600 ≤ o && o < 0x680 then { g with ras := (modAt g.ras.reverse (i - 0xC0) fun e => retOf (putHalf e.word hi v)).reverse }
  else if 0x680 ≤ o && o < 0x700 then
    { g with shapes := modAt g.shapes ((i - 0xD0) / 4) fun x =>
        match (i - 0xD0) % 4 with
        | 0 => { x with a := putHalf x.a hi v }
        | 1 => { x with b := putHalf x.b hi v }
        | 2 => { x with c := putHalf x.c hi v }
        | _ => { x with d := putHalf x.d hi v } }
  else if 0xA00 ≤ o && o < 0xC40 then
    let slot := (i - 0x140) / 2
    let f (e : REntry) : REntry := if i % 2 == 0 then { e with full := trim (putHalf e.full hi v) } else { e with poison := trim (putHalf e.poison hi v) }
    if slot < 16 then { g with ldr := modAt g.ldr slot f }
    else if slot < 32 then { g with amr := modAt g.amr (slot - 16) f }
    else { g with q0r := modAt g.q0r (slot - 32) f }
  else if 0x18C0 ≤ o && o < 0x1940 then { g with region := g.region.map fun r => { r with k := (pokeWord r.k (i - 0x318) hi v).map trim } }
  else if 0x1940 ≤ o && o < 0x19A0 then
    { g with region := g.region.map fun r => { r with latches := pokeLatches r.latches (i - 0x328) hi v } }
  else if 0x2000 ≤ o then g.pokeLane ((o - 0x2000) / 0x1000) ((o - 0x2000) % 0x1000) v
  else g

/-! ### Reading an image back (R402) -/

/-- The n-th word of an image part from an offset of a group area, as memory holds it; none where its page cannot be read. -/
def State.imageWordAt (s : State) (w : Who) (off n : Nat) : Option W64 :=
  match s.groupArea w (off + 8 * n / 65536 * 65536) false with
  | (.ok pa, s) => some (w64 (bytesNat (s.readPhys none w.ctx (pa + 8 * n % 65536) 8)))
  | (.error _, _) => none

/-- The words of an image part; a page that cannot be read gives zeros. -/
def State.imageWords (s : State) (w : Who) (off n : Nat) : List W64 := (List.range n).map fun i => (s.imageWordAt w off i).getD 0

/-- Does the seal of a part fit its bytes (R401, R404)? -/
def sealFits (ws : List W64) : Bool := lo32 (ws[1]?.getD 0) == w32 (crc32c (wordsBytes (setAt ws 1 (pair 0 (hi32 (ws[1]?.getD 0))))))

/-- Bytes of the parts of a workgroup's image: whose area, the offset, the length. -/
def State.imageParts (s : State) (w : Workgroup) : List (Who × Nat × Nat) :=
  w.groups.filterMap (fun g => (s.who? (refOf w g)).map fun x => (x, 0x10000, g.imageBytes)) ++
    (w.firstGroup.bind fun g => (s.who? (refOf w g)).map fun x => (x, 0x100000, w.imageBytes)).toList

/-- Does a seal of a workgroup's image not fit (R402)? -/
def State.sealBroken (s : State) (w : Workgroup) : Bool :=
  (s.imageParts w).any fun (x, off, bytes) => !sealFits (s.imageWords x off (bytes / 8))

/-- Put a word of a group part's header into the group (R404): what the header says of lists, it says once more. -/
def Group.putHeader (g : Group) (tb : W64) (i : Nat) (v : W64) : Group :=
  match i with
  | 2 =>
    let pc := tb + zx (lo32 v)
    { g with pc := if fld v 32 4 == 0 then pc else g.pc, target := if fld v 32 4 == 0 then none else some pc, pad := fld v 32 4,
             il := v.getLsbD 36, handler := v.getLsbD 37, x0cnt := fld v 38 2 }
  | 3 => { g with segCount := fld v 0 32, segSig := hi32 v }
  | 4 => { g with loop := { g.loop with s0 := fld v 0 32, len := fld v 32 24, stages := fld v 56 4, active := v.getLsbD 60 } }
  | 5 => { g with loop := { g.loop with n := fld v 0 32, b := fld v 32 32 } }
  | 6 => { g with loop := { g.loop with u := fld v 0 32, j := fld v 32 32 } }
  | 7 => { g with check := v }
  | 8 => { g with region := g.region.map fun r => { r with pc := lo32 v, segCount := fld v 32 32 } }
  | 9 => { g with region := g.region.map fun r => { r with segSig := lo32 v, mjDepth := fld v 32 6, rasDepth := fld v 38 11 } }
  | 10 => { g with nextBatch := fld v 0 32 }
  | 11 => { g with xeIdle := v.getLsbD 0, xeBroken := v.getLsbD 1, xeUnmatched := fld v 16 16 }
  | 12 => { g with nextSer := fld v 0 16 }
  | _ => g

/-- The words of a group part that have a layout, by index, as the group stands; the seal is none of them. -/
def Group.laidWords (s : State) (l : Launch) (g : Group) : List (Nat × W64) :=
  let ws := sect 32 (imageHeader s l g 0) ++ imageBody g 0 ++ ((List.range g.width).zip g.lanes).flatMap fun (i, x) => laneBlock g i x
  ((List.range ws.length).zip ws).filter fun (i, _) =>
    i != 1 && !(0xE0 ≤ i && i < 0x140) && !(0x190 ≤ i && i < 0x318)

/-- A group as its part of the image holds it: a word that is no longer what the device wrote is the group's from now on (R402). -/
def Group.readBack (s : State) (l : Launch) (w : Who) (g : Group) : Group :=
  (g.laidWords s l).foldl (fun x (i, kept) =>
    let v := (s.imageWordAt w 0x10000 i).getD kept
    if v == kept then x
    else if i < 32 then x.putHeader l.textBase i v
    else (x.poke (0x10000 + 8 * i) (lo32 v)).poke (0x10000 + 8 * i + 4) (hi32 v)) g

/-- A workgroup as its image holds it: groups, accumulators and scratchpad (R402, R406). -/
def State.readImage (s : State) (l : Launch) (w : Workgroup) : Workgroup :=
  let groups := w.groups.map fun g => match s.who? (refOf w g) with
    | some x => g.readBack s l x
    | none => g
  match w.firstGroup.bind fun g => s.who? (refOf w g) with
  | none => { w with groups := groups }
  | some x =>
    let n := w.accumBanks.length * 0x10000
    let acc := (List.range n).filterMap fun k =>
      let v := (s.imageWordAt x 0x101000 (k / 2)).getD 0
      let v := if k % 2 == 0 then lo32 v else hi32 v
      if v == 0 then none else some (k, v)
    let scratch := (List.range (w.scratchSize / 8)).foldl (fun (m : Memory) k =>
      m.writeNat (8 * k) 8 ((s.imageWordAt x (0x101000 + 4 * n) k).getD 0).toNat) []
    { w with groups := groups, accum := acc, scratch := scratch }

/-- What a debugger writes reaches a group that is stopped for it. -/
def Group.debugged (g : Group) (writes : List (Nat × W32)) : Group :=
  if g.waits.contains .debug then writes.foldl (fun g x => g.poke x.1 x.2) g else g

end Sys2Proof.Machine
end

