-- ==== Sys2Proof/Machine/EvLaunch.lean ====
section
/-!
DEFINITION. EvLaunch: streams, launch starts, workgroups created, retired, switched out and back, pre-emption (R175 to
R197, R400 to R402).
-/

namespace Sys2Proof.Machine

/-! ### Streams (R175, R176, R181) -/

/-- WRITE_INDEX_ADVANCE: the front end reads the head record that the write index exposes, and checks it. -/
def execWriteIndexAdvance (stream : Nat) (s : State) : Host.Outcome State Fault Refusal :=
  orStay s (if Config.numStreams ≤ stream then none else s.readHead stream)

/-- Is the head a REARM record: RDIDX passes it when the stream is disabled (R176)? -/
def Stream.rearmed (x : Stream) : Bool :=
  match x.head with
  | some h => h.lrec.rearm
  | none => false

/-- Write EN of a stream (R175, R183). -/
def State.enableStream (s : State) (n : Nat) (en : Bool) : State :=
  let x := s.strm n
  if en then if x.en then s else s.modStrm n fun x => { x with en := true, st := .idle, err := 0, absent := none }
  else
    s.modStrm n fun x =>
      { x with en := false, st := .idle, err := 0, head := none, absent := none,
               rdIdx := if x.rearmed then (x.rdIdx + 1) % 2 ^ 32 else x.rdIdx }

/-- STREAM_ENABLE: EN is written, and an enabled stream's ring is looked at. -/
def execStreamEnable (stream : Nat) (en : Bool) (s : State) : Host.Outcome State Fault Refusal :=
  orStay s (if Config.numStreams ≤ stream || !s.served then none
    else
      let s := s.enableStream stream en
      some ((s.readHead stream).getD s))

/-- Write 1 to RESUME: a halted stream retries its head record. -/
def State.resumeStream (s : State) (n : Nat) : State :=
  if (s.strm n).st != .halted then s
  else
    let s := s.modStrm n fun x => { x with st := .idle, err := 0, head := none }
    (s.readHead n).getD s

/-- STREAM_RESUME. -/
def execStreamResume (stream : Nat) (s : State) : Host.Outcome State Fault Refusal :=
  orStay s (if Config.numStreams ≤ stream || !s.served then none else some (s.resumeStream stream))

/-- Write 1 to SKIP: a halted stream passes its head record. -/
def State.skipStream (s : State) (n : Nat) : State :=
  if (s.strm n).st != .halted then s
  else s.modStrm n fun x => { x with st := .idle, err := 0, head := none, rdIdx := (x.rdIdx + 1) % 2 ^ 32 }

/-- STREAM_SKIP. -/
def execStreamSkip (stream : Nat) (s : State) : Host.Outcome State Fault Refusal :=
  orStay s (if Config.numStreams ≤ stream || !s.served then none else some (s.skipStream stream))

/-! ### Starting (R119, R127, R182 to R185) -/

/-- Has a launch ended, as the next one of its stream sees it? -/
def Launch.finished (l : Launch) : Bool :=
  match l.phase with
  | .ended | .ticketed | .committing | .committed | .done => true
  | .queued | .running | .aborting => false

/-- Condition 1 of R182. -/
def State.prevOk (s : State) (x : Stream) (r : LaunchRec) : Bool :=
  match x.last.bind s.launch? with
  | none => true
  | some l => l.finished || (r.overlap && l.lrec.count ≤ l.nextWg)

/-- The 8-byte word at an address of a context, as the front end compares it, and where it lies: the write it reads from is a release,
so none while that writer's earlier writes are outstanding (R110). -/
def State.frontWord (s : State) (ctx : Nat) (va : W64) : Option (W64 × Nat) :=
  match s.frontLeaf ctx va.toNat false with
  | .ok (l, s) =>
    let pa := l.pa va.toNat
    if s.unreleased pa 8 || s.readHeld none pa then none else some (w64 (bytesNat (s.readPhys none ctx pa 8)), pa)
  | .error _ => none

/-- Phobos logs a malformed entry or a wrong key that a read of a waiting record's word meets, once (R44). -/
def State.frontLog (s : State) (ctx : Nat) (va : W64) : Option State :=
  match s.frontLeaf ctx va.toNat false with
  | .ok _ => none
  | .error c =>
    let t := s.logFault ctx va.toNat c
    if t.log.length == s.log.length || s.log.contains (t.log.getLast?.getD .unsupported) then none else some t

/-- The same for a stream's head record. -/
def State.headLog (s : State) (x : Stream) (h : Head) : Option State := h.lrec.words.findSome? (s.frontLog x.ctx)

/-- Is a sequence one of the last 256 that a stream has read (R183), the head record's own among them? -/
def Stream.recent (x : Stream) (seq : Nat) : Bool := (x.rdIdx + 2 ^ 32 - seq) % 2 ^ 32 ≤ 256

/-- Final status of a sequence of a stream, when it is kept. -/
def State.finalStatus (s : State) (stream seq : Nat) : Option Nat :=
  let x := s.strm stream
  (x.statuses.find? fun (y : Nat × Nat) => y.1 == seq && x.recent seq).map (·.2)

/-- Condition 2 of R182. -/
def State.dependenceMet (s : State) (ctx : Nat) (r : LaunchRec) : Bool :=
  match r.waitKind with
  | 0 => true
  | 1 => match s.frontWord ctx r.waitAddr with
    | some (v, _) => v != 0
    | none => false
  | _ => match s.finalStatus r.waitStream r.waitSeq with
    | some st => st ≤ 1
    | none => false

/-- Is a version held (R119)? -/
def State.versionHeld (s : State) (ctx v : Nat) : Bool :=
  (s.launches.any fun l => l.ctx == ctx && !l.lrec.ntxn && l.version == v && l.phase != .queued && l.phase != .done) ||
    (s.overlays.any fun o => o.ctx == ctx && o.ver == v) ||
    (s.cores.any fun c => c.l1.any fun x => x.ctx == ctx && x.view == v) || s.l2.any fun x => x.ctx == ctx && x.view == v

/-- Condition 4 of R182. -/
def State.versionFree (s : State) (ctx : Nat) (r : LaunchRec) : Bool := r.ntxn || !s.versionHeld ctx (s.ctx ctx).nextVer

/-- The version after one, skipping 0. -/
def verAfter (v : Nat) : Nat := if (v + 1) % 2 ^ 16 == 0 then 1 else (v + 1) % 2 ^ 16

/-- A launch as it starts: its version and start cut are taken now (R119, R127). The dies are ranked once for each launch, at its
first attempt (R185). -/
def State.startLaunch (s : State) (l : Launch) : State :=
  let c := s.ctx l.ctx
  let l : Launch := { l with
    phase := .running, version := if l.lrec.ntxn then 0 else c.nextVer, ticket := none, endOrder := 0, startCut := c.cTicket,
    rank := if l.retries == 0 then s.rankDies l.ctx l.lrec l.hdr else l.rank, nextWg := 0, retired := 0, starts := [], status := none, prepared := [],
    released := [], reservedAt := none, waitSince := none, doneSince := none }
  let s := if l.lrec.ntxn then s else s.modCtx l.ctx fun c => { c with nextVer := verAfter c.nextVer }
  { s with launches := upsert (·.lid == l.lid) l (fun _ => l) s.launches }

/-- A new launch of a stream's head record. -/
def State.launchOfHead (s : State) (x : Stream) (h : Head) : Launch where
  lid := s.nextLid
  stream := x.num
  seq := x.rdIdx
  ctx := x.ctx
  lrec := h.lrec
  hdr := h.hdr
  phase := .queued
  retries := 0
  version := 0
  ticket := none
  endOrder := 0
  startCut := 0
  rank := []
  nextWg := 0
  retired := 0
  starts := []
  status := none
  prepared := []
  released := []
  reservedAt := none
  waitSince := none
  doneSince := none

/-- RDIDX passes a record that has started; a REARM record stays the head until its completion word is written. -/
def State.passHead (s : State) (n lid : Nat) : State :=
  let s : State := { s with nextLid := s.nextLid + 1 }
  s.modStrm n fun x =>
    match x.head with
    | some h =>
      if h.lrec.rearm then { x with last := some lid, head := some { h with prev := some lid } }
      else { x with last := some lid, head := none, st := .idle, rdIdx := (x.rdIdx + 1) % 2 ^ 32 }
    | none => x

/-- Has the previous firing of a REARM record had its completion word written (R184)? -/
def State.firingOver (s : State) (h : Head) : Bool :=
  match h.prev with
  | some lid => (s.launch? lid).isNone
  | none => true

/-- Every condition of R182 but the armed word. -/
def State.headReady (s : State) (x : Stream) (h : Head) : Bool :=
  x.en && x.st == .active && (s.ctx x.ctx).en && s.firingOver h && s.prevOk x h.lrec && s.dependenceMet x.ctx h.lrec &&
    s.versionFree x.ctx h.lrec

/-- An attempt of a stream that waits to be made again (R135). -/
def State.requeued (s : State) (stream : Nat) : Option Launch :=
  s.launches.find? fun l => l.stream == stream && l.phase == .queued && s.versionFree l.ctx l.lrec

/-- LAUNCH_START: a retry of the stream, or its head record when that is not armed. -/
def execLaunchStart (stream : Nat) (s : State) : Host.Outcome State Fault Refusal :=
  orStay s (match s.requeued stream with
    | some l => some (s.startLaunch l)
    | none =>
      let x := s.strm stream
      match x.head with
      | none => none
      | some h =>
        if h.lrec.armed || !s.headReady x h then s.headLog x h
        else some ((s.startLaunch (s.launchOfHead x h)).passHead stream s.nextLid))

/-- C of the page of an address (R62). -/
def State.frontC (s : State) (ctx : Nat) (va : W64) : Bool :=
  match s.frontLeaf ctx va.toNat false with
  | .ok (l, _) => l.c
  | .error _ => true

/-- ARMED_FIRE (R184): the armed word satisfies its comparison; with CONSUME the firing replaces the value it found by 0. -/
def execArmedFire (stream : Nat) (s : State) : Host.Outcome State Fault Refusal :=
  orStay s (
    let x := s.strm stream
    match x.head with
    | none => none
    | some h =>
      if !h.lrec.armed || !s.headReady x h then s.headLog x h
      else
        match s.frontWord x.ctx h.lrec.armAddr with
        | none => s.headLog x h
        | some (v, pa) =>
          if !(wakeCmpOf h.lrec.armCmp).holds v h.lrec.armVal then none
          else
            -- the firing's compare-and-swap is performed at the word's home (R61); one that is not performed fires nothing
            match if h.lrec.consume then (s.setAM ioDie x.ctx h.lrec.armAddr.toNat true).ownStore x.ctx pa (s.frontC x.ctx h.lrec.armAddr) 0
              else .done 0 0 false false s with
            | .wait s => some s
            | .done st _ _ _ s' => if st != 0 then none else some ((s'.startLaunch (s'.launchOfHead x h)).passHead stream s'.nextLid))

/-- Does the armed word of a record satisfy its comparison? -/
def State.armedNow (s : State) (ctx : Nat) (r : LaunchRec) : Bool :=
  match s.frontWord ctx r.armAddr with
  | some (v, _) => (wakeCmpOf r.armCmp).holds v r.armVal
  | none => false

/-- DEPENDENCE_ABORT (R136): the awaited launch ended otherwise than by a commit. The record takes no version and no ticket. A REARM
record stays the head, as after any firing (R176, R184), and such a firing needs its armed word to be satisfied (log 64). -/
def execDependenceAbort (stream : Nat) (s : State) : Host.Outcome State Fault Refusal :=
  orStay s (
    let x := s.strm stream
    match x.head with
    | none => none
    | some h =>
      match if h.lrec.waitKind == 2 then s.finalStatus h.lrec.waitStream h.lrec.waitSeq else none with
      | none => none
      | some st =>
        if st ≤ 1 || !x.en || x.st != .active || !s.firingOver h || (h.lrec.rearm && !s.armedNow x.ctx h.lrec) then none
        else
          let l : Launch := { s.launchOfHead x h with phase := .done, status := some 0x20 }
          some (({ s with launches := s.launches ++ [l] } : State).passHead stream s.nextLid))

/-! ### Creation and reservation (R186 to R190) -/

/-- May workgroups be given cores at all: the compute dies run? -/
def State.diesRun (s : State) : Bool := s.plat.released && !s.plat.halted

/-- The core of the first ranked die that takes a workgroup: most free entries, then the lowest number (R186). -/
def State.pickCore (s : State) (l : Launch) (dies : List Nat) (free : CoreId → List Held → Nat → Option Nat) : Option (CoreId × Room) :=
  dies.findSome? fun d =>
    let fit := (coresOf d).filterMap fun c => if s.coreOpen c l then (s.roomOn c l (free c)).map (c, ·) else none
    minBy (fun x => (s.heldOn x.1).length * 32 + x.1.core) fit

/-- The first ranked die that takes n members of a gang, with its cores ascending (R189). -/
def State.pickGang (s : State) (l : Launch) (n : Nat) (dies : List Nat) (free : CoreId → List Held → Nat → Option Nat) :
    Option (Nat × List (CoreId × Room)) :=
  dies.findSome? fun d =>
    let fit := (coresOf d).filterMap fun c => if s.coreOpen c l then (s.roomOn c l (free c)).map (c, ·) else none
    if n ≤ fit.length && s.cbarsFree d l.lrec.ncbar then some (d, fit.take n) else none

/-- Create the next workgroup of a launch without gangs. -/
def State.createNext (s : State) (l : Launch) : Option State :=
  match s.pickCore l l.rank (s.newEntryOn l.ctx) with
  | none => some (s.waitTurn l)
  | some (c, r) =>
    match s.freeSegs l.ctx (l.lrec.groups + 1) with
    | none => none
    | some segs => if l.staggerOk c s.clock then some (s.createWg l l.nextWg c r segs) else none

/-- Create the next gang of a launch: all members at once. -/
def State.createGang (s : State) (l : Launch) : Option State :=
  match s.pickGang l l.lrec.gang l.rank (s.newEntryOn l.ctx) with
  | none => some (if l.reservedAt.isSome then s.waitTurn l else (s.reserve l l.lrec.gang).waitTurn l)
  | some (d, cs) =>
    let n := l.lrec.groups + 1
    match s.freeSegs l.ctx (n * l.lrec.gang) with
    | none => none
    | some segs =>
      if !(cs.all fun x => l.staggerOk x.1 s.clock) then none
      else
        let gang : Gang :=
          { lid := l.lid, num := l.nextWg / l.lrec.gang, die := d, members := (List.range l.lrec.gang).map (s.nextWid + ·),
            bars := List.replicate l.lrec.ncbar Barrier.new }
        let s : State := { s with gangs := s.gangs ++ [gang] }
        let s := (List.range l.lrec.gang).foldl (fun (s : State) i =>
          match cs[i]? with
          | some (c, r) => s.createWg l (l.nextWg + i) c r ((segs.drop (n * i)).take n)
          | none => s) s
        some ((s.unreserve l.lid).modLaunch l.lid fun x => { x with reservedAt := none })

/-- WORKGROUP_CREATE: the next workgroup, or gang, of a running launch. -/
def execWorkgroupCreate (lid : Nat) (s : State) : Host.Outcome State Fault Refusal :=
  orStay s (match s.launch? lid with
    | none => none
    | some l =>
      if l.phase != .running || l.lrec.count ≤ l.nextWg || !s.diesRun then none
      else if l.lrec.gang == 0 then s.createNext l else s.createGang l)

/-- GANG_RESERVATION_TIMEOUT (R189): workgroups of equal or lower priority on the reserved cores have to go, all of them at once
(log 71). -/
def execGangReservationTimeout (lid : Nat) (s : State) : Host.Outcome State Fault Refusal :=
  orStay s (match s.launch? lid with
    | none => none
    | some l =>
      match l.reservedAt with
      | none => none
      | some t =>
        let hit (w : Workgroup) : Bool :=
          (s.core w.core).reservedFor == some lid && s.movable w && s.prioOf l ≤ s.wgPrio w
        if s.time < t + 100000 || !s.wgs.any hit then none
        else some ((s.wgs.filter hit).foldl (fun s w => s.requestPreempt w) s))

/-! ### Retirement and completion (R159, R191, R193) -/

/-- Have the workgroup's groups nothing left but local stores? -/
def State.canRetire (s : State) (w : Workgroup) : Bool :=
  let local_ (p : Piece) : Bool := p.done || match p.target with
    | .phys pa _ t _ => !s.isCovered w.core.die pa t true
    | .scratch _ _ => true
  !w.out && !w.retired && w.nest.pending == 0 && w.groups.all fun g =>
    g.ended && (g.amq.all fun e => e.lanes.all (·.done)) && g.q0q.all (·.done) && (g.chans.all fun c => c.jobs.isEmpty) &&
      (g.stq.all fun e => e.lanes.all fun o => o.done || o.pieces.all local_) &&
      !s.covOps.any fun o => o.ref.ident == g.ident

/-- A retired workgroup: what it owned is zero and free. -/
def Workgroup.retire (w : Workgroup) : Workgroup :=
  { w with
    scratchSize := 0, scratch := [], accumBanks := [], accum := [], queues := [], bars := [], nest := Nest.new,
    retired := true, groups := w.groups.map fun g => { g with ldq := [], amq := [], q0q := [], waits := [] } }

/-- WORKGROUP_RETIRE. -/
def execWorkgroupRetire (wg : Nat) (s : State) : Host.Outcome State Fault Refusal :=
  orStay s (match s.wg? wg with
    | none => none
    | some w =>
      if !s.canRetire w then none
      else
        let s := w.groups.foldl (fun s g =>
          ((s.sendNotices g.ident).setSerial w.ctx (identPos g.ident) g.nextSer).leavePhaseBroken ⟨wg, g.gi⟩) s
        let s := (s.modWg wg (·.retire)).modLaunch w.lid fun l => { l with retired := l.retired + 1 }
        let s := s.quitCore w.core wg
        some ((s.leaveCore w.ctx w.core).tidyRetired))

/-- Have all workgroups of a launch retired and all their stores been performed? -/
def State.workOver (s : State) (l : Launch) : Bool := l.lrec.count ≤ l.retired && !s.wgs.any fun w => w.lid == l.lid

/-- LAUNCH_COMPLETE (R193): a non-transactional launch is done; its completion word is written next. -/
def execLaunchComplete (lid : Nat) (s : State) : Host.Outcome State Fault Refusal :=
  orStay s (match s.launch? lid with
    | none => none
    | some l =>
      if !l.lrec.ntxn || l.phase != .running || !s.workOver l then none
      else some ((s.modLaunch lid fun l => { l with phase := .done, status := some 1 }).unreserve lid))

/-! ### Pre-emption (R195 to R197) -/

/-- Does work of another context of the same priority wait for the workgroup's core? -/
def State.othersWait (s : State) (w : Workgroup) : Bool :=
  s.launches.any fun m => m.ctx != w.ctx && s.prioOf m == s.wgPrio w && s.waiting m && s.couldUse w.core m

/-- TIME_SLICE_EXPIRY (R196): 100 µs of residency are over while others wait. -/
def execTimeSliceExpiry (wg : Nat) (s : State) : Host.Outcome State Fault Refusal :=
  orStay s (match s.wg? wg with
    | none => none
    | some w =>
      let due (x : Workgroup) : Bool := s.movable x && x.residentSince + 100000 ≤ s.time && s.wgPrio x == s.wgPrio w
      if !due w || !s.othersWait w then none
      else
        some ((s.wgs.filter fun x => x.core == w.core && x.ctx == w.ctx && due x).foldl (fun s x => s.requestPreempt x) s))

/-- DRIVER_PREEMPT (R196, R197): every workgroup of a context, with save or with kill. -/
def execDriverPreempt (ctx : Nat) (kill : Bool) (s : State) : Host.Outcome State Fault Refusal :=
  if kill then
    .next ((s.launches.filter fun l => l.ctx == ctx).foldl (fun s l => s.failLaunch l.lid 0x11) s)
  else .next ((s.wgs.filter fun w => w.ctx == ctx).foldl (fun s w => s.requestPreempt w) s)

/-! ### Switching out and back (R157, R158, R401, R402) -/

/-- The group as its image records it. -/
def Group.savedOut (g : Group) : Group := 
  { g.dropWaits (fun x => x == .translate || x == .missRoom) with stopped := false, promoted := false, waited := 0, draining := false }

/-- The workgroup leaves its core, its image written. -/
def State.switchOut (s : State) (w : Workgroup) : State :=
  let mine (o : CovOp) : Bool := w.groups.any fun g => g.ident == o.ref.ident
  let park (o : CovOp) : CovOp :=
    if mine o then { o with st := if o.st == .quiet then .quiet else .draining, firstSent := s.time - o.firstSent } else o
  let s := { s with covOps := s.covOps.map park }
  let s := s.quitCore w.core w.wid
  let s := (s.modWg w.wid fun w => { w with out := true, preempt := false, saveFrom := none, groups := w.groups.map (·.savedOut) }).leaveCore w.ctx w.core
  s.modLaunch w.lid fun l => { l with waitSince := l.waitSince.or (some s.time) }

/-- Covered operations of the workgroup, or of its gang, are outstanding: Phobos waits for them for up to 20 µs from now (R157). None
when it has waited, or need not. -/
def State.awaitCovered (s : State) (w : Workgroup) : Option (Option State) :=
  let all := s.together w
  if !all.any s.covOut then none
  else
    match w.saveFrom with
    | none => some (some (all.foldl (fun s x => s.modWg x.wid fun y => { y with saveFrom := some s.time }) s))
    | some t => if s.time < t + 20000 then some none else none

/-- WORKGROUP_SAVE: everything has stopped, and what it sent has come to an end or been waited for (R157); the image is written and the
workgroup leaves its core. -/
def execWorkgroupSave (wg : Nat) (s : State) : Host.Outcome State Fault Refusal :=
  orStay s (match s.wg? wg with
    | none => none
    | some w =>
      if !s.canSave w then none
      else
        match s.awaitCovered w with
        | some r => r
        | none =>
          match s.reachImage (s.imageAreas w), s.launch? w.lid with
          | (none, s), some l => some ((s.writeImage w l).switchOut w)
          | (some f, s), some _ => s.imageFails w f
          | _, none => none)

/-- The places of a restored workgroup's groups. -/
def placeAgain (gs : List Group) (ps : List GroupPlace) : List Group :=
  (gs.zip ps).map fun (g, p) => { g.interlock with slot := p.slot, entry := p.entry, row := p.row, col := p.col }

/-- Put a workgroup back on a core, as its image holds it: interlocked, its recorded operations sent again, its waits evaluated again. The interval to their next
retransmission is 32 µs, as after a first send (R152, R158, log 66). -/
def State.restoreWg (s : State) (l : Launch) (w : Workgroup) (c : CoreId) (r : Room) : State :=
  let t := s
  let s := s.modWg w.wid fun y =>
    let x := t.readImage l y
    { x with core := c, out := false, residentSince := s.time, scratchBase := r.scratchBase, accumBanks := r.banks,
             groups := placeAgain x.groups r.groups }
  let mine (o : CovOp) : Bool := w.groups.any fun g => g.ident == o.ref.ident
  let again := s.covOps.filter mine
  let resend (o : CovOp) : CovOp :=
    if mine o then
      { o with st := .sent, firstSent := s.time - o.firstSent, lastSent := s.time, interval := 32000, due := s.time + 32000,
               die := c.die }
    else o
  let s := { s with covOps := s.covOps.map resend }
  let s := again.foldl (fun s o => s.transmit o) s
  (s.wakeAll.settleMx w.wid).turnTaken w.lid

/-- An image that cannot be restored ends its launch (R402). -/
def State.restoreFails (s : State) (w : Workgroup) (l : Launch) (cause : Nat) : State :=
  let (now, s) := s.sampleTime
  let gi := match w.groups with
    | g :: _ => g.gi
    | [] => 0
  let t : TrapInfo := { precise 0x51 cause 7 with time := now }
  (s.report l.ctx (recordWords t l gi w.num 0)).failLaunch l.lid 0x17

/-- WORKGROUP_RESTORE: on a core with room, or the members of a gang that have not retired on the cores of one die. -/
def execWorkgroupRestore (wg : Nat) (c : CoreId) (check : RestoreCheck) (s : State) : Host.Outcome State Fault Refusal :=
  orStay s (match s.wg? wg with
    | none => none
    | some w =>
      match s.launch? w.lid with
      | none => none
      | some l =>
        let members := sortBy (·.member) ((s.together w).filter fun x => !x.retired)
        if !w.out || (members.any fun (x : Workgroup) => !x.out) || !l.lrec.allows c.die || !s.diesRun || Config.numDies ≤ c.die || Config.coresPerDie ≤ c.core then
          none
        else
          match if members.any s.imageBad then RestoreCheck.ue else if members.any s.sealBroken then .seal else check with
          | .ue => some (s.restoreFails w l 1)
          | .seal => some (s.restoreFails w l 2)
          | .ok =>
            if w.gang.isNone then
              match if s.coreOpen c l then s.roomOn c l lowestEntry else none with
              | some r => some (s.restoreWg l w c r)
              | none => if (s.pickCore l l.rank fun _ => lowestEntry).isSome then none else some (s.waitTurn l)
            else
              match s.pickGang l members.length [c.die] fun _ => lowestEntry with
              | none =>
                if (s.pickGang l members.length l.rank fun _ => lowestEntry).isSome then none
                else some (if l.reservedAt.isSome then s.waitTurn l else (s.reserve l members.length).waitTurn l)
              | some (_, cs) =>
                if cs.length < members.length then none
                else
                  let s := (members.zip cs).foldl (fun (s : State) x => s.restoreWg l x.1 x.2.1 x.2.2)
                    ((s.unreserve l.lid).modLaunch l.lid fun x => { x with reservedAt := none })
                  let here (g : Gang) : Bool := g.lid == l.lid && some g.num == w.gang
                  some { s with gangs := upd here (fun g => { g with die := c.die }) s.gangs })

end Sys2Proof.Machine
end

