-- ==== Sys2Proof/Machine/EvTxn.lean ====
section
/-!
DEFINITION. EvTxn: how attempts end, commit, fold and abort, capacity stalls, and completion words (R118 to R138).
-/

namespace Sys2Proof.Machine

/-! ### Overlays of an attempt -/

/-- The entries of an attempt. -/
def State.entriesOf (s : State) (lid : Nat) : List Overlay := s.overlays.filter fun o => o.lid == lid

/-- Is a line written by the attempt: in a mask of its entries? -/
def State.inMask (s : State) (lid line : Nat) : Bool :=
  s.overlays.any fun o => o.lid == lid && o.part == line / 512 && o.lines.contains (line % 512)

/-- Drop the lines that carry an attempt's view, and, at its publish, the committed copies of the lines it wrote (R80, R119,
R134). -/
def State.dropView (s : State) (l : Launch) (committed : Bool) : State :=
  let hit (line view ctx : Nat) : Bool :=
    ctx == l.ctx && view == l.version && view != 0 || (committed && view == 0 && s.inMask l.lid line)
  { s with
    cores := s.cores.map fun (c : Core) => { c with l1 := drop (fun (x : L1Line) => hit x.line x.view x.ctx) c.l1 }
    l2 := drop (fun (x : L2Line) => hit x.line x.view x.ctx) s.l2 }

/-- Is the attempt running or ending (R130)? -/
def Launch.ending (l : Launch) : Bool := l.txnLive

/-- Does an attempt stand that started before a ticket was published (R127, R130)? -/
def State.startedBefore (s : State) (ctx ticket : Nat) : Bool :=
  s.launches.any fun l => l.ctx == ctx && l.ending && l.startCut != ticket && ticketLe l.startCut ticket

/-- Ghost masks that nobody can meet any more are gone. -/
def State.tidyGhosts (s : State) : State :=
  { s with overlays := drop (fun (o : Overlay) => o.frame.isNone && match o.ticket with
      | some t => !s.startedBefore o.ctx t
      | none => true) s.overlays }

/-! ### Ending and tickets (R124, R125) -/

/-- The last place of an end. -/
def State.lastEnd (s : State) : Nat := s.launches.foldl (fun n l => max n l.endOrder) 0

/-- ATTEMPT_END: everything has retired and been performed; its dirty lines are written back. -/
def execAttemptEnd (lid : Nat) (s : State) : Host.Outcome State Fault Refusal :=
  orStay s (match s.launch? lid with
    | none => none
    | some l =>
      if l.lrec.ntxn || l.phase != .running || !s.workOver l then none
      else
        let dirty (x : L1Line) : Bool := x.ctx == l.ctx && x.view == l.version && (x.st == .m || x.st == .o)
        let s := { s with cores := s.cores.map fun (c : Core) => { c with l1 := drop dirty c.l1 } }
        some ((s.modLaunch lid fun l => { l with phase := .ended, endOrder := s.lastEnd + 1 }).unreserve lid))

/-- Launches of a context whose ticket is outstanding. -/
def State.ticketsOut (s : State) (ctx : Nat) : List Launch :=
  s.launches.filter fun l => l.ctx == ctx && l.ticket.isSome && (l.phase == .ticketed || l.phase == .committing || l.phase == .aborting)

/-- The launch of the same stream before this one, when its completion word is not written yet. -/
def State.before (s : State) (l : Launch) : Option Launch :=
  (s.launches.filter fun x => x.stream == l.stream && x.lid < l.lid).getLast?

/-- Has the previous launch of the stream taken its ticket, or completed? One that is over without a commit, by an abort without
another attempt or by DEPENDENCE, holds nobody back; one that aborts, or waits for its next attempt, does (R124, log 64). -/
def State.predOk (s : State) (l : Launch) : Bool :=
  match s.before l with
  | none => true
  | some x => x.phase == .done || x.phase == .committed || (!x.lrec.ntxn && x.ticket.isSome && x.phase != .aborting)

/-- Does one of the attempt's frames report an uncorrectable error (R133)? -/
def State.frameBad (s : State) (lid : Nat) : Bool :=
  (s.entriesOf lid).any fun o => match o.frame with
    | some f => s.badLines.any fun b => f ≤ b * 128 && b * 128 < f + 65536
    | none => false

/-- An uncorrectable error found in an overlay frame before the publish: reported, and the attempt aborts (R133, R138, R392, log 27). -/
def State.failFrame (s : State) (l : Launch) : State :=
  let (now, s) := s.sampleTime
  (s.report l.ctx (recordWords { precise 0x40 2 7 with time := now } l 0 0 0)).failLaunch l.lid 0x14

/-- Is the ticket of a launch below that of an attempt? -/
def Launch.below (x : Launch) (n : Nat) : Bool :=
  match x.ticket with
  | some t => t != n && ticketLe t n
  | none => false

/-- Does a launch of the context that ended before this one still wait for its ticket, its stream's previous launch not in the way? It
takes its ticket first (R124, R437). -/
def State.endedBefore (s : State) (l : Launch) : Bool :=
  s.launches.any fun x => x.ctx == l.ctx && x.phase == .ended && x.endOrder < l.endOrder && s.predOk x

/-- TICKET_TAKE. -/
def execTicketTake (lid : Nat) (s : State) : Host.Outcome State Fault Refusal :=
  orStay s (match s.launch? lid with
    | none => none
    | some l =>
      if l.phase != .ended then none
      else if s.frameBad lid then some (s.failFrame l)
      else if 256 ≤ (s.ticketsOut l.ctx).length || !s.predOk l || s.endedBefore l then none
      else
        let n := (s.ctx l.ctx).nextTicket
        let s := s.modCtx l.ctx fun c => { c with nextTicket := (n + 1) % 2 ^ 32 }
        let s := s.modLaunch lid fun l => { l with phase := .ticketed, ticket := some n }
        some { s with overlays := upd (fun (o : Overlay) => o.lid == lid) (fun o => { o with ticket := some n }) s.overlays })

/-! ### Commit (R126 to R128) -/

/-- Has a committed entry, or ghost mask, of a ticket later than the attempt's start cut a line of its masks? -/
def State.conflicts (s : State) (l : Launch) : Bool :=
  let mine := s.entriesOf l.lid
  s.overlays.any fun o => o.ctx == l.ctx && o.lid != l.lid && s.committed o && (match o.ticket with
    | some t => t != l.startCut && ticketLe l.startCut t
    | none => false) && mine.any fun m => m.part == o.part && m.lines.any o.lines.contains

/-- COMMIT: every lower ticket is over. The conflict check decides; the attempt's lines turn pending and its parts collapse. -/
def execCommit (lid : Nat) (s : State) : Host.Outcome State Fault Refusal :=
  orStay s (match s.launch? lid with
    | none => none
    | some l =>
      match l.ticket with
      | none => none
      | some n =>
        if l.phase != .ticketed || (s.ticketsOut l.ctx).any (·.below n) then none
        else if s.frameBad lid then some (s.failFrame l)
        else if !l.lrec.policy && s.conflicts l then some (s.failLaunch lid 0x16)
        else
          let parts := dedup ((s.entriesOf lid).map (·.part))
          let s := { s with overlays := upd (fun (o : Overlay) => o.lid == lid) (fun o => { o with pending := true }) s.overlays }
          let s := parts.foldl (fun s p => if (s.part p).st == .readDup then (s.splitUnit p).startCollapse p else s) s
          some (s.modLaunch lid fun l => { l with phase := .committing, prepared := [], released := [] }))

/-- Have the collapses of an attempt's parts finished (step 3)? -/
def State.collapsesOver (s : State) (lid : Nat) : Bool :=
  (s.entriesOf lid).all fun o => (s.part o.part).st != .collapsing && (s.part o.part).st != .readDup

/-- COMMIT_PREPARE: a die holds reads of the pending lines from now on, and acknowledges. -/
def execCommitPrepare (lid die : Nat) (s : State) : Host.Outcome State Fault Refusal :=
  orStay s (match s.launch? lid with
    | none => none
    | some l =>
      if l.phase != .committing || Config.numDies ≤ die || l.prepared.contains die || !s.collapsesOver lid then none
      else if s.frameBad lid then some (s.failFrame l)
      else some (s.modLaunch lid fun l => { l with prepared := l.prepared ++ [die] }))

/-- The bytes that an attempt commits: a commit write is marked, and conflicts with the plain accesses of agents outside (R94). -/
def State.commitPieces (s : State) (lid : Nat) : List Piece :=
  (s.entriesOf lid).flatMap fun o => o.bytes.map fun b => pieceAtPa (o.part * 65536 + b) 1

/-- PREPARE_ACK: all four dies have acknowledged; the publish. -/
def execPrepareAck (lid : Nat) (s : State) : Host.Outcome State Fault Refusal :=
  orStay s (match s.launch? lid with
    | none => none
    | some l =>
      if l.phase != .committing || l.prepared.length < Config.numDies then none
      else if s.frameBad lid then some (s.failFrame l)
      else
        let s := s.noteRace { ctx := some l.ctx, me := none, ps := s.commitPieces lid, write := true, plain := false, own := none } true
        let s := (s.noteCode (s.inMask lid)).dropView l true
        let s := s.modCtx l.ctx fun c => { c with cTicket := l.ticket.getD 0, cVer := l.version }
        let mine (o : Overlay) : Bool := o.lid == lid
        let s := { s with overlays := drop mine s.overlays ++ s.overlays.filter mine }
        some ((s.modLaunch lid fun l => { l with phase := .committed }).tidyGhosts.wakeAll))

/-- COMMIT_RELEASE: a die resumes its held reads, and its slices' pending marks are cleared; with the last one no entry is pending. -/
def execCommitRelease (lid die : Nat) (s : State) : Host.Outcome State Fault Refusal :=
  orStay s (match s.launch? lid with
    | none => none
    | some l =>
      if l.phase != .committed || Config.numDies ≤ die || l.released.contains die then none
      else
        let s := s.modLaunch lid fun l => { l with released := l.released ++ [die] }
        let last (o : Overlay) : Bool := o.lid == lid && Config.numDies ≤ l.released.length + 1
        some ({ s with overlays := upd last (fun o => { o with pending := false }) s.overlays } : State).drainOutside)

/-! ### The completion word (R137, R183, R193) -/

/-- The word. -/
def Launch.word (l : Launch) (status : Nat) : W64 :=
  w64 (status + (if l.lrec.ntxn then 0 else l.retries) * 2 ^ 8 + l.version * 2 ^ 16 + (l.ticket.getD 0) * 2 ^ 32)

/-- Record the final status of a sequence; those of the last 256 sequences are kept (R183). -/
def Stream.record (x : Stream) (seq status : Nat) : Stream :=
  { x with statuses := (drop (fun (y : Nat × Nat) => y.1 == seq) x.statuses ++ [(seq, status)]).filter fun y => x.recent y.1 }

/-- What becomes of the completion word's write: it is over, written or reported, or it waits. -/
structure DoneRes where
  ended : Bool
  s : State

/-- Write the completion word through the context's translation, as a store of the launch, or report that it was not written. A
store that ends with a status of R160 or R303 has no code of R44, and its report none (log 62). -/
def State.writeDone (s : State) (l : Launch) (v : W64) : DoneRes :=
  let va := l.lrec.doneWord.toNat
  let fail (code : Nat) (s : State) : DoneRes :=
    let (now, s) := s.sampleTime
    ⟨true, s.report l.ctx (recordWords { precise 0x61 code 7 with addr := l.lrec.doneWord, info0 := v, time := now } l 0 0 0)⟩
  if isHole va then fail fcHole s
  else if 0xEF < bits va 48 8 then fail fcWindowKind s
  else
    match walk s none l.ctx va with
    | (.fault c, s) => fail c (s.logFault l.ctx va c)
    | (.leaf level _ e, s) =>
      let leaf : Leaf := ⟨level, e⟩
      match s.leafFault l.ctx leaf va .store with
      | some c => fail c s
      | none =>
        match (s.setAM ioDie l.ctx va true).ownStore l.ctx (leaf.pa va) leaf.c v with
        | .wait s => ⟨false, s⟩
        | .done st _ _ _ s => if st == 0 then ⟨true, s⟩ else fail 0 s

/-- Is the word's page brought in first? Phobos has FAULTLIMIT µs from the first try (R45, R137, log 46). -/
def State.doneServed (s : State) (l : Launch) : Bool :=
  s.doneAbsent l && (match l.doneSince with
    | none => true
    | some t => s.time < t + (s.ctx l.ctx).faultLimit * 1000)

/-- The launch waits for the page of its completion word. -/
def State.awaitDone (s : State) (l : Launch) : Option State :=
  if l.doneSince.isSome then none else some (s.modLaunch l.lid fun x => { x with doneSince := some s.time })

/-- COMPLETION_WORD_WRITE: after the release of a commit, or at the final outcome of any other launch. -/
def execCompletionWordWrite (lid : Nat) (s : State) : Host.Outcome State Fault Refusal :=
  orStay s (match s.launch? lid with
    | none => none
    | some l =>
      let status : Option Nat :=
        if l.phase == .committed && Config.numDies ≤ l.released.length then some 0
        else if l.phase == .done then l.status
        else none
      match status with
      | none => none
      | some st =>
        if s.doneServed l then s.awaitDone l
        else
          let r := s.writeDone l (l.word st)
          if !r.ended then some r.s
          else
            let s := if st == 0 then r.s.modCtx l.ctx fun c => { c with commits := min 0xFFFFFFFF (c.commits + 1) } else r.s
            let s := (s.modStrm l.stream fun x => x.record l.seq st).unreserve lid
            some { s with launches := drop (fun (x : Launch) => x.lid == lid) s.launches })

/-! ### Capacity (R132, R448) -/

/-- CAPACITY_STALL_RELEASE: the write of a context that has stalled longest gets its frame. -/
def execCapacityStallRelease (ctx : Nat) (s : State) : Host.Outcome State Fault Refusal :=
  orStay s (match s.stalls.find? fun (x : Stall) => x.ctx == ctx with
    | none => none
    | some x =>
      let rest : State := { s with stalls := drop (fun (y : Stall) => y == x) s.stalls }
      match s.launch? x.lid with
      | none => some rest
      | some l => rest.stallEntry l x.part)

/-- TXSTALL_EXPIRY: no frame came free within TXSTALL µs of global time. A write that a free frame waits for proceeds instead. -/
def execTxstallExpiry (lid : Nat) (s : State) : Host.Outcome State Fault Refusal :=
  orStay s (match s.launch? lid with
    | none => none
    | some l =>
      let late (s : State) : Bool := s.stalls.any fun (x : Stall) => x.lid == lid && x.since + l.lrec.txStall * 1000 ≤ s.time
      if !late s then none
      else
        let t := s.releaseStalls l.ctx s.stalls.length
        some (if late t then t.failLaunch lid 0x15 else t))

/-! ### Fold (R130) -/

/-- The entry a die folds next: the first published one of a part that is homed there. Entries of a part fold in the order of their
publishes, one that is still pending holding the later ones back. -/
def State.foldable (s : State) (die : Nat) : Option Overlay :=
  let oldest (o : Overlay) : Bool :=
    s.overlays.find? (fun x => x.part == o.part && x.frame.isSome && s.committed x) == some o
  s.overlays.find? fun o => o.frame.isSome && s.committed o && !s.pendingAt o && s.homeDie o.part == die && oldest o

/-- Fold an entry: its bytes go to the base page, its frame to the reserve; a ghost mask stays while an attempt can meet it. Lines
with an uncorrectable error stay poisoned, and are reported (R136). -/
def State.foldEntry (s : State) (o : Overlay) : State :=
  let f := o.frame.getD 0
  let base := o.part * 65536
  let ghost : List Overlay := match o.ticket with
    | some t => if s.startedBefore o.ctx t then [{ o with frame := none, bytes := [] }] else []
    | none => []
  let bad := (o.lines.filter fun n => s.badLines.contains (f / 128 + n)).map (base / 128 + ·)
  let s1 : State := { s with
    overlays := ghost ++ drop (fun (x : Overlay) => x == o) s.overlays
    badLines := s.badLines ++ bad
    log := s.log ++ bad.map .memoryError }
  let s1 := o.bytes.foldl (fun (s1 : State) b =>
    let s1 := s1.plainUnit o.ctx (base + b)
    { s1 with mem := s1.mem.write (base + b) (s.plainByte o.ctx (f + b)) }) s1
  ((s1.giveReserve f).modCtx o.ctx fun c => { c with used := c.used - 1 }).tidyGhosts

/-- FOLD. -/
def execFold (die : Nat) (s : State) : Host.Outcome State Fault Refusal :=
  orStay s ((s.foldable die).map s.foldEntry)

/-! ### Abort (R133 to R135) -/

/-- Discard the entries of an attempt: their frames return. -/
def State.discard (s : State) (l : Launch) : State :=
  let mine := s.entriesOf l.lid
  let frames := mine.filterMap (·.frame)
  let s := frames.foldl (fun (s : State) f => s.giveReserve f) s
  let s := s.modCtx l.ctx fun c => { c with used := c.used - frames.length }
  { s with overlays := drop (fun (o : Overlay) => o.lid == l.lid) s.overlays }

/-- The cores that a context's workgroups are gone from give up their allowances (R166). -/
def State.leaveAll (s : State) (ctx : Nat) : State :=
  let ks := (s.counters.filter fun c => c.ctx == ctx).flatMap fun c => c.cores.map (·.core)
  ks.foldl (fun s k => s.leaveCore ctx k) s

/-- Is an abort status retryable (R133)? -/
def retryable (status : Nat) : Bool := 0x13 ≤ status && status ≤ 0x17

/-- ATTEMPT_ABORT: the steps of R134; then a new attempt is queued, or the launch has its final status. An attempt with a ticket
counts as aborted after every lower ticket (R124). A non-transactional launch ends under R193. -/
def execAttemptAbort (lid : Nat) (s : State) : Host.Outcome State Fault Refusal :=
  orStay s (match s.launch? lid with
    | none => none
    | some l =>
      if l.phase != .aborting || l.ticket.any fun n => (s.ticketsOut l.ctx).any (·.below n) then none
      else
        let s := (((s.discard l).leaveAll l.ctx).unreserve lid)
        if l.lrec.ntxn then some (s.modLaunch lid fun l => { l with phase := .done })
        else
          let s := (s.dropView l false).modCtx l.ctx fun c => { c with aborts := min 0xFFFFFFFF (c.aborts + 1) }
          let again := retryable (l.status.getD 0) && l.retries < l.lrec.retry
          let s := s.modLaunch lid fun l =>
            if again then { l with phase := .queued, retries := l.retries + 1, status := none, ticket := none }
            else { l with phase := .done }
          some s.tidyGhosts.drainOutside)

end Sys2Proof.Machine
end

