-- ==== Sys2Proof/Machine/EvHost.lean ====
section
/-!
DEFINITION. EvHost: what the driver, the host and the peers do: contexts enabled and disabled, registers, commands, isolation,
accesses from outside, the fabric's ports (R12, R13, R43, R79, R144, R407, R413 to R419, R423 to R426, R445).
-/

namespace Sys2Proof.Machine

/-! ### Contexts (R12, R118, R144, R423, R445) -/

/-- Has the context work: workgroups, resident or switched out, or launches without their final outcome? -/
def State.hasWork (s : State) (ctx : Nat) : Bool := s.wgs.any (·.ctx == ctx) || s.launches.any (·.ctx == ctx)

/-- Drop translation entries that satisfy p, of a context: in every buffer and non-leaf cache; walks start again (R43). -/
def State.dropTb (s : State) (ctx : Nat) (p : (base size : Nat) → Bool) : State :=
  let hit (t : TbEntry) : Bool := t.ctx == ctx && p t.base (2 ^ levelShift t.level)
  let again (x : Nat × Walk) : Nat × Walk := if x.2.ctx == ctx then (x.1, { x.2 with running := false }) else x
  { s with
    cores := s.cores.map fun (c : Core) =>
      { c with
        slotTb := drop (fun (x : Nat × TbEntry) => hit x.2) c.slotTb
        tb := drop hit c.tb
        -- a walk that ended in a fault is made again (R43)
        misses := drop (fun (m : Miss) => m.ctx == ctx && m.fault.isSome && p (m.page * 65536) 65536) c.misses }
    nonLeaf := drop (fun (x : Nat × Nat × Nat × Nat × W64) =>
      x.2.1 == ctx && p (x.2.2.2.1 * 2 ^ levelShift x.2.2.1) (2 ^ levelShift x.2.2.1)) s.nonLeaf
    walks := s.walks.map again }

/-- May a held write of EN = 1 take effect: every drop is acknowledged, or its peer given up? -/
def State.enableReady (s : State) (c : Context) : Bool :=
  c.awaitSlices.isEmpty && (c.awaitPeers.all c.givenUp.contains) && match c.disabledAt with
    | some t => t + 1000000 ≤ s.time
    | none => true

/-- EN goes from 0 to 1: serial table and transaction descriptor at reset, a key, STALLNS cleared. What is committed is
folded first: its tickets end here. -/
def State.enable (s : State) (ctx : Nat) (wrapped : Option Nat) : State :=
  let s := (s.overlays.filter fun o => o.ctx == ctx && o.frame.isSome && s.committed o).foldl (fun s o => s.foldEntry o) s
  let key := wrapped.getD s.plat.nextKey
  let s := { s with plat := { s.plat with nextKey := s.plat.nextKey + 1 } }
  s.modCtx ctx fun c =>
    { c with en := true, heldEn := none, key := some key, stallNs := 0, serials := [], cTicket := 0, cVer := 0, quota := 0,
             used := 0, nextVer := 1, nextTicket := 1, aborts := 0, commits := 0 }

/-- A write of 1 to EN: it takes effect, or is held until R144 lets it. -/
def State.askEnable (s : State) (ctx : Nat) (wrapped : Option Nat) : State :=
  if (s.ctx ctx).en then s
  else if s.enableReady (s.ctx ctx) then s.enable ctx wrapped
  else s.modCtx ctx fun c => { c with heldEn := some { wrapped := wrapped } }

/-- CONTEXT_ENABLE. -/
def execContextEnable (ctx : Nat) (wrapped : Option Nat) (s : State) : Host.Outcome State Fault Refusal :=
  orStay s (if Config.numContexts ≤ ctx || !s.served then none else some (s.askEnable ctx wrapped))

/-- CONTEXT_ENABLE_TAKES_EFFECT. -/
def execContextEnableTakesEffect (ctx : Nat) (s : State) : Host.Outcome State Fault Refusal :=
  let c := s.ctx ctx
  orStay s (match c.heldEn with
    | none => none
    | some h => if s.enableReady c then some (s.enable ctx h.wrapped) else none)

/-- A write of 0 to EN: a held write is cancelled; with work it is refused; otherwise EN goes to 0. The high-water marks of the
context's segments (R24) and its current table frame (R447) are kept, since no rule resets them (log 57). -/
def State.disable (s : State) (ctx : Nat) : State :=
  let s := s.modCtx ctx fun c => { c with heldEn := none }
  if !(s.ctx ctx).en || s.hasWork ctx then s
  else
    let s := s.dropTb ctx fun _ _ => true
    let s := { s with
      walks := drop (fun (x : Nat × Walk) => x.2.ctx == ctx) s.walks
      cores := s.cores.map fun (c : Core) => { c with misses := drop (fun (m : Miss) => m.ctx == ctx) c.misses } }
    let s := (s.streams.filter fun x => x.ctx == ctx && x.st == .active).foldl (fun s x => s.haltStream x.num .access) s
    let s := (s.ctx ctx).spare.foldl (fun s f => s.note (.spareFrame ctx f)) s
    let s := s.freeCounters ctx
    let slices := (List.range Config.numDies).flatMap fun d => (List.range Config.slicesPerDie).map fun n => (⟨d, n⟩ : SliceId)
    let peers := (s.routes.filter fun x => x.2 != 0).map (·.1)
    (s.modCtx ctx fun c =>
      { c with en := false, spare := [], key := none, disabledAt := some s.time, awaitSlices := slices,
               awaitPeers := dedup (c.awaitPeers ++ peers), givenUp := drop peers.contains c.givenUp }).checkLow ctx

/-- CONTEXT_DISABLE. -/
def execContextDisable (ctx : Nat) (s : State) : Host.Outcome State Fault Refusal :=
  orStay s (if Config.numContexts ≤ ctx || !s.served then none else some (s.disable ctx))

/-- Does an operation's identity name this device and the context? -/
def State.identIn (s : State) (ctx : Nat) (ref : OpRef) : Bool :=
  identCtx ref.ident == ctx && identDev ref.ident == s.plat.devNum

/-- DROP_COMMAND: a home slice, or a peer's Phobos for its homes, drops its entries of the context and acknowledges; or the homes of
this device do so for a context of a peer. -/
def execDropCommand (ctx : Nat) (target : DropTarget) (s : State) : Host.Outcome State Fault Refusal :=
  let c := s.ctx ctx
  let clear (home : HomeId → Nat → Bool) : State :=
    { s with
      results := drop (fun (e : RCEntry) => home e.home e.slice && s.identIn ctx e.ref) s.results
      holds := drop (fun (p : Packet) => home p.home p.slice && s.identIn ctx p.ref) s.holds }
  orStay s (match target with
    | .slice x =>
      if !c.awaitSlices.contains x then none
      else
        let s' := clear fun h n => h == ⟨s.plat.devNum, x.die⟩ && n == x.slice
        some (s'.modCtx ctx fun c => { c with awaitSlices := drop (· == x) c.awaitSlices })
    | .peer p =>
      if !c.awaitPeers.contains p then none
      else
        let s' := clear fun h _ => h.device == p
        some (s'.modCtx ctx fun c => { c with awaitPeers := drop (· == p) c.awaitPeers, givenUp := drop (· == p) c.givenUp })
    | .fromPeer p =>
      let theirs (r : OpRef) : Bool := identCtx r.ident == ctx && identDev r.ident == p
      some { s with
        results := drop (fun (e : RCEntry) => e.home.device == s.plat.devNum && theirs e.ref) s.results
        holds := drop (fun (p : Packet) => p.home.device == s.plat.devNum && theirs p.ref) s.holds
        peerOps := drop (fun (o : PeerOp) => theirs o.ref && !s.queuedAtCounter o.ref) s.peerOps })

/-- DROP_ACK_TIMEOUT: a peer silent for 100 ms loses its route, and its homes their incarnation entries. -/
def execDropAckTimeout (ctx peer : Nat) (s : State) : Host.Outcome State Fault Refusal :=
  let c := s.ctx ctx
  let late := match c.disabledAt with
    | some t => t + 100000000 ≤ s.time
    | none => false
  orStay s (if !c.awaitPeers.contains peer || !late || c.givenUp.contains peer then none
    else
      let s : State := { s with
        routes := drop (fun (x : Nat × Nat) => x.1 == peer) s.routes
        incTable := drop (fun (x : Nat × HomeId × Nat) => x.2.1.device == peer) s.incTable }
      some (s.modCtx ctx fun c => { c with givenUp := addNew c.givenUp peer }))

/-! ### Commands (R43, R79, R407, R422, R424, R426) -/

/-- Start a command: ignored, with STATUS busy, while another runs. The effect gives the status it will end with. -/
def State.command (s : State) (op ctx : Nat) (addr len aux : W64) (f : State → State × Nat) : State :=
  if s.cmd.busy then { s with cmd := { s.cmd with status := 1 } }
  else
    let (s, result) := f s
    { s with cmd := { op := op, ctx := ctx, busy := true, status := 0, result := result, addr := addr, len := len, aux := aux } }

/-- Does a range of a context's addresses meet a page? -/
def rangeMeets (addr len : W64) (base size : Nat) : Bool := base < addr.toNat + len.toNat && addr.toNat < base + size

/-- INVALIDATE_VA_RANGE. -/
def execInvalidateVaRange (ctx : Nat) (addr len : W64) (s : State) : Host.Outcome State Fault Refusal :=
  orStay s (if !s.served then none
    else some (s.command 1 ctx addr len s.cmd.aux fun s => (s.dropTb ctx (rangeMeets addr len), 0)))

/-- INVALIDATE_CONTEXT. -/
def execInvalidateContext (ctx : Nat) (s : State) : Host.Outcome State Fault Refusal :=
  orStay s (if !s.served then none
    else some (s.command 2 ctx s.cmd.addr s.cmd.len s.cmd.aux fun s => (s.dropTb ctx fun _ _ => true, 0)))

/-- Free a range of frames (R79): the status, and the state after it. -/
def State.freeRange (s : State) (addr len : Nat) : State × Nat :=
  let first := addr / 65536
  let n := len / 65536
  if addr % 65536 != 0 || len % 65536 != 0 || len < 65536 || Config.reserveBase < addr + len then (s, 4)
  else
    let hit (p : Nat) : Bool := first ≤ p && p < first + n
    if (s.overlays.any fun o => o.frame.isSome && hit o.part) || s.counters.any fun c => hit (partOf c.word) then (s, 3)
    else (s.freeParts first n, 0)

/-- FREE_FRAME_RANGE. -/
def execFreeFrameRange (ctx : Nat) (addr len : W64) (s : State) : Host.Outcome State Fault Refusal :=
  orStay s (if !s.served then none
    else some (s.command 3 ctx addr len s.cmd.aux fun s => s.freeRange addr.toNat len.toNat))

/-- Indices of the words of a table that memory does not hold as zero, ascending. -/
def State.tableSlots (s : State) (table bytes : Nat) : List Nat :=
  dedup ((s.mem.filter fun c => table ≤ c.1 && c.1 < table + bytes).map fun c => (c.1 - table) / 8)

/-- The 64 KiB frames that a table of a level maps for a context. -/
def State.framesOf (s : State) (ctx : Nat) : (level : Nat) → (table : Nat) → List Nat
  | level, table =>
    (s.tableSlots table (tableBytes level)).flatMap fun i =>
      let e := s.readWord ctx (table + 8 * i)
      match readEntry ctx level e with
      | .fault _ => []
      | .leaf => (List.range (partsOfLevel level)).map (fld e 16 36 + ·)
      | .table t =>
        match level with
        | 0 => []
        | l + 1 => State.framesOf s ctx l t

/-- The contexts a checkpoint names: AUX is the mask of the 64 contexts from 64 × CTX[6] up (log 31). -/
def namedContexts (ctx : Nat) (aux : W64) : List Nat := ((List.range 64).filter aux.getLsbD).map (ctx / 64 * 64 + ·)

/-- The physical address of a byte of a host buffer (R35, log 31). -/
def hostPa (addr : Nat) : Nat := 2 ^ 50 + addr % 2 ^ 50

/-- A checkpoint (R424): the cut is CTICKET of each context now; T pages are taken as committed at it, every line as it stands
now. The frames go to a host-attached tier one after the other, as stored ciphertext, and the closing record, the cut, the frame list
and the digest, is signed (log 8, log 31). -/
def State.checkpoint (ctx : Nat) (addr aux : W64) (s : State) : State × Nat :=
  let cs := namedContexts ctx aux
  let frames := dedup (cs.flatMap fun c => (s.framesOf c 3 (s.ctx c).root).filter (· < Config.reserveBase / 65536))
  let cut := cs.map fun c => (c, (s.ctx c).cTicket)
  let bytes := frames.flatMap fun f => (List.range 65536).map fun i => s.storedByte (f * 65536 + i)
  let digest := Config.sha384 bytes
  let record := (cut.flatMap fun (c, t) => natBytes 8 c ++ natBytes 8 t) ++ frames.flatMap (natBytes 8) ++ natBytes 48 digest
  let s : State := { s with mem := s.mem.writeBytes (hostPa addr.toNat) bytes }
  (s.note (.checkpointDone cut frames digest (Config.sign (Config.sha384 record))), 0)

/-- CHECKPOINT. -/
def execCheckpoint (ctx : Nat) (addr aux : W64) (s : State) : Host.Outcome State Fault Refusal :=
  orStay s (if !s.served then none else some (s.command 4 ctx addr s.cmd.len aux (State.checkpoint ctx addr aux)))

/-- The group that a debug target names: entry [3:0], slot [5:4], core [10:6], die [12:11] of AUX (log 31). -/
def State.debugTarget (s : State) (ctx : Nat) (aux : W64) : Option GRef :=
  s.wgs.findSome? fun w =>
    if w.ctx == ctx && !w.out && !w.retired && w.core == (⟨fld aux 11 2, fld aux 6 5⟩ : CoreId) then
      (w.groups.find? fun g => g.slot == fld aux 4 2 && g.entry == fld aux 0 4).map (refOf w)
    else none

/-- DEBUG_STOP (R407): the group stops at its next landed bundle boundary. A debugger is at work in the context (log 3). -/
def execDebugStop (ctx : Nat) (aux : W64) (s : State) : Host.Outcome State Fault Refusal :=
  let run (s : State) : State × Nat :=
    match s.debugTarget ctx aux with
    | some g => ((s.modGroup g fun x => { x with dbgReq := some 0 }).modCtx ctx fun c => { c with debugger := true }, 0)
    | none => (s, 4)
  orStay s (if !s.served then none else some (s.command 5 ctx s.cmd.addr s.cmd.len aux run))

/-- DEBUG_RESUME (R407): the stopped group, with what the debugger wrote at offsets of its image, goes on in interlocked mode. -/
def execDebugResume (ctx : Nat) (aux : W64) (writes : List (Nat × W32)) (s : State) : Host.Outcome State Fault Refusal :=
  let run (s : State) : State × Nat :=
    match s.debugTarget ctx aux with
    | some g => (s.modGroup g fun x => { ((x.debugged writes).dropWaits (· == .debug)).interlock with dbgReq := none }, 0)
    | none => (s, 4)
  orStay s (if !s.served then none else some (s.command 6 ctx s.cmd.addr s.cmd.len aux run))

/-- Numbers of the configuration that an attestation covers: device number, VF bindings, route and export tables, power
cap. -/
def State.configNums (s : State) : List Nat :=
  [s.plat.devNum] ++ (s.vfs.flatMap fun v => [v.num, v.apctx, b2n v.hce] ++ v.tenants) ++ (s.routes.flatMap fun (p, m) => [p, m]) ++
    (s.exports.flatMap fun e => [e.num, b2n e.v, b2n e.r, b2n e.w, b2n e.a, e.base, e.len, e.dev, e.dmask]) ++ [s.plat.pcap]

/-- Eight bytes of each number. -/
def numBytes (ns : List Nat) : List Byte := ns.flatMap (natBytes 8)

/-- The device code hashes that code objects of a context carry in their headers; or why one cannot be read. -/
def State.codeHashes (ctx : Nat) : (codes : List W64) → State → Except FrontStop (List Nat × State)
  | [], s => .ok ([], s)
  | c :: cs, s =>
    match State.frontWords ctx 2 (c.toNat + 8) s with
    | .error e => .error e
    | .ok (ws, s) => (State.codeHashes ctx cs s).map fun (hs, s) => (ws.map (·.toNat) ++ hs, s)

/-- An attestation report (R422): numbers with their widths in bytes: the identity fields, the nonce, the measurements, the digest of
the configuration, and the code hashes. -/
def State.attestBody (s : State) (nonce : Nat) (hashes : List Nat) : List (Nat × Nat) :=
  let hash := codeHash s.plat.step
  [(2, 0x4F48), (2, 96), (1, s.plat.step), (2, s.plat.devNum), (8, hash.1.toNat), (8, hash.2.toNat), (48, nonce)] ++
    s.plat.measured.map (48, ·) ++ [(48, Config.sha384 (numBytes s.configNums))] ++ hashes.map (8, ·)

/-- ATTEST (R422): the report, with the code hashes of up to 64 code objects of the context, signed with the identity key (log 8). It
fails where it names more, or one that cannot be read. -/
def State.attest (ctx : Nat) (req : AttestReq) (s : State) : State × Nat :=
  if 64 < req.codes.length then (s, 4)
  else
    match State.codeHashes ctx req.codes s with
    | .error (.fault c va) => (s.logFault ctx va c, 4)
    | .error _ => (s, 4)
    | .ok (hashes, s) =>
      let body := s.attestBody req.nonce hashes
      (s.note (.attestation (body.map (·.2)) (Config.sign (Config.sha384 (body.flatMap fun (n, v) => natBytes n v)))), 0)

/-- ATTEST. -/
def execAttest (ctx : Nat) (addr : W64) (req : AttestReq) (s : State) : Host.Outcome State Fault Refusal :=
  orStay s (if !s.served then none else some (s.command 7 ctx addr s.cmd.len s.cmd.aux (State.attest ctx req)))

/-- Bytes of a buffer in host memory (R426, log 31). -/
def State.hostBytes (s : State) (addr : W64) (n : Nat) : List Byte :=
  (List.range n).map fun i => s.mem.read (hostPa (addr.toNat + i))

/-- The request of an attestation in its host buffer: the nonce, then the addresses of code objects (log 31). -/
def State.attestReq (s : State) (addr len : W64) : AttestReq :=
  { nonce := bytesNat (s.hostBytes addr 48)
    codes := (List.range ((len.toNat - 48) / 8)).map fun i => w64 (bytesNat (s.hostBytes (addr + w64 (48 + 8 * i)) 8)) }

/-! ### Firmware (R154, R421) -/

/-- Every die records the incarnations of this device's homes. -/
def State.fillIncs (s : State) : State :=
  (List.range Config.numDies).foldl (fun s die =>
    (List.range Config.numDies).foldl (fun (s : State) h => s.learnInc die ⟨s.plat.devNum, h⟩ (s.incs[h]?.getD 1)) s) s

/-- The ROM checks an image: its signature, and its version against the fused minimum. -/
def State.bootImage (s : State) (i : FwImage) : State × Bool :=
  if i.sigOk && s.plat.fwMin ≤ i.version then
    let m := s.plat.measured ++ [Config.sha384 i.bytes]
    (({ s with plat := { s.plat with released := true, bootErr := false, measured := m } } : State).fillIncs, true)
  else ({ s with plat := { s.plat with bootErr := true } }, false)

/-- A recovery image is taken while the firmware does not run. -/
def State.recover (image : FwImage) (s : State) : State × Nat :=
  if s.plat.released then (s, 4)
  else
    let (s, ok) := s.bootImage image
    (s, if ok then 0 else 4)

/-- RECOVERY_IMAGE: served when nothing else is. -/
def execRecoveryImage (image : FwImage) (s : State) : Host.Outcome State Fault Refusal :=
  .next (s.command 8 s.cmd.ctx s.cmd.addr s.cmd.len s.cmd.aux (State.recover image))

/-- An image in a host buffer, as the ROM finds it (R421, log 8). -/
def imageOf (bytes : List Byte) : FwImage :=
  { sigOk := Config.imageSigOk bytes, version := Config.imageVersion bytes, bytes := bytes }

/-- Is an access of the context, a piece of which lies at an address that p picks, still to be performed (R43)? Of a covered operation
whose group is gone only the physical address is left: it is waited for whatever the range (log 60). -/
def State.accessesLeft (s : State) (ctx : Nat) (p : Nat → Bool) : Bool :=
  (s.wgs.any fun w => w.ctx == ctx && w.groups.any fun g => (g.ldq ++ g.stq ++ g.amq).any fun e => e.lanes.any fun o =>
    !o.done && o.pieces.any fun x => !x.done && p (linearVa g o x.off) && match x.target with
      | .phys _ _ _ _ => true
      | .scratch _ _ => false) ||
    s.covOps.any fun o => o.ctx == ctx && match o.body with
      | .access r _ => (s.group? r.g).isNone
      | _ => false
where
  /-- The address of a byte of the access as the tables see it. -/
  linearVa (g : Group) (o : LaneOp) (off : Nat) : Nat :=
    let va := o.va.toNat + off
    if bits va 48 8 == 0xFE then
      if bit va 47 then segBase g.seg + bits va 0 47 else laneLinear g.seg (bits va 0 47) o.lane
    else va

/-- COMMAND_COMPLETE (R426): an invalidation waits for the accesses translated through the entries it dropped: a dropped entry
maps at most the 1 GiB around an address (R30, log 60). -/
def execCommandComplete (s : State) : Host.Outcome State Fault Refusal :=
  let c := s.cmd
  let held :=
    if c.op == 1 then s.accessesLeft c.ctx fun va => rangeMeets c.addr c.len (va / 2 ^ 30 * 2 ^ 30) (2 ^ 30)
    else if c.op == 2 then s.accessesLeft c.ctx fun _ => true
    else false
  orStay s (if !c.busy || held then none
    else some (({ s with cmd := { c with busy := false, status := c.result } } : State).irq .command))

/-! ### Registers (R12, R13, R118, R175, R418, R425) -/

/-- Is a link up? -/
def State.linkUp (s : State) : Bool := s.ports.any (·.up)

/-- TIMEADJ: a correction to be slewed in (R420). -/
def State.adjustTime (s : State) (v : W64) : State := { s with plat := { s.plat with slew := s.plat.slew + v.toInt } }

/-- TIMESET: only while every context is disabled (R420). -/
def State.setTime (s : State) (v : W64) : State :=
  if s.contexts.any (·.en) then { s with plat := { s.plat with tErr := true } } else { s with time := v.toNat }

/-- The device takes a number: its homes are known by it from now on (R154, R417). -/
def State.renumber (s : State) (dev : Nat) : State :=
  let old := s.plat.devNum
  let h (x : HomeId) : HomeId := if x.device == old then { x with device := dev } else x
  let t (x : Tracked) : Tracked := { x with home := h x.home }
  { s with
    plat := { s.plat with devNum := dev }
    incTable := s.incTable.map fun x => (x.1, h x.2.1, x.2.2)
    covOps := s.covOps.map fun (o : CovOp) => { o with home := h o.home }
    packets := s.packets.map fun (p : Packet) => { p with home := h p.home }
    holds := s.holds.map fun (p : Packet) => { p with home := h p.home }
    results := s.results.map fun (e : RCEntry) => { e with home := h e.home }
    dieTracked := s.dieTracked.map fun x => (x.1, t x.2)
    wgs := s.wgs.map fun w => { w with groups := w.groups.map fun (g : Group) => { g with tracked := g.tracked.map t } } }

/-- Write a word of the identity block. -/
def State.writeIdent (s : State) (word : Nat) (v : W64) : State :=
  match word with
  | 0 => if s.linkUp then s else s.renumber (fld v 40 10)
  | 3 =>
    let cap := fld v 4 12
    { s with plat := { s.plat with
        pcap := if 1500 ≤ cap && cap ≤ 3000 then cap else s.plat.pcap
        tErr := s.plat.tErr && !v.getLsbD 18 } }
  | 5 => s.adjustTime v
  | 6 => s.setTime v
  | _ => s

/-- Write a word of a context address descriptor. -/
def State.writeCtx (s : State) (n word : Nat) (v : W64) : State :=
  let en := (s.ctx n).en
  match word with
  | 0 =>
    let s := if en then s else s.modCtx n fun c => { c with root := fld v 14 38 * 16384 }
    if v.getLsbD 0 then s.askEnable n none else s.disable n
  | 1 => if en then s else s.modCtx n fun c => { c with ringBase := fld v 12 40 * 4096 }
  | 2 =>
    (s.modCtx n fun c => { c with ringSize := if en then c.ringSize else fld v 0 16, lowWater := fld v 32 16 }).rearmLow n
  | 3 => ((s.modCtx n fun c => { c with prod := fld v 0 32 }).rearmLow n).resumePool
  | 4 => s.modCtx n fun c => { c with faultLimit := fld v 0 32 }
  | _ => s

/-- Write a word of a stream descriptor: fields other than EN, RESUME and SKIP ignore writes while EN is 1. -/
def State.writeStrm (s : State) (n word : Nat) (v : W64) : State :=
  let en := (s.strm n).en
  match word with
  | 0 =>
    let s := if en then s else s.modStrm n fun x => { x with ctx := fld v 8 7, prio := fld v 16 2, ringLog2 := fld v 24 4 }
    let s := if v.getLsbD 1 then s.resumeStream n else s
    let s := if v.getLsbD 2 then s.skipStream n else s
    s.enableStream n (v.getLsbD 0)
  | 1 => if en then s else s.modStrm n fun x => { x with ringVa := v }
  | 2 => if en then s else s.modStrm n fun x => { x with wridxVa := v }
  | _ => s

/-- An export entry at reset (R418). -/
def ExportEntry.reset (n : Nat) : ExportEntry :=
  { num := n, v := false, r := false, w := false, a := false, base := 0, len := 0, dev := 0, dmask := 0 }

/-- Write a word of an export entry: while V is 1 only V can be written. -/
def ExportEntry.write (e : ExportEntry) (word : Nat) (v : W64) : ExportEntry :=
  match word with
  | 0 =>
    if e.v then { e with v := v.getLsbD 0 }
    else { e with v := v.getLsbD 0, r := v.getLsbD 1, w := v.getLsbD 2, a := v.getLsbD 3, base := fld v 16 24, len := fld v 40 24 }
  | 1 => if e.v then e else { e with dev := fld v 0 10, dmask := fld v 16 10 }
  | _ => e

/-- A VF binding at reset (R415). -/
def VfBind.reset (n : Nat) : VfBind := { num := n, tenants := [], apctx := 0, hce := false, frozen := false }

/-- Write a word of a VF binding: words 0 and 1 the tenant set, word 2 APCTX [6:0] and HCE [7] (log 31). -/
def VfBind.write (x : VfBind) (word : Nat) (v : W64) : VfBind :=
  let set (base : Nat) : List Nat := ((List.range 64).filter v.getLsbD).map (base + ·)
  match word with
  | 0 => { x with tenants := set 0 ++ x.tenants.filter (64 ≤ ·) }
  | 1 => { x with tenants := x.tenants.filter (· < 64) ++ set 64 }
  | 2 => { x with apctx := fld v 0 7, hce := v.getLsbD 7 }
  | _ => x

/-- Write a word of the command block: the operands, or an OP that starts. Attestation and the recovery image find their data in the
host buffer at ADDR (log 31). Before the firmware runs only the recovery image is served (R421). -/
def State.writeCmd (s : State) (word : Nat) (v : W64) : State :=
  if s.cmd.busy then { s with cmd := { s.cmd with status := 1 } }
  else
    let c := s.cmd
    match word with
    | 0 =>
      let ctx := fld v 8 7
      let run (o : Host.Outcome State Fault Refusal) : State := match o with
        | .next s => s
        | .fault _ => s
        | .refused _ => s
      if !s.served && fld v 0 8 != 8 then s
      else match fld v 0 8 with
      | 0 => { s with cmd := { c with op := 0, ctx := ctx } }
      | 1 => run (execInvalidateVaRange ctx c.addr c.len s)
      | 2 => run (execInvalidateContext ctx s)
      | 3 => run (execFreeFrameRange ctx c.addr c.len s)
      | 4 => run (execCheckpoint ctx c.addr c.aux s)
      | 5 => run (execDebugStop ctx c.aux s)
      | 6 => run (execDebugResume ctx c.aux [] s)
      | 7 => s.command 7 ctx c.addr c.len c.aux (State.attest ctx (s.attestReq c.addr c.len))
      | 8 => s.command 8 ctx c.addr c.len c.aux (State.recover (imageOf (s.hostBytes c.addr c.len.toNat)))
      | op => s.command op ctx c.addr c.len c.aux fun s => (s, 2)
    | 1 => { s with cmd := { c with addr := v } }
    | 2 => { s with cmd := { c with len := v } }
    | 3 => { s with cmd := { c with aux := v } }
    | _ => s

/-- The offset of a word of a register block in BAR0, if the block has it (R425; the strides of routes and exports are log 31's
choice). -/
def regOffset (block : RegBlock) (index word : Nat) : Option Nat :=
  let at_ (base count bytes : Nat) : Option Nat :=
    if index < count && 8 * word < bytes then some (base + bytes * index + 8 * word) else none
  match block with
  | .ident => at_ 0 1 64
  | .ctx => at_ 0x10000 Config.numContexts 64
  | .txn => at_ 0x12000 Config.numContexts 32
  | .stream => at_ 0x14000 Config.numStreams 32
  | .cmd => at_ 0x20000 1 32
  | .ring => at_ 0x30000 Config.numContexts 32
  | .route => at_ 0x50000 1024 8
  | .xport => at_ 0x52000 64 16
  | .vf => at_ 0x60000 64 128

/-- Write a word of a register block; none where no register takes the write. -/
def State.writeReg (s : State) (block : RegBlock) (index word : Nat) (v : W64) : Option State :=
  if (regOffset block index word).isNone then none
  else match block with
    | .ident => some (s.writeIdent word v)
    | .ctx => if !s.served then none else some (s.writeCtx index word v)
    | .txn =>
      if !s.served || word != 1 then none
      else some (s.modCtx index fun c => { c with quota := fld v 0 32 })
    | .stream => if !s.served then none else some (s.writeStrm index word v)
    | .cmd => some (s.writeCmd word v)
    | .ring =>
      if !s.served then none
      else
        match word with
        | 0 => some (s.modCtx index fun c => { c with repBase := v })
        | 1 => some (s.modCtx index fun c => { c with repSize := fld v 0 32 })
        | 3 => some (s.modCtx index fun c => { c with repCons := fld v 0 32 })
        | _ => none
    | .route =>
      if !s.served then none
      else
        let others := drop (fun (x : Nat × Nat) => x.1 == index) s.routes
        -- a peer that was given up has to acknowledge its drop first (R144)
        if fld v 0 18 != 0 && s.contexts.any (fun c => c.givenUp.contains index) then none
        else some { s with routes := if fld v 0 18 == 0 then others else others ++ [(index, fld v 0 18)] }
    | .xport =>
      if !s.served then none
      else some { s with exports := upsert (·.num == index) (ExportEntry.reset index) (·.write word v) s.exports }
    | .vf =>
      if !s.served || 3 ≤ word then none
      else some { s with vfs := upsert (·.num == index) (VfBind.reset index) (·.write word v) s.vfs }

/-- REGISTER_WRITE. -/
def execRegisterWrite (block : RegBlock) (index word : Nat) (v : W64) (s : State) : Host.Outcome State Fault Refusal :=
  orStay s (s.writeReg block index word v)

/-! ### Isolation (R413) -/

/-- Terminate the launches of some workgroups, each with a report of the freeze. -/
def State.freezeWork (s : State) (cause : Nat) (hit : Workgroup → Bool) : State :=
  (s.wgs.filter fun w => !w.out && !w.retired && hit w).foldl (fun s w =>
    match s.wg? w.wid, s.launch? w.lid with
    | some w, some l =>
      let (now, s) := s.sampleTime
      (s.report l.ctx (recordWords { precise 0x60 cause 7 with time := now } l 0 w.num 0)).failLaunch l.lid 0x10
    | _, _ => s) s

/-- Freeze a master. -/
def State.freeze (s : State) (m : Master) : State :=
  let s := (s.note (.violation m)).irq (.frozen m)
  match m with
  | .vf n => { s with vfs := upsert (·.num == n) (VfBind.reset n) (fun v => { v with frozen := true }) s.vfs }
  | .peer p => { s with frozenPeers := addNew s.frozenPeers p }
  | .copyEngine c =>
    (s.modCore c fun k => { k with copyFrozen := true }).freezeWork 3 fun w =>
      w.core == c && w.groups.any fun g => g.chans.any fun x => !x.jobs.isEmpty
  | .slot c n =>
    (s.modCore c fun k => { k with slotsFrozen := addNew k.slotsFrozen n }).freezeWork 4 fun w =>
      w.core == c && w.groups.any fun g => g.slot == n

/-- MASTER_FREEZE: a violation that the step brings with it, such as a failed key check. -/
def execMasterFreeze (m : Master) (s : State) : Host.Outcome State Fault Refusal := .next (s.freeze m)

/-- FUNCTION_LEVEL_RESET. -/
def execFunctionLevelReset (vf : Nat) (s : State) : Host.Outcome State Fault Refusal :=
  .next { s with vfs := upd (fun (v : VfBind) => v.num == vf) (fun v => { v with frozen := false }) s.vfs }

/-- PEER_LINK_RESET. -/
def execPeerLinkReset (peer : Nat) (s : State) : Host.Outcome State Fault Refusal :=
  .next { s with frozenPeers := drop (· == peer) s.frozenPeers }

/-- ENGINE_RESET. -/
def execEngineReset (c : CoreId) (s : State) : Host.Outcome State Fault Refusal :=
  orStay s (if (s.core c).copyFrozen then some (s.modCore c fun k => { k with copyFrozen := false }) else none)

/-- SLOT_RESET: the slot is zeroed; its workgroups are gone already. -/
def execSlotReset (c : CoreId) (slot : Nat) (s : State) : Host.Outcome State Fault Refusal :=
  orStay s (if (s.core c).slotsFrozen.contains slot then
      some (s.modCore c fun k => { k with
        slotsFrozen := drop (· == slot) k.slotsFrozen
        slotTb := drop (fun (x : Nat × TbEntry) => x.1 == slot) k.slotTb })
    else none)

/-! ### Accesses from outside (R109, R415, R418, R419, R423) -/

/-- Physical addresses of an access through a context's tables; or, when a byte of it is not mapped, not allowed, or not in local
memory, the state in which it ends: Phobos logs a malformed entry and a wrong key (R44). -/
def State.aperture (ctx va : Nat) (write : Bool) : (n : Nat) → State → Except State (List Nat × State)
  | 0, s => .ok ([], s)
  | n + 1, s =>
    match s.frontLeaf ctx va write with
    | .error c => .error (s.logFault ctx va c)
    | .ok (l, s) =>
      if paUsable (l.pa va) then (State.aperture ctx (va + 1) write n s).map fun (ps, s) => (l.pa va :: ps, s) else .error s

/-- Does the host make accesses of this kind: reads, writes, and PCI Express AtomicOps, which are FetchAdd, Swap and CAS (R414)? -/
def hostKind (k : ExtKind) : Bool :=
  match k with
  | .read _ => true
  | .write _ => true
  | .atomic o _ _ _ => o == .add || o == .swap || o == .cas
  | .cas128 _ _ _ _ => true
  | .reduce _ _ _ => false
  | .counter _ _ _ => false

/-- An access through the 64 GiB aperture of a virtual function, which starts at virtual address 0 (log 31). -/
def State.apertureAccess (s : State) (vf : Nat) (v : VfBind) (a : ExtAccess) : State :=
  if 2 ^ 36 < a.addr + extLen a.kind || !v.tenants.contains v.apctx then (s.freeze (.vf vf)).note .unsupported
  else if !(s.ctx v.apctx).en || !hostKind a.kind then s.note .unsupported
  else
    match State.aperture v.apctx a.addr (extWrites a.kind) (extLen a.kind) s with
    | .error s => s.note .unsupported
    | .ok (pas, s) => s.extAccess { src := .vf vf, ctx := some v.apctx, pas := pas, kind := a.kind, head := none }

/-- Does a register lie in the windows of a virtual function: a descriptor, a stream or a fault ring of a context of its tenant set
(R415)? -/
def State.vfReaches (s : State) (v : VfBind) (block : RegBlock) (index : Nat) : Bool :=
  match block with
  | .ctx | .txn | .ring => index < Config.numContexts && v.tenants.contains index
  | .stream => index < Config.numStreams && v.tenants.contains (s.strm index).ctx
  | .ident | .cmd | .route | .xport | .vf => false

/-- Would a write give a stream to a context outside the tenant set (log 31)? -/
def State.vfGivesAway (s : State) (v : VfBind) (block : RegBlock) (index word : Nat) (x : W64) : Bool :=
  block == .stream && word == 0 && !(s.strm index).en && !v.tenants.contains (fld x 8 7)

/-- CXL_MEM_ACCESS: local memory below the reserve, bytes as stored. -/
def execCxlMemAccess (a : ExtAccess) (s : State) : Host.Outcome State Fault Refusal :=
  let pas := (List.range (extLen a.kind)).map (a.addr + ·)
  .next (
    if !s.served || Config.reserveBase < a.addr + extLen a.kind then s.note .unsupported
    else
      match a.kind with
      | .read _ => s.extAccess { src := .cxlMem, ctx := none, pas := pas, kind := a.kind, head := none }
      | .write _ => s.extAccess { src := .cxlMem, ctx := none, pas := pas, kind := a.kind, head := none }
      | .atomic _ _ _ _ => s.note .unsupported
      | .cas128 _ _ _ _ => s.note .unsupported
      | .reduce _ _ _ => s.note .unsupported
      | .counter _ _ _ => s.note .unsupported)

/-- Does an export entry admit an access of a peer? -/
def ExportEntry.admits (e : ExportEntry) (peer : Nat) (a : ExtAccess) : Bool :=
  e.v && Nat.land (Nat.xor peer e.dev) e.dmask == 0 && e.base * 65536 ≤ a.addr && a.addr + extLen a.kind ≤ (e.base + e.len) * 65536 &&
    match a.kind with
    | .read _ => e.r
    | .write _ => e.w
    | .atomic _ _ _ _ => e.a
    | .cas128 _ _ _ _ => e.a
    | .reduce _ _ _ => e.a
    | .counter _ _ _ => e.a

/-- May a peer's access be made: an export entry admits it (R418)? Its bytes are local ones. -/
def State.admitted (s : State) (peer : Nat) (a : ExtAccess) : Bool :=
  s.exports.any (·.admits peer a) && a.addr + extLen a.kind ≤ Config.localBytes

/-- The next sequence number of a peer's posted writes. -/
def State.peerSeq (s : State) (peer : Nat) : Nat :=
  match s.peerSeqs.find? fun (x : Nat × Nat) => x.1 == peer with
  | some (_, n) => n
  | none => 0

/-- An admitted access of a peer. A posted write that has come before is a copy, sent again after a failover, and is discarded
(R417). -/
def State.peerAccess (s : State) (peer : Nat) (seq : Option Nat) (head : Option CovHead) (a : ExtAccess) : State :=
  let x : ExtWait :=
    { src := .peer peer, ctx := none, pas := (List.range (extLen a.kind)).map (a.addr + ·), kind := a.kind, head := head }
  match seq with
  | none => s.extAccess x
  | some n =>
    if n < s.peerSeq peer then s
    else ({ s with peerSeqs := drop (fun (x : Nat × Nat) => x.1 == peer) s.peerSeqs ++ [(peer, n + 1)] } : State).extAccess x

/-- PEER_REQUEST: admitted by an export entry and performed, or refused with a freeze; a frozen peer's requests are dropped, and so
are all before the firmware runs (R421). A watermark-only notice travels on to its home slice (R151). -/
def execPeerRequest (peer : Nat) (m : PeerMsg) (s : State) : Host.Outcome State Fault Refusal :=
  let refused : State := (s.freeze (.peer peer)).note (.refusedPeer peer)
  .next (
    if s.frozenPeers.contains peer || !s.served then s
    else
      match m with
      | .access seq a => if s.admitted peer a then s.peerAccess peer seq none a else refused
      | .covered h a => if s.admitted peer a then s.peerAccess peer none (some h) a else refused
      | .notice ident wm home => s.sendPacket ⟨ident, 0⟩ ⟨s.plat.devNum, home.die⟩ home.slice (.notice wm))

/-! ### Onaholt Link and the mesh (R141, R416, R417) -/

/-- Packets on a path that fails over may be lost or doubled, freely, one by one (log 2); the others go on by the port that is in use
then. -/
def failover (hit : Packet → Bool) : List Packet → State → State
  | [], s => s
  | p :: ps, s =>
    if !hit p then failover hit ps s
    else
      let (lost, s) := s.choose
      let (twice, s) := s.choose
      let s := if lost then s.dropPacket p.pid
        else
          let p : Packet := { p with port := p.port.bind fun _ => s.usePort p.home.device }
          let s := { s with packets := upd (fun (x : Packet) => x.pid == p.pid) (fun _ => p) s.packets }
          if twice then { s with packets := s.packets ++ [{ p with pid := s.nextPkt }], nextPkt := s.nextPkt + 1 } else s
      failover hit ps s

/-- LINK_PORT_FAILURE: the port's traffic moves to another port of the mask; posted writes are sent again, and a copy that has been
performed is discarded. A path of the die-to-die mesh fails over alike (R141, log 66). -/
def execLinkPortFailure (path : FailPath) (s : State) : Host.Outcome State Fault Refusal :=
  orStay s (match path with
    | .mesh => some (failover (fun p => p.port.isNone) s.packets s)
    | .port port =>
      if s.ports.any fun p => p.num == port && p.up then
        let s := { s with ports := upd (fun (p : Port) => p.num == port) (fun p => { p with up := false }) s.ports }
        some ((failover (fun p => p.port == some port) s.packets s).note (.resentPosted port))
      else none)

/-- FLIT_REPLAY: the link delivers each flit once all the same. -/
def execFlitReplay (port : Nat) (s : State) : Host.Outcome State Fault Refusal :=
  .next { s with ports := upd (fun (p : Port) => p.num == port && p.up) (fun p => { p with replays := p.replays + 1 }) s.ports }

/-- LINK_FLOW_CONTROL: stop at 16 free flit buffers, go at 32. -/
def execLinkFlowControl (port vl free : Nat) (s : State) : Host.Outcome State Fault Refusal :=
  let f (p : Port) : Port :=
    if free ≤ 16 then { p with stop := addNew p.stop vl } else if 32 ≤ free then { p with stop := drop (· == vl) p.stop } else p
  orStay s (if 4 ≤ vl then none
    else some { s with ports := upd (fun (p : Port) => p.num == port && p.up) f s.ports })

end Sys2Proof.Machine
end

