-- ==== Sys2Proof/Machine/EvPlatform.lean ====
section
/-!
DEFINITION. EvPlatform: the time stamp, firmware, resets, power and temperature (R155, R199, R420, R421, R427).
-/

namespace Sys2Proof.Machine

/-! ### Time (R420) -/

/-- How far a time lies from the nearest whole second, in ns; half way it counts as past it. -/
def ppsOffset (time : Nat) : Int :=
  let ns := time % 1000000000
  if ns ≤ 500000000 then (ns : Int) else (ns : Int) - 1000000000

/-- PPS_EDGE: Phobos measures the offset of the time from the nearest whole second, and slews it away; the clock is disciplined
again. -/
def execPpsEdge (offset : Int) (s : State) : Host.Outcome State Fault Refusal :=
  orStay s (if offset != ppsOffset s.time then none
    else some { s with plat := { s.plat with slew := s.plat.slew - offset, holdover := false, lastPps := some s.time } })

/-- TIMEADJ. -/
def execTimeadj (v : W64) (s : State) : Host.Outcome State Fault Refusal := .next (s.adjustTime v)

/-- TIMESET. -/
def execTimeset (v : W64) (s : State) : Host.Outcome State Fault Refusal := .next (s.setTime v)

/-- HOLDOVER: 2 s without an edge. -/
def execHoldover (s : State) : Host.Outcome State Fault Refusal :=
  orStay s (if s.plat.lastPps.getD 0 + 2000000000 ≤ s.time then some { s with plat := { s.plat with holdover := true } } else none)

/-- A part of the pending correction that 2,000ths of a ns allow: at most 500 ppm of the time in which they came up. -/
def slewIn (frac : Nat) (slew : Int) : Int :=
  let most : Int := (frac / 2000 : Nat)
  if slew < -most then -most else if most < slew then most else slew

/-- The groups of a state count a time as candidates: those that are candidates go on counting, and the others start again (R192,
R194). -/
def State.countWaits (s : State) (clocked : Nat) : State :=
  let count (w : Workgroup) (g : Group) : Group :=
    let on := s.ready trigTable w g
    { g with waited := if on then g.waited + clocked else 0, promoted := on && g.promoted }
  { s with wgs := s.wgs.map fun w => { w with groups := w.groups.map (count w) } }

/-- dt ns pass: the clock counts them, and the time stamp counts them with the correction that is slewed in. -/
def State.pass (s : State) (dt : Nat) : State :=
  let frac := if s.plat.slew == 0 then 0 else s.plat.slewFrac + dt
  let d := slewIn frac s.plat.slew
  let t : State := s.tick dt
  { t.countWaits (t.clocked - s.clocked) with
    time := ((s.time : Int) + (dt : Int) + d).toNat, plat := { s.plat with slew := s.plat.slew - d, slewFrac := frac % 2000 } }

/-! ### Firmware and resets (R155, R421) -/

/-- FIRMWARE_BOOT: the compute dies leave reset, or stay there with BOOTERR. -/
def execFirmwareBoot (image : FwImage) (s : State) : Host.Outcome State Fault Refusal :=
  orStay s (if s.plat.released then none else some (s.bootImage image).1)

/-- DEVICE_RESET: after a partition longer than the packet lifetime the homes restart and memory is intact; a reset of the
device leaves its memory and counts its incarnations on (log 32). -/
def execDeviceReset (partition : Bool) (s : State) : Host.Outcome State Fault Refusal :=
  if partition then .next ((List.range Config.numDies).foldl (fun s d => s.restartHome d) s)
  else
    .next { State.reset with
      agenda := s.agenda, draws := s.draws, mem := s.mem, badLines := s.badLines, refusing := s.refusing, rawUnits := s.rawUnits,
      unitKeys := s.unitKeys,
      incs := s.incs.map incAfter,
      plat := { State.reset.plat with step := s.plat.step, fwMin := s.plat.fwMin, celsius := s.plat.celsius, nextKey := s.plat.nextKey } }

/-! ### Power and temperature (R199, R427) -/

/-- POWER_GATING: the level of gating, in sixteenths, and the power reported with it. Phobos holds power to PCAP by gating: with more
than PCAP, gating rises, as far as it goes. -/
def execPowerGating (level power : Nat) (s : State) : Host.Outcome State Fault Refusal :=
  orStay s (if s.plat.pcap < power % 2 ^ 32 && level < min 15 (s.plat.gate + 1) then none
    else some { s with plat := { s.plat with gate := min 15 level, power := power % 2 ^ 32 } })

/-- THERMAL_LIMIT: from 95 °C gating is raised; at 110 °C every launch is killed and the dies halt. -/
def execThermalLimit (celsius : Nat) (s : State) : Host.Outcome State Fault Refusal :=
  let s := { s with plat := { s.plat with celsius := celsius } }
  if 110 ≤ celsius then
    let s := s.launches.foldl (fun (s : State) l => s.failLaunch l.lid 0x11) s
    .next { s with plat := { s.plat with halted := true } }
  else if 95 ≤ celsius then .next { s with plat := { s.plat with gate := min 15 (s.plat.gate + 1) } }
  else .next s

end Sys2Proof.Machine
end

