-- ==== Sys2Proof/Machine/Moves.lean ====
section
/-!
DEFINITION. Moves: the meaning of each instruction that has an encoding: the leader issues the bundle that holds this move
alone, on bus 0 (R192, R204, R211 to R221). What its trigger does is the definition of the same name in the unit's file.
-/

namespace Sys2Proof.Machine

/-- MOVE_VECTOR (R204). -/
def execMoveVector (v : BitVec 1) (r : BitVec 7) (m : Mv) (s : State) : Host.Outcome State Fault Refusal :=
  issueOne ((0 : BitVec 4) ++ v ++ r) m s

/-- MOVE_SCALAR_GUARD (R204). -/
def execMoveScalarGuard (r : BitVec 7) (m : Mv) (s : State) : Host.Outcome State Fault Refusal :=
  issueOne ((2 : BitVec 5) ++ r) m s

/-- MOVE_OPERAND (R203). -/
def execMoveOperand (u : BitVec 5) (p : BitVec 2) (m : Mv) (s : State) : Host.Outcome State Fault Refusal :=
  issueOne (u ++ (0 : BitVec 5) ++ p) m s

/-- A_ADD (R270). -/
def execAAdd (u : BitVec 1) (m : Mv) (s : State) : Host.Outcome State Fault Refusal :=
  issueOne ((2 : BitVec 4) ++ u ++ (0x04 : BitVec 7)) m s

/-- A_SUB (R270). -/
def execASub (u : BitVec 1) (m : Mv) (s : State) : Host.Outcome State Fault Refusal :=
  issueOne ((2 : BitVec 4) ++ u ++ (0x05 : BitVec 7)) m s

/-- A_ADDC (R270). -/
def execAAddc (u : BitVec 1) (m : Mv) (s : State) : Host.Outcome State Fault Refusal :=
  issueOne ((2 : BitVec 4) ++ u ++ (0x06 : BitVec 7)) m s

/-- A_SUBB (R270). -/
def execASubb (u : BitVec 1) (m : Mv) (s : State) : Host.Outcome State Fault Refusal :=
  issueOne ((2 : BitVec 4) ++ u ++ (0x07 : BitVec 7)) m s

/-- A_ADDS (R270). -/
def execAAdds (u : BitVec 1) (m : Mv) (s : State) : Host.Outcome State Fault Refusal :=
  issueOne ((2 : BitVec 4) ++ u ++ (0x08 : BitVec 7)) m s

/-- A_SUBS (R270). -/
def execASubs (u : BitVec 1) (m : Mv) (s : State) : Host.Outcome State Fault Refusal :=
  issueOne ((2 : BitVec 4) ++ u ++ (0x09 : BitVec 7)) m s

/-- A_ADDSN (R270). -/
def execAAddsn (u : BitVec 1) (m : Mv) (s : State) : Host.Outcome State Fault Refusal :=
  issueOne ((2 : BitVec 4) ++ u ++ (0x0A : BitVec 7)) m s

/-- A_SUBSN (R270). -/
def execASubsn (u : BitVec 1) (m : Mv) (s : State) : Host.Outcome State Fault Refusal :=
  issueOne ((2 : BitVec 4) ++ u ++ (0x0B : BitVec 7)) m s

/-- A_AND (R271). -/
def execAAnd (u : BitVec 1) (m : Mv) (s : State) : Host.Outcome State Fault Refusal :=
  issueOne ((2 : BitVec 4) ++ u ++ (0x0C : BitVec 7)) m s

/-- A_OR (R271). -/
def execAOr (u : BitVec 1) (m : Mv) (s : State) : Host.Outcome State Fault Refusal :=
  issueOne ((2 : BitVec 4) ++ u ++ (0x0D : BitVec 7)) m s

/-- A_XOR (R271). -/
def execAXor (u : BitVec 1) (m : Mv) (s : State) : Host.Outcome State Fault Refusal :=
  issueOne ((2 : BitVec 4) ++ u ++ (0x0E : BitVec 7)) m s

/-- A_ANDN (R271). -/
def execAAndn (u : BitVec 1) (m : Mv) (s : State) : Host.Outcome State Fault Refusal :=
  issueOne ((2 : BitVec 4) ++ u ++ (0x0F : BitVec 7)) m s

/-- A_SHL (R271). -/
def execAShl (u : BitVec 1) (m : Mv) (s : State) : Host.Outcome State Fault Refusal :=
  issueOne ((2 : BitVec 4) ++ u ++ (0x10 : BitVec 7)) m s

/-- A_SHR (R271). -/
def execAShr (u : BitVec 1) (m : Mv) (s : State) : Host.Outcome State Fault Refusal :=
  issueOne ((2 : BitVec 4) ++ u ++ (0x11 : BitVec 7)) m s

/-- A_SAR (R271). -/
def execASar (u : BitVec 1) (m : Mv) (s : State) : Host.Outcome State Fault Refusal :=
  issueOne ((2 : BitVec 4) ++ u ++ (0x12 : BitVec 7)) m s

/-- A_ROL (R271). -/
def execARol (u : BitVec 1) (m : Mv) (s : State) : Host.Outcome State Fault Refusal :=
  issueOne ((2 : BitVec 4) ++ u ++ (0x13 : BitVec 7)) m s

/-- A_MIN (R271). -/
def execAMin (u : BitVec 1) (m : Mv) (s : State) : Host.Outcome State Fault Refusal :=
  issueOne ((2 : BitVec 4) ++ u ++ (0x14 : BitVec 7)) m s

/-- A_MAX (R271). -/
def execAMax (u : BitVec 1) (m : Mv) (s : State) : Host.Outcome State Fault Refusal :=
  issueOne ((2 : BitVec 4) ++ u ++ (0x15 : BitVec 7)) m s

/-- A_MINN (R271). -/
def execAMinn (u : BitVec 1) (m : Mv) (s : State) : Host.Outcome State Fault Refusal :=
  issueOne ((2 : BitVec 4) ++ u ++ (0x16 : BitVec 7)) m s

/-- A_MAXN (R271). -/
def execAMaxn (u : BitVec 1) (m : Mv) (s : State) : Host.Outcome State Fault Refusal :=
  issueOne ((2 : BitVec 4) ++ u ++ (0x17 : BitVec 7)) m s

/-- A_ABS (R272). -/
def execAAbs (u : BitVec 1) (m : Mv) (s : State) : Host.Outcome State Fault Refusal :=
  issueOne ((2 : BitVec 4) ++ u ++ (0x18 : BitVec 7)) m s

/-- A_NEG (R272). -/
def execANeg (u : BitVec 1) (m : Mv) (s : State) : Host.Outcome State Fault Refusal :=
  issueOne ((2 : BitVec 4) ++ u ++ (0x19 : BitVec 7)) m s

/-- A_CLZ (R272). -/
def execAClz (u : BitVec 1) (m : Mv) (s : State) : Host.Outcome State Fault Refusal :=
  issueOne ((2 : BitVec 4) ++ u ++ (0x1A : BitVec 7)) m s

/-- A_POPC (R272). -/
def execAPopc (u : BitVec 1) (m : Mv) (s : State) : Host.Outcome State Fault Refusal :=
  issueOne ((2 : BitVec 4) ++ u ++ (0x1B : BitVec 7)) m s

/-- A_BREV (R272). -/
def execABrev (u : BitVec 1) (m : Mv) (s : State) : Host.Outcome State Fault Refusal :=
  issueOne ((2 : BitVec 4) ++ u ++ (0x1C : BitVec 7)) m s

/-- A_SEL (R273). -/
def execASel (u : BitVec 1) (m : Mv) (s : State) : Host.Outcome State Fault Refusal :=
  issueOne ((2 : BitVec 4) ++ u ++ (0x1D : BitVec 7)) m s

/-- A_BEXT (R273). -/
def execABext (u : BitVec 1) (m : Mv) (s : State) : Host.Outcome State Fault Refusal :=
  issueOne ((2 : BitVec 4) ++ u ++ (0x1E : BitVec 7)) m s

/-- A_BINS (R273). -/
def execABins (u : BitVec 1) (m : Mv) (s : State) : Host.Outcome State Fault Refusal :=
  issueOne ((2 : BitVec 4) ++ u ++ (0x1F : BitVec 7)) m s

/-- A_ADD64 (R270). -/
def execAAdd64 (u : BitVec 1) (m : Mv) (s : State) : Host.Outcome State Fault Refusal :=
  issueOne ((2 : BitVec 4) ++ u ++ (0x20 : BitVec 7)) m s

/-- A_SUB64 (R270). -/
def execASub64 (u : BitVec 1) (m : Mv) (s : State) : Host.Outcome State Fault Refusal :=
  issueOne ((2 : BitVec 4) ++ u ++ (0x21 : BitVec 7)) m s

/-- A_PASS (R270). -/
def execAPass (u : BitVec 1) (m : Mv) (s : State) : Host.Outcome State Fault Refusal :=
  issueOne ((2 : BitVec 4) ++ u ++ (0x22 : BitVec 7)) m s

/-- M0_MUL (R274). -/
def execM0Mul (m : Mv) (s : State) : Host.Outcome State Fault Refusal := issueOne 0x304 m s

/-- M0_MULHI (R274). -/
def execM0Mulhi (m : Mv) (s : State) : Host.Outcome State Fault Refusal := issueOne 0x305 m s

/-- M0_MULHIN (R274). -/
def execM0Mulhin (m : Mv) (s : State) : Host.Outcome State Fault Refusal := issueOne 0x306 m s

/-- M0_MULW (R274). -/
def execM0Mulw (m : Mv) (s : State) : Host.Outcome State Fault Refusal := issueOne 0x307 m s

/-- M0_MAD (R274). -/
def execM0Mad (m : Mv) (s : State) : Host.Outcome State Fault Refusal := issueOne 0x308 m s

/-- M0_LEA (R274). -/
def execM0Lea (m : Mv) (s : State) : Host.Outcome State Fault Refusal := issueOne 0x309 m s

/-- M0_DIV (R275). -/
def execM0Div (m : Mv) (s : State) : Host.Outcome State Fault Refusal := issueOne 0x30A m s

/-- M0_DIVN (R275). -/
def execM0Divn (m : Mv) (s : State) : Host.Outcome State Fault Refusal := issueOne 0x30B m s

/-- F0_ADD (R276). -/
def execF0Add (m : Mv) (s : State) : Host.Outcome State Fault Refusal := issueOne 0x384 m s

/-- F0_SUB (R276). -/
def execF0Sub (m : Mv) (s : State) : Host.Outcome State Fault Refusal := issueOne 0x385 m s

/-- F0_MUL (R276). -/
def execF0Mul (m : Mv) (s : State) : Host.Outcome State Fault Refusal := issueOne 0x386 m s

/-- F0_FMA (R276). -/
def execF0Fma (m : Mv) (s : State) : Host.Outcome State Fault Refusal := issueOne 0x387 m s

/-- F0_FMS (R276). -/
def execF0Fms (m : Mv) (s : State) : Host.Outcome State Fault Refusal := issueOne 0x388 m s

/-- F0_FNMA (R276). -/
def execF0Fnma (m : Mv) (s : State) : Host.Outcome State Fault Refusal := issueOne 0x389 m s

/-- F0_MIN (R277). -/
def execF0Min (m : Mv) (s : State) : Host.Outcome State Fault Refusal := issueOne 0x38A m s

/-- F0_MAX (R277). -/
def execF0Max (m : Mv) (s : State) : Host.Outcome State Fault Refusal := issueOne 0x38B m s

/-- F0_ABS (R277). -/
def execF0Abs (m : Mv) (s : State) : Host.Outcome State Fault Refusal := issueOne 0x38C m s

/-- F0_NEG (R277). -/
def execF0Neg (m : Mv) (s : State) : Host.Outcome State Fault Refusal := issueOne 0x38D m s

/-- F0_CSGN (R277). -/
def execF0Csgn (m : Mv) (s : State) : Host.Outcome State Fault Refusal := issueOne 0x38E m s

/-- F0_FLOOR (R278). -/
def execF0Floor (m : Mv) (s : State) : Host.Outcome State Fault Refusal := issueOne 0x38F m s

/-- F0_CEIL (R278). -/
def execF0Ceil (m : Mv) (s : State) : Host.Outcome State Fault Refusal := issueOne 0x390 m s

/-- F0_TRUNC (R278). -/
def execF0Trunc (m : Mv) (s : State) : Host.Outcome State Fault Refusal := issueOne 0x391 m s

/-- F0_RINT (R278). -/
def execF0Rint (m : Mv) (s : State) : Host.Outcome State Fault Refusal := issueOne 0x392 m s

/-- F0_CVTIF (R279). -/
def execF0Cvtif (m : Mv) (s : State) : Host.Outcome State Fault Refusal := issueOne 0x393 m s

/-- F0_CVTNF (R279). -/
def execF0Cvtnf (m : Mv) (s : State) : Host.Outcome State Fault Refusal := issueOne 0x394 m s

/-- F0_CVTFI (R279). -/
def execF0Cvtfi (m : Mv) (s : State) : Host.Outcome State Fault Refusal := issueOne 0x395 m s

/-- F0_CVTFN (R279). -/
def execF0Cvtfn (m : Mv) (s : State) : Host.Outcome State Fault Refusal := issueOne 0x396 m s

/-- F0_CVTH (R279). -/
def execF0Cvth (m : Mv) (s : State) : Host.Outcome State Fault Refusal := issueOne 0x397 m s

/-- F0_CVTB (R279). -/
def execF0Cvtb (m : Mv) (s : State) : Host.Outcome State Fault Refusal := issueOne 0x398 m s

/-- F0_CVTE4 (R279). -/
def execF0Cvte4 (m : Mv) (s : State) : Host.Outcome State Fault Refusal := issueOne 0x399 m s

/-- F0_CVTE5 (R279). -/
def execF0Cvte5 (m : Mv) (s : State) : Host.Outcome State Fault Refusal := issueOne 0x39A m s

/-- F0_CVTF4 (R279). -/
def execF0Cvtf4 (m : Mv) (s : State) : Host.Outcome State Fault Refusal := issueOne 0x39B m s

/-- F0_CVTHF (R279). -/
def execF0Cvthf (m : Mv) (s : State) : Host.Outcome State Fault Refusal := issueOne 0x39C m s

/-- F0_CVTBF (R279). -/
def execF0Cvtbf (m : Mv) (s : State) : Host.Outcome State Fault Refusal := issueOne 0x39D m s

/-- F0_CVTE4F (R279). -/
def execF0Cvte4f (m : Mv) (s : State) : Host.Outcome State Fault Refusal := issueOne 0x39E m s

/-- F0_CVTE5F (R279). -/
def execF0Cvte5f (m : Mv) (s : State) : Host.Outcome State Fault Refusal := issueOne 0x39F m s

/-- F0_CVTF4F (R279). -/
def execF0Cvtf4f (m : Mv) (s : State) : Host.Outcome State Fault Refusal := issueOne 0x3A0 m s

/-- F0_HADD2 (R280). -/
def execF0Hadd2 (m : Mv) (s : State) : Host.Outcome State Fault Refusal := issueOne 0x3A1 m s

/-- F0_HFMA2 (R280). -/
def execF0Hfma2 (m : Mv) (s : State) : Host.Outcome State Fault Refusal := issueOne 0x3A2 m s

/-- F0_BFMA2 (R280). -/
def execF0Bfma2 (m : Mv) (s : State) : Host.Outcome State Fault Refusal := issueOne 0x3A3 m s

/-- F1_ADD (R276). -/
def execF1Add (m : Mv) (s : State) : Host.Outcome State Fault Refusal := issueOne 0x404 m s

/-- F1_SUB (R276). -/
def execF1Sub (m : Mv) (s : State) : Host.Outcome State Fault Refusal := issueOne 0x405 m s

/-- F1_MUL (R276). -/
def execF1Mul (m : Mv) (s : State) : Host.Outcome State Fault Refusal := issueOne 0x406 m s

/-- F1_FMA (R276). -/
def execF1Fma (m : Mv) (s : State) : Host.Outcome State Fault Refusal := issueOne 0x407 m s

/-- F1_FMS (R276). -/
def execF1Fms (m : Mv) (s : State) : Host.Outcome State Fault Refusal := issueOne 0x408 m s

/-- F1_FNMA (R276). -/
def execF1Fnma (m : Mv) (s : State) : Host.Outcome State Fault Refusal := issueOne 0x409 m s

/-- F1_MIN (R277). -/
def execF1Min (m : Mv) (s : State) : Host.Outcome State Fault Refusal := issueOne 0x40A m s

/-- F1_MAX (R277). -/
def execF1Max (m : Mv) (s : State) : Host.Outcome State Fault Refusal := issueOne 0x40B m s

/-- F1_ABS (R277). -/
def execF1Abs (m : Mv) (s : State) : Host.Outcome State Fault Refusal := issueOne 0x40C m s

/-- F1_NEG (R277). -/
def execF1Neg (m : Mv) (s : State) : Host.Outcome State Fault Refusal := issueOne 0x40D m s

/-- F1_CSGN (R277). -/
def execF1Csgn (m : Mv) (s : State) : Host.Outcome State Fault Refusal := issueOne 0x40E m s

/-- F1_FLOOR (R278). -/
def execF1Floor (m : Mv) (s : State) : Host.Outcome State Fault Refusal := issueOne 0x40F m s

/-- F1_CEIL (R278). -/
def execF1Ceil (m : Mv) (s : State) : Host.Outcome State Fault Refusal := issueOne 0x410 m s

/-- F1_TRUNC (R278). -/
def execF1Trunc (m : Mv) (s : State) : Host.Outcome State Fault Refusal := issueOne 0x411 m s

/-- F1_RINT (R278). -/
def execF1Rint (m : Mv) (s : State) : Host.Outcome State Fault Refusal := issueOne 0x412 m s

/-- F1_CVTIF (R279). -/
def execF1Cvtif (m : Mv) (s : State) : Host.Outcome State Fault Refusal := issueOne 0x413 m s

/-- F1_CVTNF (R279). -/
def execF1Cvtnf (m : Mv) (s : State) : Host.Outcome State Fault Refusal := issueOne 0x414 m s

/-- F1_CVTFI (R279). -/
def execF1Cvtfi (m : Mv) (s : State) : Host.Outcome State Fault Refusal := issueOne 0x415 m s

/-- F1_CVTFN (R279). -/
def execF1Cvtfn (m : Mv) (s : State) : Host.Outcome State Fault Refusal := issueOne 0x416 m s

/-- F1_CVTH (R279). -/
def execF1Cvth (m : Mv) (s : State) : Host.Outcome State Fault Refusal := issueOne 0x417 m s

/-- F1_CVTB (R279). -/
def execF1Cvtb (m : Mv) (s : State) : Host.Outcome State Fault Refusal := issueOne 0x418 m s

/-- F1_CVTE4 (R279). -/
def execF1Cvte4 (m : Mv) (s : State) : Host.Outcome State Fault Refusal := issueOne 0x419 m s

/-- F1_CVTE5 (R279). -/
def execF1Cvte5 (m : Mv) (s : State) : Host.Outcome State Fault Refusal := issueOne 0x41A m s

/-- F1_CVTF4 (R279). -/
def execF1Cvtf4 (m : Mv) (s : State) : Host.Outcome State Fault Refusal := issueOne 0x41B m s

/-- F1_CVTHF (R279). -/
def execF1Cvthf (m : Mv) (s : State) : Host.Outcome State Fault Refusal := issueOne 0x41C m s

/-- F1_CVTBF (R279). -/
def execF1Cvtbf (m : Mv) (s : State) : Host.Outcome State Fault Refusal := issueOne 0x41D m s

/-- F1_CVTE4F (R279). -/
def execF1Cvte4f (m : Mv) (s : State) : Host.Outcome State Fault Refusal := issueOne 0x41E m s

/-- F1_CVTE5F (R279). -/
def execF1Cvte5f (m : Mv) (s : State) : Host.Outcome State Fault Refusal := issueOne 0x41F m s

/-- F1_CVTF4F (R279). -/
def execF1Cvtf4f (m : Mv) (s : State) : Host.Outcome State Fault Refusal := issueOne 0x420 m s

/-- F1_HADD2 (R280). -/
def execF1Hadd2 (m : Mv) (s : State) : Host.Outcome State Fault Refusal := issueOne 0x421 m s

/-- F1_HFMA2 (R280). -/
def execF1Hfma2 (m : Mv) (s : State) : Host.Outcome State Fault Refusal := issueOne 0x422 m s

/-- F1_BFMA2 (R280). -/
def execF1Bfma2 (m : Mv) (s : State) : Host.Outcome State Fault Refusal := issueOne 0x423 m s

/-- X0_RCP (R282). -/
def execX0Rcp (m : Mv) (s : State) : Host.Outcome State Fault Refusal := issueOne 0x484 m s

/-- X0_RSQRT (R282). -/
def execX0Rsqrt (m : Mv) (s : State) : Host.Outcome State Fault Refusal := issueOne 0x485 m s

/-- X0_SQRT (R282). -/
def execX0Sqrt (m : Mv) (s : State) : Host.Outcome State Fault Refusal := issueOne 0x486 m s

/-- X0_EXP2 (R282). -/
def execX0Exp2 (m : Mv) (s : State) : Host.Outcome State Fault Refusal := issueOne 0x487 m s

/-- X0_LOG2 (R282). -/
def execX0Log2 (m : Mv) (s : State) : Host.Outcome State Fault Refusal := issueOne 0x488 m s

/-- X0_SINPI (R282). -/
def execX0Sinpi (m : Mv) (s : State) : Host.Outcome State Fault Refusal := issueOne 0x489 m s

/-- X0_COSPI (R282). -/
def execX0Cospi (m : Mv) (s : State) : Host.Outcome State Fault Refusal := issueOne 0x48A m s

/-- X0_TANH (R282). -/
def execX0Tanh (m : Mv) (s : State) : Host.Outcome State Fault Refusal := issueOne 0x48B m s

/-- X0_SIGM (R282). -/
def execX0Sigm (m : Mv) (s : State) : Host.Outcome State Fault Refusal := issueOne 0x48C m s

/-- X0_GELU (R282). -/
def execX0Gelu (m : Mv) (s : State) : Host.Outcome State Fault Refusal := issueOne 0x48D m s

/-- X0_FDIV (R282). -/
def execX0Fdiv (m : Mv) (s : State) : Host.Outcome State Fault Refusal := issueOne 0x48E m s

/-- X0_TWID (R264). -/
def execX0Twid (m : Mv) (s : State) : Host.Outcome State Fault Refusal := issueOne 0x48F m s

/-- X0_RND (R283). -/
def execX0Rnd (m : Mv) (s : State) : Host.Outcome State Fault Refusal := issueOne 0x490 m s

/-- X0_SEED (R283). -/
def execX0Seed (m : Mv) (s : State) : Host.Outcome State Fault Refusal := issueOne 0x491 m s

/-- C0_EQ (R284). -/
def execC0Eq (m : Mv) (s : State) : Host.Outcome State Fault Refusal := issueOne 0x504 m s

/-- C0_NE (R284). -/
def execC0Ne (m : Mv) (s : State) : Host.Outcome State Fault Refusal := issueOne 0x505 m s

/-- C0_LT (R284). -/
def execC0Lt (m : Mv) (s : State) : Host.Outcome State Fault Refusal := issueOne 0x506 m s

/-- C0_LE (R284). -/
def execC0Le (m : Mv) (s : State) : Host.Outcome State Fault Refusal := issueOne 0x507 m s

/-- C0_LTN (R284). -/
def execC0Ltn (m : Mv) (s : State) : Host.Outcome State Fault Refusal := issueOne 0x508 m s

/-- C0_LEN (R284). -/
def execC0Len (m : Mv) (s : State) : Host.Outcome State Fault Refusal := issueOne 0x509 m s

/-- C0_FEQ (R285). -/
def execC0Feq (m : Mv) (s : State) : Host.Outcome State Fault Refusal := issueOne 0x50A m s

/-- C0_FNE (R285). -/
def execC0Fne (m : Mv) (s : State) : Host.Outcome State Fault Refusal := issueOne 0x50B m s

/-- C0_FLT (R285). -/
def execC0Flt (m : Mv) (s : State) : Host.Outcome State Fault Refusal := issueOne 0x50C m s

/-- C0_FLE (R285). -/
def execC0Fle (m : Mv) (s : State) : Host.Outcome State Fault Refusal := issueOne 0x50D m s

/-- C0_FUN (R285). -/
def execC0Fun (m : Mv) (s : State) : Host.Outcome State Fault Refusal := issueOne 0x50E m s

/-- C0_FCLS (R286). -/
def execC0Fcls (m : Mv) (s : State) : Host.Outcome State Fault Refusal := issueOne 0x50F m s

/-- C0_BTST (R286). -/
def execC0Btst (m : Mv) (s : State) : Host.Outcome State Fault Refusal := issueOne 0x510 m s

/-- C0_EQ64 (R284). -/
def execC0Eq64 (m : Mv) (s : State) : Host.Outcome State Fault Refusal := issueOne 0x511 m s

/-- C0_LT64 (R284). -/
def execC0Lt64 (m : Mv) (s : State) : Host.Outcome State Fault Refusal := issueOne 0x512 m s

/-- C0_LTN64 (R284). -/
def execC0Ltn64 (m : Mv) (s : State) : Host.Outcome State Fault Refusal := issueOne 0x513 m s

/-- P0_IDX (R287). -/
def execP0Idx (m : Mv) (s : State) : Host.Outcome State Fault Refusal := issueOne 0x584 m s

/-- P0_SCAN (R288). -/
def execP0Scan (m : Mv) (s : State) : Host.Outcome State Fault Refusal := issueOne 0x585 m s

/-- P0_SCANF (R288). -/
def execP0Scanf (m : Mv) (s : State) : Host.Outcome State Fault Refusal := issueOne 0x586 m s

/-- P0_REDADD (R288). -/
def execP0Redadd (m : Mv) (s : State) : Host.Outcome State Fault Refusal := issueOne 0x587 m s

/-- P0_REDMAX (R288). -/
def execP0Redmax (m : Mv) (s : State) : Host.Outcome State Fault Refusal := issueOne 0x588 m s

/-- P0_REDMIN (R288). -/
def execP0Redmin (m : Mv) (s : State) : Host.Outcome State Fault Refusal := issueOne 0x589 m s

/-- P0_BALLOT (R289). -/
def execP0Ballot (m : Mv) (s : State) : Host.Outcome State Fault Refusal := issueOne 0x58A m s

/-- P0_POPL (R289). -/
def execP0Popl (m : Mv) (s : State) : Host.Outcome State Fault Refusal := issueOne 0x58B m s

/-- P0_PACK8 (R290). -/
def execP0Pack8 (m : Mv) (s : State) : Host.Outcome State Fault Refusal := issueOne 0x58C m s

/-- P0_UNPK8 (R290). -/
def execP0Unpk8 (m : Mv) (s : State) : Host.Outcome State Fault Refusal := issueOne 0x58D m s

/-- BF_DIT2 (R293). -/
def execBfDit2 (m : Mv) (s : State) : Host.Outcome State Fault Refusal := issueOne 0x984 m s

/-- BF_DIF2 (R294). -/
def execBfDif2 (m : Mv) (s : State) : Host.Outcome State Fault Refusal := issueOne 0x985 m s

/-- BF_FFT4E (R295). -/
def execBfFft4e (m : Mv) (s : State) : Host.Outcome State Fault Refusal := issueOne 0x986 m s

/-- BF_FFT4O (R295). -/
def execBfFft4o (m : Mv) (s : State) : Host.Outcome State Fault Refusal := issueOne 0x987 m s

/-- BF_CMUL (R292). -/
def execBfCmul (m : Mv) (s : State) : Host.Outcome State Fault Refusal := issueOne 0x988 m s

/-- BF_CMULC (R292). -/
def execBfCmulc (m : Mv) (s : State) : Host.Outcome State Fault Refusal := issueOne 0x989 m s

/-- LD_L8 (R301). -/
def execLdL8 (m : Mv) (s : State) : Host.Outcome State Fault Refusal := issueOne 0x604 m s

/-- LD_L8N (R301). -/
def execLdL8n (m : Mv) (s : State) : Host.Outcome State Fault Refusal := issueOne 0x605 m s

/-- LD_L16 (R301). -/
def execLdL16 (m : Mv) (s : State) : Host.Outcome State Fault Refusal := issueOne 0x606 m s

/-- LD_L16N (R301). -/
def execLdL16n (m : Mv) (s : State) : Host.Outcome State Fault Refusal := issueOne 0x607 m s

/-- LD_L32 (R301). -/
def execLdL32 (m : Mv) (s : State) : Host.Outcome State Fault Refusal := issueOne 0x608 m s

/-- LD_L64 (R301). -/
def execLdL64 (m : Mv) (s : State) : Host.Outcome State Fault Refusal := issueOne 0x609 m s

/-- LD_S8 (R302). -/
def execLdS8 (m : Mv) (s : State) : Host.Outcome State Fault Refusal := issueOne 0x60A m s

/-- LD_S16 (R302). -/
def execLdS16 (m : Mv) (s : State) : Host.Outcome State Fault Refusal := issueOne 0x60B m s

/-- LD_S32 (R302). -/
def execLdS32 (m : Mv) (s : State) : Host.Outcome State Fault Refusal := issueOne 0x60C m s

/-- LD_S64 (R302). -/
def execLdS64 (m : Mv) (s : State) : Host.Outcome State Fault Refusal := issueOne 0x60D m s

/-- LD_FEACQ (R305). -/
def execLdFeacq (m : Mv) (s : State) : Host.Outcome State Fault Refusal := issueOne 0x60E m s

/-- LD_FEREL (R305). -/
def execLdFerel (m : Mv) (s : State) : Host.Outcome State Fault Refusal := issueOne 0x60F m s

/-- LD_FEFULL (R305). -/
def execLdFefull (m : Mv) (s : State) : Host.Outcome State Fault Refusal := issueOne 0x610 m s

/-- LD_PGSTATE (R78). -/
def execLdPgstate (m : Mv) (s : State) : Host.Outcome State Fault Refusal := issueOne 0x630 m s

/-- CP_G2S (R311). -/
def execCpG2s (m : Mv) (s : State) : Host.Outcome State Fault Refusal := issueOne 0x684 m s

/-- CP_S2G (R311). -/
def execCpS2g (m : Mv) (s : State) : Host.Outcome State Fault Refusal := issueOne 0x685 m s

/-- CP_S2S (R311). -/
def execCpS2s (m : Mv) (s : State) : Host.Outcome State Fault Refusal := issueOne 0x686 m s

/-- CP_SHAPE (R310). -/
def execCpShape (m : Mv) (s : State) : Host.Outcome State Fault Refusal := issueOne 0x687 m s

/-- CP_SEAL (R314). -/
def execCpSeal (m : Mv) (s : State) : Host.Outcome State Fault Refusal := issueOne 0x688 m s

/-- CP_WAIT (R314). -/
def execCpWait (m : Mv) (s : State) : Host.Outcome State Fault Refusal := issueOne 0x689 m s

/-- CP_WPTR (R316). -/
def execCpWptr (m : Mv) (s : State) : Host.Outcome State Fault Refusal := issueOne 0x68A m s

/-- CP_BAR (R317). -/
def execCpBar (m : Mv) (s : State) : Host.Outcome State Fault Refusal := issueOne 0x68B m s

/-- Q0_PUSH (R322). -/
def execQ0Push (m : Mv) (s : State) : Host.Outcome State Fault Refusal := issueOne 0x704 m s

/-- Q0_POP (R322). -/
def execQ0Pop (m : Mv) (s : State) : Host.Outcome State Fault Refusal := issueOne 0x705 m s

/-- Q0_TRYPUSH (R322). -/
def execQ0Trypush (m : Mv) (s : State) : Host.Outcome State Fault Refusal := issueOne 0x706 m s

/-- Q0_TRYPOP (R322). -/
def execQ0Trypop (m : Mv) (s : State) : Host.Outcome State Fault Refusal := issueOne 0x707 m s

/-- Q0_QINIT (R321). -/
def execQ0Qinit (m : Mv) (s : State) : Host.Outcome State Fault Refusal := issueOne 0x708 m s

/-- Q0_QINVAL (R321). -/
def execQ0Qinval (m : Mv) (s : State) : Host.Outcome State Fault Refusal := issueOne 0x709 m s

/-- MX_CFG (R376). -/
def execMxCfg (m : Mv) (s : State) : Host.Outcome State Fault Refusal := issueOne 0x784 m s

/-- MX_FMT (R376). -/
def execMxFmt (m : Mv) (s : State) : Host.Outcome State Fault Refusal := issueOne 0x785 m s

/-- MX_GO (R377). -/
def execMxGo (m : Mv) (s : State) : Host.Outcome State Fault Refusal := issueOne 0x786 m s

/-- MX_WAIT (R378). -/
def execMxWait (m : Mv) (s : State) : Host.Outcome State Fault Refusal := issueOne 0x787 m s

/-- MX_POLL (R378). -/
def execMxPoll (m : Mv) (s : State) : Host.Outcome State Fault Refusal := issueOne 0x788 m s

/-- MX_STAT (R379). -/
def execMxStat (m : Mv) (s : State) : Host.Outcome State Fault Refusal := issueOne 0x789 m s

/-- MX_BANK (R379). -/
def execMxBank (m : Mv) (s : State) : Host.Outcome State Fault Refusal := issueOne 0x78A m s

/-- MX_RESET (R379). -/
def execMxReset (m : Mv) (s : State) : Host.Outcome State Fault Refusal := issueOne 0x78B m s

/-- AM_SWAP (R306). -/
def execAmSwap (m : Mv) (s : State) : Host.Outcome State Fault Refusal := issueOne 0x804 m s

/-- AM_SWAP64 (R306). -/
def execAmSwap64 (m : Mv) (s : State) : Host.Outcome State Fault Refusal := issueOne 0x805 m s

/-- AM_CAS (R306). -/
def execAmCas (m : Mv) (s : State) : Host.Outcome State Fault Refusal := issueOne 0x806 m s

/-- AM_CAS64 (R306). -/
def execAmCas64 (m : Mv) (s : State) : Host.Outcome State Fault Refusal := issueOne 0x807 m s

/-- AM_ADD (R306). -/
def execAmAdd (m : Mv) (s : State) : Host.Outcome State Fault Refusal := issueOne 0x808 m s

/-- AM_ADD64 (R306). -/
def execAmAdd64 (m : Mv) (s : State) : Host.Outcome State Fault Refusal := issueOne 0x809 m s

/-- AM_AND (R306). -/
def execAmAnd (m : Mv) (s : State) : Host.Outcome State Fault Refusal := issueOne 0x80A m s

/-- AM_OR (R306). -/
def execAmOr (m : Mv) (s : State) : Host.Outcome State Fault Refusal := issueOne 0x80B m s

/-- AM_XOR (R306). -/
def execAmXor (m : Mv) (s : State) : Host.Outcome State Fault Refusal := issueOne 0x80C m s

/-- AM_MIN (R306). -/
def execAmMin (m : Mv) (s : State) : Host.Outcome State Fault Refusal := issueOne 0x80D m s

/-- AM_MAX (R306). -/
def execAmMax (m : Mv) (s : State) : Host.Outcome State Fault Refusal := issueOne 0x80E m s

/-- AM_FADD (R306). -/
def execAmFadd (m : Mv) (s : State) : Host.Outcome State Fault Refusal := issueOne 0x80F m s

/-- AM_RADD (R306). -/
def execAmRadd (m : Mv) (s : State) : Host.Outcome State Fault Refusal := issueOne 0x810 m s

/-- AM_RADD64 (R306). -/
def execAmRadd64 (m : Mv) (s : State) : Host.Outcome State Fault Refusal := issueOne 0x811 m s

/-- AM_RFADD (R306). -/
def execAmRfadd (m : Mv) (s : State) : Host.Outcome State Fault Refusal := issueOne 0x812 m s

/-- AM_RMAX (R306). -/
def execAmRmax (m : Mv) (s : State) : Host.Outcome State Fault Refusal := issueOne 0x813 m s

/-- AM_ACINIT (R163). -/
def execAmAcinit (m : Mv) (s : State) : Host.Outcome State Fault Refusal := issueOne 0x814 m s

/-- AM_ACTAKE (R164). -/
def execAmActake (m : Mv) (s : State) : Host.Outcome State Fault Refusal := issueOne 0x815 m s

/-- AM_ACGIVE (R168). -/
def execAmAcgive (m : Mv) (s : State) : Host.Outcome State Fault Refusal := issueOne 0x816 m s

/-- AM_ACREAD (R170). -/
def execAmAcread (m : Mv) (s : State) : Host.Outcome State Fault Refusal := issueOne 0x817 m s

/-- AM_ACPEEK (R171). -/
def execAmAcpeek (m : Mv) (s : State) : Host.Outcome State Fault Refusal := issueOne 0x818 m s

/-- AM_ACFREE (R173). -/
def execAmAcfree (m : Mv) (s : State) : Host.Outcome State Fault Refusal := issueOne 0x819 m s

/-- XE_OPEN (R324). -/
def execXeOpen (m : Mv) (s : State) : Host.Outcome State Fault Refusal := issueOne 0x884 m s

/-- XE_SEND (R326). -/
def execXeSend (m : Mv) (s : State) : Host.Outcome State Fault Refusal := issueOne 0x885 m s

/-- XE_SEL (R327). -/
def execXeSel (m : Mv) (s : State) : Host.Outcome State Fault Refusal := issueOne 0x886 m s

/-- XE_CLOSE (R328). -/
def execXeClose (m : Mv) (s : State) : Host.Outcome State Fault Refusal := issueOne 0x887 m s

/-- XE_IDLE (R329). -/
def execXeIdle (m : Mv) (s : State) : Host.Outcome State Fault Refusal := issueOne 0x888 m s

/-- XE_CLR (R329). -/
def execXeClr (m : Mv) (s : State) : Host.Outcome State Fault Refusal := issueOne 0x889 m s

/-- SY_JMP (R334). -/
def execSyJmp (m : Mv) (s : State) : Host.Outcome State Fault Refusal := issueOne 0x904 m s

/-- SY_BR (R334). -/
def execSyBr (m : Mv) (s : State) : Host.Outcome State Fault Refusal := issueOne 0x905 m s

/-- SY_CALL (R338). -/
def execSyCall (m : Mv) (s : State) : Host.Outcome State Fault Refusal := issueOne 0x906 m s

/-- SY_RET (R339). -/
def execSyRet (m : Mv) (s : State) : Host.Outcome State Fault Refusal := issueOne 0x907 m s

/-- SY_MARK (R337). -/
def execSyMark (m : Mv) (s : State) : Host.Outcome State Fault Refusal := issueOne 0x908 m s

/-- SY_JOIN (R337). -/
def execSyJoin (m : Mv) (s : State) : Host.Outcome State Fault Refusal := issueOne 0x909 m s

/-- SY_LOOP (R340). -/
def execSyLoop (m : Mv) (s : State) : Host.Outcome State Fault Refusal := issueOne 0x90A m s

/-- SY_BRK (R342). -/
def execSyBrk (m : Mv) (s : State) : Host.Outcome State Fault Refusal := issueOne 0x90B m s

/-- SY_BAR (R346). -/
def execSyBar (m : Mv) (s : State) : Host.Outcome State Fault Refusal := issueOne 0x90C m s

/-- SY_BARAR (R346). -/
def execSyBarar (m : Mv) (s : State) : Host.Outcome State Fault Refusal := issueOne 0x90D m s

/-- SY_BARWT (R346). -/
def execSyBarwt (m : Mv) (s : State) : Host.Outcome State Fault Refusal := issueOne 0x90E m s

/-- SY_BARINIT (R345). -/
def execSyBarinit (m : Mv) (s : State) : Host.Outcome State Fault Refusal := issueOne 0x90F m s

/-- SY_BARINV (R345). -/
def execSyBarinv (m : Mv) (s : State) : Host.Outcome State Fault Refusal := issueOne 0x910 m s

/-- SY_CBAR (R346). -/
def execSyCbar (m : Mv) (s : State) : Host.Outcome State Fault Refusal := issueOne 0x911 m s

/-- SY_CBARAR (R346). -/
def execSyCbarar (m : Mv) (s : State) : Host.Outcome State Fault Refusal := issueOne 0x912 m s

/-- SY_CBARINIT (R345). -/
def execSyCbarinit (m : Mv) (s : State) : Host.Outcome State Fault Refusal := issueOne 0x913 m s

/-- SY_CBARINV (R345). -/
def execSyCbarinv (m : Mv) (s : State) : Host.Outcome State Fault Refusal := issueOne 0x914 m s

/-- SY_WAIT (R348). -/
def execSyWait (m : Mv) (s : State) : Host.Outcome State Fault Refusal := issueOne 0x915 m s

/-- SY_TIME (R349). -/
def execSyTime (m : Mv) (s : State) : Host.Outcome State Fault Refusal := issueOne 0x916 m s

/-- SY_TRAP (R350). -/
def execSyTrap (m : Mv) (s : State) : Host.Outcome State Fault Refusal := issueOne 0x917 m s

/-- SY_CHKERR (R351). -/
def execSyChkerr (m : Mv) (s : State) : Host.Outcome State Fault Refusal := issueOne 0x918 m s

/-- SY_SEGCHK (R352). -/
def execSySegchk (m : Mv) (s : State) : Host.Outcome State Fault Refusal := issueOne 0x919 m s

/-- SY_END (R354). -/
def execSyEnd (m : Mv) (s : State) : Host.Outcome State Fault Refusal := issueOne 0x91A m s

/-- SY_ICINV (R355). -/
def execSyIcinv (m : Mv) (s : State) : Host.Outcome State Fault Refusal := issueOne 0x91B m s

/-- SY_GSTAT (R356). -/
def execSyGstat (m : Mv) (s : State) : Host.Outcome State Fault Refusal := issueOne 0x91C m s

/-- SY_RFE (R397). -/
def execSyRfe (m : Mv) (s : State) : Host.Outcome State Fault Refusal := issueOne 0x91D m s

/-- SY_YIELD (R356). -/
def execSyYield (m : Mv) (s : State) : Host.Outcome State Fault Refusal := issueOne 0x91E m s

/-- SY_TREC (R356). -/
def execSyTrec (m : Mv) (s : State) : Host.Outcome State Fault Refusal := issueOne 0x91F m s

/-- SY_DBG (R356). -/
def execSyDbg (m : Mv) (s : State) : Host.Outcome State Fault Refusal := issueOne 0x920 m s

end Sys2Proof.Machine
end

