-- ==== Sys2Proof/Machine/Regs.lean ====
section
/-!
DEFINITION. Regs: what a host read of a register returns (R12, R118, R175, R415, R417, R418, R425, R426): reading changes
nothing; reserved bits and write-only words read 0. And what a virtual function's accesses do (R415).
-/

namespace Sys2Proof.Machine

/-- A word of a context address descriptor (R12). -/
def Context.word (c : Context) (n : Nat) : W64 :=
  match n with
  | 0 => w64 (b2n c.en + c.root / 16384 % 2 ^ 38 * 2 ^ 14)
  | 1 => w64 (c.ringBase / 4096 % 2 ^ 40 * 2 ^ 12)
  | 2 => w64 (c.ringSize % 2 ^ 16 + c.lowWater % 2 ^ 16 * 2 ^ 32)
  | 3 => w64 (c.prod % 2 ^ 32 + c.cons % 2 ^ 32 * 2 ^ 32)
  | 4 => w64 (c.faultLimit % 2 ^ 32)
  | 5 => w64 c.stallNs
  | _ => 0

/-- A word of a transaction descriptor (R118). -/
def Context.txnWord (c : Context) (n : Nat) : W64 :=
  match n with
  | 0 => w64 (c.cTicket % 2 ^ 32 + c.cVer % 2 ^ 16 * 2 ^ 32)
  | 1 => w64 (c.quota % 2 ^ 32 + c.used % 2 ^ 32 * 2 ^ 32)
  | 2 => w64 (c.nextVer % 2 ^ 16 + c.nextTicket % 2 ^ 32 * 2 ^ 32)
  | 3 => w64 (min c.aborts (2 ^ 32 - 1) + min c.commits (2 ^ 32 - 1) * 2 ^ 32)
  | _ => 0

/-- A word of a context's fault report ring (R425, log 18). -/
def Context.ringWord (c : Context) (n : Nat) : W64 :=
  match n with
  | 0 => c.repBase
  | 1 => w64 (c.repSize % 2 ^ 32)
  | 2 => w64 (c.repProd % 2 ^ 32)
  | 3 => w64 (c.repCons % 2 ^ 32)
  | _ => 0

/-- STATE of a stream (R175). -/
def StreamSt.code (x : StreamSt) : Nat :=
  match x with
  | .idle => 0
  | .active => 1
  | .halted => 2

/-- A word of a stream descriptor (R175). -/
def Stream.word (x : Stream) (n : Nat) : W64 :=
  match n with
  | 0 =>
    w64 (b2n x.en + x.ctx % 2 ^ 7 * 2 ^ 8 + x.prio % 4 * 2 ^ 16 + x.ringLog2 % 16 * 2 ^ 24 + x.st.code * 2 ^ 32 +
      (if x.st == .halted then x.err % 2 ^ 8 else 0) * 2 ^ 40)
  | 1 => x.ringVa
  | 2 => x.wridxVa
  | 3 => w64 (x.rdIdx % 2 ^ 32)
  | _ => 0

/-- A word of the identity block (R425). -/
def State.identWord (s : State) (n : Nat) : W64 :=
  match n with
  | 0 => w64 (0x4F48 + 96 * 2 ^ 16 + s.plat.step % 2 ^ 8 * 2 ^ 32 + s.plat.devNum % 2 ^ 10 * 2 ^ 40)
  | 1 => (codeHash s.plat.step).1
  | 2 => (codeHash s.plat.step).2
  | 3 =>
    w64 (s.plat.gate % 16 + s.plat.pcap % 2 ^ 12 * 2 ^ 4 + b2n s.plat.holdover * 2 ^ 16 + b2n s.plat.bootErr * 2 ^ 17 +
      b2n s.plat.tErr * 2 ^ 18 + s.plat.power % 2 ^ 32 * 2 ^ 32)
  | 4 => w64 s.time
  | _ => 0

/-- A word of the command block (R426). -/
def CmdBlock.word (c : CmdBlock) (n : Nat) : W64 :=
  match n with
  | 0 => w64 (c.op % 2 ^ 8 + c.ctx % 2 ^ 7 * 2 ^ 8 + b2n c.busy * 2 ^ 15 + c.status % 2 ^ 8 * 2 ^ 16)
  | 1 => c.addr
  | 2 => c.len
  | 3 => c.aux
  | _ => 0

/-- A word of an export entry (R418). -/
def ExportEntry.word (e : ExportEntry) (n : Nat) : W64 :=
  match n with
  | 0 =>
    w64 (b2n e.v + b2n e.r * 2 + b2n e.w * 4 + b2n e.a * 8 + e.base % 2 ^ 24 * 2 ^ 16 + e.len % 2 ^ 24 * 2 ^ 40)
  | 1 => w64 (e.dev % 2 ^ 10 + e.dmask % 2 ^ 10 * 2 ^ 16)
  | _ => 0

/-- A word of a VF binding (R415, log 31). -/
def VfBind.word (x : VfBind) (n : Nat) : W64 :=
  match n with
  | 0 => maskOf 64 fun i => x.tenants.contains i
  | 1 => maskOf 64 fun i => x.tenants.contains (64 + i)
  | 2 => w64 (x.apctx % 2 ^ 7 + b2n x.hce * 2 ^ 7)
  | _ => 0

/-- What a host read of a word of a register block returns. Beyond the identity block nothing is served until the firmware
runs (R421). -/
def State.readReg (s : State) (block : RegBlock) (index word : Nat) : Option W64 :=
  if (block != .ident && block != .cmd && !s.served) || (regOffset block index word).isNone then none
  else
    match block with
    | .ident => some (s.identWord word)
    | .ctx => some ((s.ctx index).word word)
    | .txn => some ((s.ctx index).txnWord word)
    | .stream => some ((s.strm index).word word)
    | .cmd => some (s.cmd.word word)
    | .ring => some ((s.ctx index).ringWord word)
    | .route =>
      some (match s.routes.find? fun (x : Nat × Nat) => x.1 == index with
        | some (_, m) => w64 (m % 2 ^ 18)
        | none => 0)
    | .xport => some (((s.exports.find? (·.num == index)).getD (ExportEntry.reset index)).word word)
    | .vf => some (((s.vfs.find? (·.num == index)).getD (VfBind.reset index)).word word)

/-! ### Virtual functions (R413, R415) -/

/-- HOST_ACCESS: through the aperture of a virtual function, or to a register in its windows. One outside them freezes the function;
a frozen function is answered as unsupported. -/
def execHostAccess (vf : Nat) (a : VfAccess) (s : State) : Host.Outcome State Fault Refusal :=
  let v := (s.vfs.find? (·.num == vf)).getD (VfBind.reset vf)
  let ur : State := s.note .unsupported
  let outside : State := (s.freeze (.vf vf)).note .unsupported
  .next (
    if 64 ≤ vf || v.frozen || !s.served then ur
    else
      match a with
      | .aperture a => s.apertureAccess vf v a
      | .regRead block index word =>
        if !s.vfReaches v block index then outside
        else
          match s.readReg block index word with
          | some x => s.note (.readReply (natBytes 8 x.toNat))
          | none => ur
      | .regWrite block index word x =>
        if !s.vfReaches v block index || s.vfGivesAway v block index word x then outside
        else (s.writeReg block index word x).getD s)

end Sys2Proof.Machine
end

