-- ==== Sys2Proof/Machine/Dispatch.lean ====
section
/-!
DEFINITION. Dispatch: one arm for each constructor of Instr.
-/

namespace Sys2Proof.Machine

/-- What one instruction or step does. -/
def exec (i : Instr) (s : State) : Host.Outcome State Fault Refusal :=
  match i with
  | .moveVector v r m => Sys2Proof.Machine.execMoveVector v r m s
  | .moveScalarGuard r m => Sys2Proof.Machine.execMoveScalarGuard r m s
  | .moveOperand u p m => Sys2Proof.Machine.execMoveOperand u p m s
  | .aAdd u m => Sys2Proof.Machine.execAAdd u m s
  | .aSub u m => Sys2Proof.Machine.execASub u m s
  | .aAddc u m => Sys2Proof.Machine.execAAddc u m s
  | .aSubb u m => Sys2Proof.Machine.execASubb u m s
  | .aAdds u m => Sys2Proof.Machine.execAAdds u m s
  | .aSubs u m => Sys2Proof.Machine.execASubs u m s
  | .aAddsn u m => Sys2Proof.Machine.execAAddsn u m s
  | .aSubsn u m => Sys2Proof.Machine.execASubsn u m s
  | .aAnd u m => Sys2Proof.Machine.execAAnd u m s
  | .aOr u m => Sys2Proof.Machine.execAOr u m s
  | .aXor u m => Sys2Proof.Machine.execAXor u m s
  | .aAndn u m => Sys2Proof.Machine.execAAndn u m s
  | .aShl u m => Sys2Proof.Machine.execAShl u m s
  | .aShr u m => Sys2Proof.Machine.execAShr u m s
  | .aSar u m => Sys2Proof.Machine.execASar u m s
  | .aRol u m => Sys2Proof.Machine.execARol u m s
  | .aMin u m => Sys2Proof.Machine.execAMin u m s
  | .aMax u m => Sys2Proof.Machine.execAMax u m s
  | .aMinn u m => Sys2Proof.Machine.execAMinn u m s
  | .aMaxn u m => Sys2Proof.Machine.execAMaxn u m s
  | .aAbs u m => Sys2Proof.Machine.execAAbs u m s
  | .aNeg u m => Sys2Proof.Machine.execANeg u m s
  | .aClz u m => Sys2Proof.Machine.execAClz u m s
  | .aPopc u m => Sys2Proof.Machine.execAPopc u m s
  | .aBrev u m => Sys2Proof.Machine.execABrev u m s
  | .aSel u m => Sys2Proof.Machine.execASel u m s
  | .aBext u m => Sys2Proof.Machine.execABext u m s
  | .aBins u m => Sys2Proof.Machine.execABins u m s
  | .aAdd64 u m => Sys2Proof.Machine.execAAdd64 u m s
  | .aSub64 u m => Sys2Proof.Machine.execASub64 u m s
  | .aPass u m => Sys2Proof.Machine.execAPass u m s
  | .m0Mul m => Sys2Proof.Machine.execM0Mul m s
  | .m0Mulhi m => Sys2Proof.Machine.execM0Mulhi m s
  | .m0Mulhin m => Sys2Proof.Machine.execM0Mulhin m s
  | .m0Mulw m => Sys2Proof.Machine.execM0Mulw m s
  | .m0Mad m => Sys2Proof.Machine.execM0Mad m s
  | .m0Lea m => Sys2Proof.Machine.execM0Lea m s
  | .m0Div m => Sys2Proof.Machine.execM0Div m s
  | .m0Divn m => Sys2Proof.Machine.execM0Divn m s
  | .f0Add m => Sys2Proof.Machine.execF0Add m s
  | .f0Sub m => Sys2Proof.Machine.execF0Sub m s
  | .f0Mul m => Sys2Proof.Machine.execF0Mul m s
  | .f0Fma m => Sys2Proof.Machine.execF0Fma m s
  | .f0Fms m => Sys2Proof.Machine.execF0Fms m s
  | .f0Fnma m => Sys2Proof.Machine.execF0Fnma m s
  | .f0Min m => Sys2Proof.Machine.execF0Min m s
  | .f0Max m => Sys2Proof.Machine.execF0Max m s
  | .f0Abs m => Sys2Proof.Machine.execF0Abs m s
  | .f0Neg m => Sys2Proof.Machine.execF0Neg m s
  | .f0Csgn m => Sys2Proof.Machine.execF0Csgn m s
  | .f0Floor m => Sys2Proof.Machine.execF0Floor m s
  | .f0Ceil m => Sys2Proof.Machine.execF0Ceil m s
  | .f0Trunc m => Sys2Proof.Machine.execF0Trunc m s
  | .f0Rint m => Sys2Proof.Machine.execF0Rint m s
  | .f0Cvtif m => Sys2Proof.Machine.execF0Cvtif m s
  | .f0Cvtnf m => Sys2Proof.Machine.execF0Cvtnf m s
  | .f0Cvtfi m => Sys2Proof.Machine.execF0Cvtfi m s
  | .f0Cvtfn m => Sys2Proof.Machine.execF0Cvtfn m s
  | .f0Cvth m => Sys2Proof.Machine.execF0Cvth m s
  | .f0Cvtb m => Sys2Proof.Machine.execF0Cvtb m s
  | .f0Cvte4 m => Sys2Proof.Machine.execF0Cvte4 m s
  | .f0Cvte5 m => Sys2Proof.Machine.execF0Cvte5 m s
  | .f0Cvtf4 m => Sys2Proof.Machine.execF0Cvtf4 m s
  | .f0Cvthf m => Sys2Proof.Machine.execF0Cvthf m s
  | .f0Cvtbf m => Sys2Proof.Machine.execF0Cvtbf m s
  | .f0Cvte4f m => Sys2Proof.Machine.execF0Cvte4f m s
  | .f0Cvte5f m => Sys2Proof.Machine.execF0Cvte5f m s
  | .f0Cvtf4f m => Sys2Proof.Machine.execF0Cvtf4f m s
  | .f0Hadd2 m => Sys2Proof.Machine.execF0Hadd2 m s
  | .f0Hfma2 m => Sys2Proof.Machine.execF0Hfma2 m s
  | .f0Bfma2 m => Sys2Proof.Machine.execF0Bfma2 m s
  | .f1Add m => Sys2Proof.Machine.execF1Add m s
  | .f1Sub m => Sys2Proof.Machine.execF1Sub m s
  | .f1Mul m => Sys2Proof.Machine.execF1Mul m s
  | .f1Fma m => Sys2Proof.Machine.execF1Fma m s
  | .f1Fms m => Sys2Proof.Machine.execF1Fms m s
  | .f1Fnma m => Sys2Proof.Machine.execF1Fnma m s
  | .f1Min m => Sys2Proof.Machine.execF1Min m s
  | .f1Max m => Sys2Proof.Machine.execF1Max m s
  | .f1Abs m => Sys2Proof.Machine.execF1Abs m s
  | .f1Neg m => Sys2Proof.Machine.execF1Neg m s
  | .f1Csgn m => Sys2Proof.Machine.execF1Csgn m s
  | .f1Floor m => Sys2Proof.Machine.execF1Floor m s
  | .f1Ceil m => Sys2Proof.Machine.execF1Ceil m s
  | .f1Trunc m => Sys2Proof.Machine.execF1Trunc m s
  | .f1Rint m => Sys2Proof.Machine.execF1Rint m s
  | .f1Cvtif m => Sys2Proof.Machine.execF1Cvtif m s
  | .f1Cvtnf m => Sys2Proof.Machine.execF1Cvtnf m s
  | .f1Cvtfi m => Sys2Proof.Machine.execF1Cvtfi m s
  | .f1Cvtfn m => Sys2Proof.Machine.execF1Cvtfn m s
  | .f1Cvth m => Sys2Proof.Machine.execF1Cvth m s
  | .f1Cvtb m => Sys2Proof.Machine.execF1Cvtb m s
  | .f1Cvte4 m => Sys2Proof.Machine.execF1Cvte4 m s
  | .f1Cvte5 m => Sys2Proof.Machine.execF1Cvte5 m s
  | .f1Cvtf4 m => Sys2Proof.Machine.execF1Cvtf4 m s
  | .f1Cvthf m => Sys2Proof.Machine.execF1Cvthf m s
  | .f1Cvtbf m => Sys2Proof.Machine.execF1Cvtbf m s
  | .f1Cvte4f m => Sys2Proof.Machine.execF1Cvte4f m s
  | .f1Cvte5f m => Sys2Proof.Machine.execF1Cvte5f m s
  | .f1Cvtf4f m => Sys2Proof.Machine.execF1Cvtf4f m s
  | .f1Hadd2 m => Sys2Proof.Machine.execF1Hadd2 m s
  | .f1Hfma2 m => Sys2Proof.Machine.execF1Hfma2 m s
  | .f1Bfma2 m => Sys2Proof.Machine.execF1Bfma2 m s
  | .x0Rcp m => Sys2Proof.Machine.execX0Rcp m s
  | .x0Rsqrt m => Sys2Proof.Machine.execX0Rsqrt m s
  | .x0Sqrt m => Sys2Proof.Machine.execX0Sqrt m s
  | .x0Exp2 m => Sys2Proof.Machine.execX0Exp2 m s
  | .x0Log2 m => Sys2Proof.Machine.execX0Log2 m s
  | .x0Sinpi m => Sys2Proof.Machine.execX0Sinpi m s
  | .x0Cospi m => Sys2Proof.Machine.execX0Cospi m s
  | .x0Tanh m => Sys2Proof.Machine.execX0Tanh m s
  | .x0Sigm m => Sys2Proof.Machine.execX0Sigm m s
  | .x0Gelu m => Sys2Proof.Machine.execX0Gelu m s
  | .x0Fdiv m => Sys2Proof.Machine.execX0Fdiv m s
  | .x0Twid m => Sys2Proof.Machine.execX0Twid m s
  | .x0Rnd m => Sys2Proof.Machine.execX0Rnd m s
  | .x0Seed m => Sys2Proof.Machine.execX0Seed m s
  | .c0Eq m => Sys2Proof.Machine.execC0Eq m s
  | .c0Ne m => Sys2Proof.Machine.execC0Ne m s
  | .c0Lt m => Sys2Proof.Machine.execC0Lt m s
  | .c0Le m => Sys2Proof.Machine.execC0Le m s
  | .c0Ltn m => Sys2Proof.Machine.execC0Ltn m s
  | .c0Len m => Sys2Proof.Machine.execC0Len m s
  | .c0Feq m => Sys2Proof.Machine.execC0Feq m s
  | .c0Fne m => Sys2Proof.Machine.execC0Fne m s
  | .c0Flt m => Sys2Proof.Machine.execC0Flt m s
  | .c0Fle m => Sys2Proof.Machine.execC0Fle m s
  | .c0Fun m => Sys2Proof.Machine.execC0Fun m s
  | .c0Fcls m => Sys2Proof.Machine.execC0Fcls m s
  | .c0Btst m => Sys2Proof.Machine.execC0Btst m s
  | .c0Eq64 m => Sys2Proof.Machine.execC0Eq64 m s
  | .c0Lt64 m => Sys2Proof.Machine.execC0Lt64 m s
  | .c0Ltn64 m => Sys2Proof.Machine.execC0Ltn64 m s
  | .p0Idx m => Sys2Proof.Machine.execP0Idx m s
  | .p0Scan m => Sys2Proof.Machine.execP0Scan m s
  | .p0Scanf m => Sys2Proof.Machine.execP0Scanf m s
  | .p0Redadd m => Sys2Proof.Machine.execP0Redadd m s
  | .p0Redmax m => Sys2Proof.Machine.execP0Redmax m s
  | .p0Redmin m => Sys2Proof.Machine.execP0Redmin m s
  | .p0Ballot m => Sys2Proof.Machine.execP0Ballot m s
  | .p0Popl m => Sys2Proof.Machine.execP0Popl m s
  | .p0Pack8 m => Sys2Proof.Machine.execP0Pack8 m s
  | .p0Unpk8 m => Sys2Proof.Machine.execP0Unpk8 m s
  | .bfDit2 m => Sys2Proof.Machine.execBfDit2 m s
  | .bfDif2 m => Sys2Proof.Machine.execBfDif2 m s
  | .bfFft4e m => Sys2Proof.Machine.execBfFft4e m s
  | .bfFft4o m => Sys2Proof.Machine.execBfFft4o m s
  | .bfCmul m => Sys2Proof.Machine.execBfCmul m s
  | .bfCmulc m => Sys2Proof.Machine.execBfCmulc m s
  | .ldL8 m => Sys2Proof.Machine.execLdL8 m s
  | .ldL8n m => Sys2Proof.Machine.execLdL8n m s
  | .ldL16 m => Sys2Proof.Machine.execLdL16 m s
  | .ldL16n m => Sys2Proof.Machine.execLdL16n m s
  | .ldL32 m => Sys2Proof.Machine.execLdL32 m s
  | .ldL64 m => Sys2Proof.Machine.execLdL64 m s
  | .ldS8 m => Sys2Proof.Machine.execLdS8 m s
  | .ldS16 m => Sys2Proof.Machine.execLdS16 m s
  | .ldS32 m => Sys2Proof.Machine.execLdS32 m s
  | .ldS64 m => Sys2Proof.Machine.execLdS64 m s
  | .ldFeacq m => Sys2Proof.Machine.execLdFeacq m s
  | .ldFerel m => Sys2Proof.Machine.execLdFerel m s
  | .ldFefull m => Sys2Proof.Machine.execLdFefull m s
  | .ldPgstate m => Sys2Proof.Machine.execLdPgstate m s
  | .cpG2s m => Sys2Proof.Machine.execCpG2s m s
  | .cpS2g m => Sys2Proof.Machine.execCpS2g m s
  | .cpS2s m => Sys2Proof.Machine.execCpS2s m s
  | .cpShape m => Sys2Proof.Machine.execCpShape m s
  | .cpSeal m => Sys2Proof.Machine.execCpSeal m s
  | .cpWait m => Sys2Proof.Machine.execCpWait m s
  | .cpWptr m => Sys2Proof.Machine.execCpWptr m s
  | .cpBar m => Sys2Proof.Machine.execCpBar m s
  | .q0Push m => Sys2Proof.Machine.execQ0Push m s
  | .q0Pop m => Sys2Proof.Machine.execQ0Pop m s
  | .q0Trypush m => Sys2Proof.Machine.execQ0Trypush m s
  | .q0Trypop m => Sys2Proof.Machine.execQ0Trypop m s
  | .q0Qinit m => Sys2Proof.Machine.execQ0Qinit m s
  | .q0Qinval m => Sys2Proof.Machine.execQ0Qinval m s
  | .mxCfg m => Sys2Proof.Machine.execMxCfg m s
  | .mxFmt m => Sys2Proof.Machine.execMxFmt m s
  | .mxGo m => Sys2Proof.Machine.execMxGo m s
  | .mxWait m => Sys2Proof.Machine.execMxWait m s
  | .mxPoll m => Sys2Proof.Machine.execMxPoll m s
  | .mxStat m => Sys2Proof.Machine.execMxStat m s
  | .mxBank m => Sys2Proof.Machine.execMxBank m s
  | .mxReset m => Sys2Proof.Machine.execMxReset m s
  | .amSwap m => Sys2Proof.Machine.execAmSwap m s
  | .amSwap64 m => Sys2Proof.Machine.execAmSwap64 m s
  | .amCas m => Sys2Proof.Machine.execAmCas m s
  | .amCas64 m => Sys2Proof.Machine.execAmCas64 m s
  | .amAdd m => Sys2Proof.Machine.execAmAdd m s
  | .amAdd64 m => Sys2Proof.Machine.execAmAdd64 m s
  | .amAnd m => Sys2Proof.Machine.execAmAnd m s
  | .amOr m => Sys2Proof.Machine.execAmOr m s
  | .amXor m => Sys2Proof.Machine.execAmXor m s
  | .amMin m => Sys2Proof.Machine.execAmMin m s
  | .amMax m => Sys2Proof.Machine.execAmMax m s
  | .amFadd m => Sys2Proof.Machine.execAmFadd m s
  | .amRadd m => Sys2Proof.Machine.execAmRadd m s
  | .amRadd64 m => Sys2Proof.Machine.execAmRadd64 m s
  | .amRfadd m => Sys2Proof.Machine.execAmRfadd m s
  | .amRmax m => Sys2Proof.Machine.execAmRmax m s
  | .amAcinit m => Sys2Proof.Machine.execAmAcinit m s
  | .amActake m => Sys2Proof.Machine.execAmActake m s
  | .amAcgive m => Sys2Proof.Machine.execAmAcgive m s
  | .amAcread m => Sys2Proof.Machine.execAmAcread m s
  | .amAcpeek m => Sys2Proof.Machine.execAmAcpeek m s
  | .amAcfree m => Sys2Proof.Machine.execAmAcfree m s
  | .xeOpen m => Sys2Proof.Machine.execXeOpen m s
  | .xeSend m => Sys2Proof.Machine.execXeSend m s
  | .xeSel m => Sys2Proof.Machine.execXeSel m s
  | .xeClose m => Sys2Proof.Machine.execXeClose m s
  | .xeIdle m => Sys2Proof.Machine.execXeIdle m s
  | .xeClr m => Sys2Proof.Machine.execXeClr m s
  | .syJmp m => Sys2Proof.Machine.execSyJmp m s
  | .syBr m => Sys2Proof.Machine.execSyBr m s
  | .syCall m => Sys2Proof.Machine.execSyCall m s
  | .syRet m => Sys2Proof.Machine.execSyRet m s
  | .syMark m => Sys2Proof.Machine.execSyMark m s
  | .syJoin m => Sys2Proof.Machine.execSyJoin m s
  | .syLoop m => Sys2Proof.Machine.execSyLoop m s
  | .syBrk m => Sys2Proof.Machine.execSyBrk m s
  | .syBar m => Sys2Proof.Machine.execSyBar m s
  | .syBarar m => Sys2Proof.Machine.execSyBarar m s
  | .syBarwt m => Sys2Proof.Machine.execSyBarwt m s
  | .syBarinit m => Sys2Proof.Machine.execSyBarinit m s
  | .syBarinv m => Sys2Proof.Machine.execSyBarinv m s
  | .syCbar m => Sys2Proof.Machine.execSyCbar m s
  | .syCbarar m => Sys2Proof.Machine.execSyCbarar m s
  | .syCbarinit m => Sys2Proof.Machine.execSyCbarinit m s
  | .syCbarinv m => Sys2Proof.Machine.execSyCbarinv m s
  | .syWait m => Sys2Proof.Machine.execSyWait m s
  | .syTime m => Sys2Proof.Machine.execSyTime m s
  | .syTrap m => Sys2Proof.Machine.execSyTrap m s
  | .syChkerr m => Sys2Proof.Machine.execSyChkerr m s
  | .sySegchk m => Sys2Proof.Machine.execSySegchk m s
  | .syEnd m => Sys2Proof.Machine.execSyEnd m s
  | .syIcinv m => Sys2Proof.Machine.execSyIcinv m s
  | .syGstat m => Sys2Proof.Machine.execSyGstat m s
  | .syRfe m => Sys2Proof.Machine.execSyRfe m s
  | .syYield m => Sys2Proof.Machine.execSyYield m s
  | .syTrec m => Sys2Proof.Machine.execSyTrec m s
  | .syDbg m => Sys2Proof.Machine.execSyDbg m s
  | .bundleIssue g => Sys2Proof.Machine.execBundleIssue g s
  | .padIssue g => Sys2Proof.Machine.execPadIssue g s
  | .resultLands g port id lane => Sys2Proof.Machine.execResultLands g port id lane s
  | .candidatePromotion g => Sys2Proof.Machine.execCandidatePromotion g s
  | .yieldExpiry g => Sys2Proof.Machine.execYieldExpiry g s
  | .icinvComplete g => Sys2Proof.Machine.execIcinvComplete g s
  | .contextEnable ctx wrapped => Sys2Proof.Machine.execContextEnable ctx wrapped s
  | .contextEnableTakesEffect ctx => Sys2Proof.Machine.execContextEnableTakesEffect ctx s
  | .contextDisable ctx => Sys2Proof.Machine.execContextDisable ctx s
  | .dropCommand ctx target => Sys2Proof.Machine.execDropCommand ctx target s
  | .dropAckTimeout ctx peer => Sys2Proof.Machine.execDropAckTimeout ctx peer s
  | .poolRingProdWrite ctx prod => Sys2Proof.Machine.execPoolRingProdWrite ctx prod s
  | .registerWrite block index word v => Sys2Proof.Machine.execRegisterWrite block index word v s
  | .pageWalkStart die => Sys2Proof.Machine.execPageWalkStart die s
  | .pageWalkComplete die ctx page => Sys2Proof.Machine.execPageWalkComplete die ctx page s
  | .growthComplete g => Sys2Proof.Machine.execGrowthComplete g s
  | .notResidentResolved c leaf => Sys2Proof.Machine.execNotResidentResolved c leaf s
  | .faultlimitExpiry c => Sys2Proof.Machine.execFaultlimitExpiry c s
  | .invalidateVaRange ctx addr len => Sys2Proof.Machine.execInvalidateVaRange ctx addr len s
  | .invalidateContext ctx => Sys2Proof.Machine.execInvalidateContext ctx s
  | .freeFrameRange ctx addr len => Sys2Proof.Machine.execFreeFrameRange ctx addr len s
  | .checkpoint ctx addr aux => Sys2Proof.Machine.execCheckpoint ctx addr aux s
  | .debugStop ctx aux => Sys2Proof.Machine.execDebugStop ctx aux s
  | .debugResume ctx aux writes => Sys2Proof.Machine.execDebugResume ctx aux writes s
  | .attest ctx addr req => Sys2Proof.Machine.execAttest ctx addr req s
  | .recoveryImage image => Sys2Proof.Machine.execRecoveryImage image s
  | .commandComplete => Sys2Proof.Machine.execCommandComplete s
  | .homeSliceAccess g q id lane piece => Sys2Proof.Machine.execHomeSliceAccess g q id lane piece s
  | .l1WritebackGrant c line => Sys2Proof.Machine.execL1WritebackGrant c line s
  | .l1Snoop c line inval => Sys2Proof.Machine.execL1Snoop c line inval s
  | .regionInvalidation base size die => Sys2Proof.Machine.execRegionInvalidation base size die s
  | .regionInvalidationAck base size => Sys2Proof.Machine.execRegionInvalidationAck base size s
  | .regionMerge base size => Sys2Proof.Machine.execRegionMerge base size s
  | .epochEnd => Sys2Proof.Machine.execEpochEnd s
  | .replicaFillComplete part die => Sys2Proof.Machine.execReplicaFillComplete part die s
  | .migrationExchangeComplete part => Sys2Proof.Machine.execMigrationExchangeComplete part s
  | .collapseRequest part => Sys2Proof.Machine.execCollapseRequest part s
  | .collapseInvalidation part die => Sys2Proof.Machine.execCollapseInvalidation part die s
  | .collapseAck part => Sys2Proof.Machine.execCollapseAck part s
  | .unitMerge unit => Sys2Proof.Machine.execUnitMerge unit s
  | .writeIndexAdvance stream => Sys2Proof.Machine.execWriteIndexAdvance stream s
  | .streamEnable stream en => Sys2Proof.Machine.execStreamEnable stream en s
  | .streamResume stream => Sys2Proof.Machine.execStreamResume stream s
  | .streamSkip stream => Sys2Proof.Machine.execStreamSkip stream s
  | .launchStart stream => Sys2Proof.Machine.execLaunchStart stream s
  | .armedFire stream => Sys2Proof.Machine.execArmedFire stream s
  | .dependenceAbort stream => Sys2Proof.Machine.execDependenceAbort stream s
  | .workgroupCreate lid => Sys2Proof.Machine.execWorkgroupCreate lid s
  | .gangReservationTimeout lid => Sys2Proof.Machine.execGangReservationTimeout lid s
  | .workgroupRetire wg => Sys2Proof.Machine.execWorkgroupRetire wg s
  | .launchComplete lid => Sys2Proof.Machine.execLaunchComplete lid s
  | .timeSliceExpiry wg => Sys2Proof.Machine.execTimeSliceExpiry wg s
  | .driverPreempt ctx kill => Sys2Proof.Machine.execDriverPreempt ctx kill s
  | .workgroupSave wg => Sys2Proof.Machine.execWorkgroupSave wg s
  | .workgroupRestore wg c check => Sys2Proof.Machine.execWorkgroupRestore wg c check s
  | .powerGating level power => Sys2Proof.Machine.execPowerGating level power s
  | .thermalLimit celsius => Sys2Proof.Machine.execThermalLimit celsius s
  | .attemptEnd lid => Sys2Proof.Machine.execAttemptEnd lid s
  | .ticketTake lid => Sys2Proof.Machine.execTicketTake lid s
  | .commit lid => Sys2Proof.Machine.execCommit lid s
  | .commitPrepare lid die => Sys2Proof.Machine.execCommitPrepare lid die s
  | .prepareAck lid => Sys2Proof.Machine.execPrepareAck lid s
  | .commitRelease lid die => Sys2Proof.Machine.execCommitRelease lid die s
  | .completionWordWrite lid => Sys2Proof.Machine.execCompletionWordWrite lid s
  | .capacityStallRelease ctx => Sys2Proof.Machine.execCapacityStallRelease ctx s
  | .txstallExpiry lid => Sys2Proof.Machine.execTxstallExpiry lid s
  | .fold die => Sys2Proof.Machine.execFold die s
  | .attemptAbort lid => Sys2Proof.Machine.execAttemptAbort lid s
  | .coveredRequest pkt => Sys2Proof.Machine.execCoveredRequest pkt s
  | .coveredResponse pkt => Sys2Proof.Machine.execCoveredResponse pkt s
  | .retransmitTimer op => Sys2Proof.Machine.execRetransmitTimer op s
  | .operationTimeout op => Sys2Proof.Machine.execOperationTimeout op s
  | .quietExpiry op => Sys2Proof.Machine.execQuietExpiry op s
  | .watermarkNoticeTimer ident home => Sys2Proof.Machine.execWatermarkNoticeTimer ident home s
  | .watermarkNotice pkt => Sys2Proof.Machine.execWatermarkNotice pkt s
  | .resultEntryRetire home ident serial => Sys2Proof.Machine.execResultEntryRetire home ident serial s
  | .packetAgeDrop pkt => Sys2Proof.Machine.execPacketAgeDrop pkt s
  | .homeRestart die => Sys2Proof.Machine.execHomeRestart die s
  | .incarnationUpdate die home inc => Sys2Proof.Machine.execIncarnationUpdate die home inc s
  | .counterGrantRequest word => Sys2Proof.Machine.execCounterGrantRequest word s
  | .counterGrant word die => Sys2Proof.Machine.execCounterGrant word die s
  | .counterRecall word die core => Sys2Proof.Machine.execCounterRecall word die core s
  | .counterReturn word => Sys2Proof.Machine.execCounterReturn word s
  | .counterPoisoned word => Sys2Proof.Machine.execCounterPoisoned word s
  | .storePerformed g id error => Sys2Proof.Machine.execStorePerformed g id error s
  | .copyElement g ch ue => Sys2Proof.Machine.execCopyElement g ch ue s
  | .copyPhobosTakeover g ch => Sys2Proof.Machine.execCopyPhobosTakeover g ch s
  | .queueOpPerformed g => Sys2Proof.Machine.execQueueOpPerformed g s
  | .phaseOpenComplete g => Sys2Proof.Machine.execPhaseOpenComplete g s
  | .phaseTimeout g => Sys2Proof.Machine.execPhaseTimeout g s
  | .barrierArrivalPerformed g => Sys2Proof.Machine.execBarrierArrivalPerformed g s
  | .waitTimeout g => Sys2Proof.Machine.execWaitTimeout g s
  | .mxCommandStart wg => Sys2Proof.Machine.execMxCommandStart wg s
  | .mxStep c ue => Sys2Proof.Machine.execMxStep c ue s
  | .mxCommandComplete c => Sys2Proof.Machine.execMxCommandComplete c s
  | .mxOvertime c => Sys2Proof.Machine.execMxOvertime c s
  | .mxBankZeroed wg bank => Sys2Proof.Machine.execMxBankZeroed wg bank s
  | .impreciseTrapDelivery g => Sys2Proof.Machine.execImpreciseTrapDelivery g s
  | .heldTrapDelivery g => Sys2Proof.Machine.execHeldTrapDelivery g s
  | .masterFreeze m => Sys2Proof.Machine.execMasterFreeze m s
  | .functionLevelReset vf => Sys2Proof.Machine.execFunctionLevelReset vf s
  | .peerLinkReset peer => Sys2Proof.Machine.execPeerLinkReset peer s
  | .engineReset c => Sys2Proof.Machine.execEngineReset c s
  | .slotReset c slot => Sys2Proof.Machine.execSlotReset c slot s
  | .hostAccess vf a => Sys2Proof.Machine.execHostAccess vf a s
  | .cxlMemAccess a => Sys2Proof.Machine.execCxlMemAccess a s
  | .peerRequest peer m => Sys2Proof.Machine.execPeerRequest peer m s
  | .linkPortFailure path => Sys2Proof.Machine.execLinkPortFailure path s
  | .flitReplay port => Sys2Proof.Machine.execFlitReplay port s
  | .linkFlowControl port vl free => Sys2Proof.Machine.execLinkFlowControl port vl free s
  | .ppsEdge offset => Sys2Proof.Machine.execPpsEdge offset s
  | .timeadj v => Sys2Proof.Machine.execTimeadj v s
  | .timeset v => Sys2Proof.Machine.execTimeset v s
  | .holdover => Sys2Proof.Machine.execHoldover s
  | .firmwareBoot image => Sys2Proof.Machine.execFirmwareBoot image s
  | .deviceReset partition => Sys2Proof.Machine.execDeviceReset partition s
  | .fetchRedirectionEnd g => Sys2Proof.Machine.execFetchRedirectionEnd g s
  | .trapEntryComplete g => Sys2Proof.Machine.execTrapEntryComplete g s
  | .routingBringUp peer ports incs => Sys2Proof.Machine.execRoutingBringUp peer ports incs s
  | .cxlCacheSnoop line inval => Sys2Proof.Machine.execCxlCacheSnoop line inval s

end Sys2Proof.Machine
end

