-- ==== Sys2Proof/Machine/Sched.lean ====
section
/-!
DEFINITION. Sched: the step that comes next when the agenda names none (log 1). The manual lets any enabled step come next;
this schedule picks one. A group issues when it can; otherwise one of the device's own steps is taken; when none is enabled,
time passes until the next timer is due.
-/

namespace Sys2Proof.Machine

/-- A step of the device, as a function of the state. -/
abbrev Try : Type := State → Host.Outcome State Fault Refusal

/-- The first of some steps that changes the state, or ends in a fault. -/
def firstTry : List Try → State → Option (Host.Outcome State Fault Refusal)
  | [], _ => none
  | f :: fs, s =>
    match f s with
    | .next t => if t == s then firstTry fs s else some (.next t)
    | .fault r => some (.fault r)
    | .refused r => some (.refused r)

/-- The first candidate whose bundle, or pad, issues (R192): it leads its slot, since those before it wait. -/
def firstIssue (s : State) : List (Workgroup × Group) → Option State
  | [] => none
  | x :: xs =>
    match issueSlot trigTable s x.1 x.2 with
    | .done t => some t
    | .noted t => if t == s then firstIssue s xs else some t
    | .waits => firstIssue s xs

/-! ### The steps that may be enabled -/

/-- Pieces of a queue entry that are not done. -/
def entryTries (r : GRef) (q : QSel) (e : MemEntry) : List Try :=
  e.lanes.flatMap fun o =>
    if o.done then []
    else ((List.range o.pieces.length).filter fun i => match o.pieces[i]? with
      | some p => !p.done
      | none => false).map fun i => execHomeSliceAccess r q e.id o.lane i

/-- Results of a queue entry that can land. -/
def landTries (r : GRef) (port : RPort) (e : MemEntry) : List Try :=
  (e.lanes.filter fun o => !o.landed && (o.done || e.op == .pgstate)).map fun o => execResultLands r port e.id o.lane

/-- What goes on for a group that is resident. -/
def groupTries (w : Workgroup) (g : Group) : List Try :=
  let r := refOf w g
  (if g.pend.isEmpty then [] else [execImpreciseTrapDelivery r]) ++
  (if g.held.isEmpty then [] else [execHeldTrapDelivery r]) ++
  (if g.waits.isEmpty then []
   else [execFetchRedirectionEnd r, execTrapEntryComplete r, execGrowthComplete r, execIcinvComplete r,
         execPhaseOpenComplete r, execBarrierArrivalPerformed r]) ++
  g.ldq.flatMap (landTries r .ld) ++ g.amq.flatMap (landTries r .am) ++
  g.varPend.flatMap (fun x => (lanesOf 64 x.lanes).map fun l => execResultLands r x.port x.id l) ++
  g.stq.map (fun e => execStorePerformed r e.id none) ++
  g.ldq.flatMap (entryTries r .ld) ++ g.stq.flatMap (entryTries r .st) ++ g.amq.flatMap (entryTries r .am) ++
  (if g.q0q.isEmpty then [] else [execQueueOpPerformed r]) ++
  ((List.range g.chans.length).filter fun c => match g.chans[c]? with
    | some x => !x.jobs.isEmpty
    | none => false).map fun c => execCopyElement r c false

/-- What goes on for a workgroup. -/
def wgTries (w : Workgroup) : List Try :=
  w.groups.flatMap (groupTries w) ++
  (if w.nest.active then [execMxStep w.core false, execMxCommandComplete w.core] else [execMxCommandStart w.wid]) ++
  w.nest.zeroing.map (fun b => execMxBankZeroed w.wid b) ++
  [execWorkgroupRetire w.wid] ++
  (if w.preempt then [execWorkgroupSave w.wid] else [])

/-- Page walks, caches, regions. -/
def memTries (s : State) : List Try :=
  s.walks.flatMap (fun x => [execPageWalkStart x.1, execPageWalkComplete x.1 x.2.ctx x.2.page]) ++
  s.cores.flatMap (fun (c : Core) => c.victims.map fun v => execL1WritebackGrant c.id v.line) ++
  s.regionInvals.flatMap fun v => v.awaited.map (fun d => execRegionInvalidation v.base v.size d) ++ [execRegionInvalidationAck v.base v.size]

/-- Charon. -/
def charonTries (s : State) : List Try :=
  execEpochEnd :: (s.units.filter (·.split)).map (fun u => execUnitMerge u.num) ++
  s.parts.flatMap fun p =>
    (if p.requested then [execCollapseRequest p.num] else []) ++
    (if p.st == .collapsing then p.awaited.map (fun d => execCollapseInvalidation p.num d) ++ [execCollapseAck p.num] else []) ++
    p.filling.map (fun x => execReplicaFillComplete p.num x.1) ++
    (if p.st == .migrating then [execMigrationExchangeComplete p.num] else [])

/-- Covered requests, answers, notices and counters. -/
def remoteTries (s : State) : List Try :=
  s.packets.flatMap (fun p => [execCoveredRequest p.pid, execCoveredResponse p.pid, execWatermarkNotice p.pid]) ++
  s.counters.flatMap fun c =>
    (List.range Config.numDies).map (fun d => execCounterGrant c.word d) ++ [execCounterReturn c.word] ++
    c.recallCores.map (fun k => execCounterRecall c.word k.die (some k.core)) ++
    c.recallDies.map (fun d => execCounterRecall c.word d none) ++ [execCounterGrantRequest c.word] ++
  s.takes.flatMap fun t => [execCounterGrant t.word t.die, execCounterGrantRequest t.word]

/-- Streams, launches, transactions. -/
def launchTries (s : State) : List Try :=
  s.launches.flatMap (fun l =>
    [execAttemptAbort l.lid, execLaunchComplete l.lid, execAttemptEnd l.lid, execTicketTake l.lid, execCommit l.lid] ++
    (List.range Config.numDies).flatMap (fun d => [execCommitPrepare l.lid d, execCommitRelease l.lid d]) ++
    [execPrepareAck l.lid, execCompletionWordWrite l.lid, execWorkgroupCreate l.lid, execLaunchStart l.stream]) ++
  (dedup (s.stalls.map (·.ctx))).map (fun c => execCapacityStallRelease c) ++
  (if s.overlays.isEmpty then [] else (List.range Config.numDies).map fun d => execFold d) ++
  (s.wgs.filter (·.out)).flatMap (fun w =>
    (List.range Config.numDies).flatMap fun d => (coresOf d).map fun c => execWorkgroupRestore w.wid c .ok) ++
  (s.streams.filter (·.en)).flatMap fun x =>
    [execWriteIndexAdvance x.num, execDependenceAbort x.num, execArmedFire x.num, execLaunchStart x.num]

/-- Contexts and commands. -/
def hostTries (s : State) : List Try :=
  s.contexts.flatMap (fun c =>
    c.awaitSlices.map (fun x => execDropCommand c.num (.slice x)) ++
    (if c.heldEn.isSome then [execContextEnableTakesEffect c.num] else [])) ++
  (if s.cmd.busy then [execCommandComplete] else [])

/-- Timers, in the order they are tried when they are due. -/
def timerTries (s : State) : List Try :=
  s.wgs.flatMap (fun w => w.groups.map fun g => execYieldExpiry (refOf w g)) ++
  s.wgs.flatMap (fun w => w.groups.map fun g => execWaitTimeout (refOf w g)) ++
  s.packets.map (fun p => execPacketAgeDrop p.pid) ++
  s.covOps.flatMap (fun o => [execQuietExpiry o.ref, execOperationTimeout o.ref, execRetransmitTimer o.ref]) ++
  s.wgs.flatMap (fun w => w.groups.flatMap fun g => g.tracked.map fun t => execWatermarkNoticeTimer g.ident ⟨t.home.die, t.slice⟩) ++
  s.dieTracked.map (fun x => execWatermarkNoticeTimer x.1 ⟨x.2.home.die, x.2.slice⟩) ++
  s.results.map (fun e => execResultEntryRetire ⟨e.home.die, e.slice⟩ e.ref.ident e.ref.serial) ++
  s.launches.flatMap (fun l => [execGangReservationTimeout l.lid, execTxstallExpiry l.lid]) ++
  s.wgs.map (fun w => execTimeSliceExpiry w.wid) ++
  (s.wgs.filter (·.nest.active)).map (fun w => execMxOvertime w.core) ++
  s.cores.flatMap (fun (c : Core) => execFaultlimitExpiry c.id :: c.fw.filterMap fun f =>
    if s.time < f.since + 20000 then none else f.chan.map fun ch => execCopyPhobosTakeover f.g ch) ++
  (if s.plat.holdover then [] else [execHoldover]) ++ s.contexts.flatMap fun c => c.awaitPeers.map fun p => execDropAckTimeout c.num p

/-- Every step the schedule considers after issue. -/
def allTries (s : State) : List Try :=
  s.wgs.flatMap wgTries ++ memTries s ++ charonTries s ++ remoteTries s ++ launchTries s ++ hostTries s ++ timerTries s

/-! ### The next timer -/

/-- Times on the clock at which something counted in cycles may become due: epochs, merges, the limit of a nest command, the ends of
yields. -/
def dueCycles (s : State) : List Nat :=
  ((s.epoch + 1) * 2 ^ 20 * 2 + 2) / 3 :: (s.units.filter (·.split)).map (fun u => u.lastWrite + (2 ^ 25 + 2) / 3) ++
  (s.wgs.filter (·.nest.active)).map (fun w => w.nest.began + (2 ^ 23 + 2) / 3) ++
  s.wgs.flatMap fun w => w.groups.flatMap fun g => g.waits.filterMap fun x => match x with
    | .yield till => some (s.clock + (till - s.clocked) / (3 * (16 - s.plat.gate)) + 1)
    | _ => none

/-- Global times at which something may become due (R8, R199). -/
def dueTimes (s : State) : List Nat :=
  s.wgs.flatMap (fun w => w.groups.flatMap fun g =>
    g.waits.filterMap (fun x => match x with
      | .wake _ _ _ _ d _ => d
      | _ => none) ++ g.tracked.map fun t => t.since + 16000) ++
  s.dieTracked.map (fun x => x.2.since + 16000) ++
  s.covOps.map (fun o => if o.st == .quiet then o.lastSent + packetLife else min o.due (o.firstSent + 100000000)) ++
  s.packets.map (fun p => p.sentAt + packetLife + 1) ++
  s.results.filterMap (fun e => e.retire) ++
  s.launches.filterMap (fun l => l.reservedAt.map (· + 100000)) ++
  s.launches.filterMap (fun l => l.doneSince.map (· + (s.ctx l.ctx).faultLimit * 1000)) ++
  s.streams.filterMap (fun x => x.absent.map fun y => y.2 + (s.ctx x.ctx).faultLimit * 1000) ++
  s.stalls.filterMap (fun x => (s.launch? x.lid).map fun l => x.since + l.lrec.txStall * 1000) ++
  s.cores.flatMap (fun (c : Core) => c.fw.flatMap fun f => [f.since + 20000, f.since + (s.ctx f.ctx).faultLimit * 1000]) ++
  s.wgs.map (fun w => w.residentSince + 100000) ++ s.wgs.filterMap (fun w => w.saveFrom.map (· + 20000)) ++
  (if s.plat.holdover then [] else [s.plat.lastPps.getD 0 + 2000000000]) ++
  s.contexts.filterMap fun c => c.disabledAt.map (· + 100000000)

/-- Time passes until the next timer is due; with none the machine rests. -/
def State.idle (s : State) : State :=
  match minBy id (((dueTimes s).filter (s.time < ·)).map (· - s.time) ++ ((dueCycles s).filter (s.clock < ·)).map (· - s.clock)) with
  | some dt => s.pass dt
  | none => s

/-- Before another bundle issues, phases that have lasted their 65,536 cycles break (R328), loads of groups that a debugger stops are
cancelled (R407), and candidates that have waited their 48 are promoted (R192). -/
def phaseTries (s : State) : List Try :=
  s.wgs.flatMap fun w =>
    (w.groups.filter (·.phase.isSome)).map (fun g => execPhaseTimeout (refOf w g)) ++
    (w.groups.filter fun g => (s.cancelHeld w g).isSome).map (fun g => execBundleIssue (refOf w g)) ++
    (w.groups.filter fun g => !g.promoted && clockedCycles 48 ≤ g.waited).map fun g => execCandidatePromotion (refOf w g)

/-- The number of the issue slot of a group. -/
def slotKey (x : Workgroup × Group) : Nat := (x.1.core.die * 24 + x.1.core.core) * 4 + x.2.slot

/-- The candidates in the order this step considers them: the slots take turns, each in its own order (R192). -/
def State.order (s : State) : List (Workgroup × Group) :=
  let cs := s.candidates
  let slots := dedup (cs.map slotKey)
  match slots[s.clock / 2 % max 1 slots.length]? with
  | some k => cs.filter (fun x => slotKey x == k) ++ cs.filter fun x => slotKey x != k
  | none => []

/-- The device's own steps, in turn. -/
def State.turns (s : State) : List Try :=
  let l := allTries s
  let n := s.clock / 2 % max 1 l.length
  l.drop n ++ l.take n

/-- A bundle issues. -/
def State.issueStep (s : State) : Option (Host.Outcome State Fault Refusal) := (firstIssue s s.order).map .next

/-- One of the device's own steps. -/
def State.deviceStep (s : State) : Option (Host.Outcome State Fault Refusal) := firstTry s.turns s

/-- The step of the default schedule. It takes a nanosecond. Bundles and the device's own steps take turns, and each goes when
the other has nothing to do; when neither has, time passes until something is due. -/
def autoStep (s : State) : Host.Outcome State Fault Refusal :=
  let t := s.pass 1
  match firstTry (phaseTries t) t with
  | some o => o
  | none =>
    if s.clock % 2 == 0 then
      match t.issueStep with
      | some o => o
      | none => t.deviceStep.getD (.next s.idle)
    else
      match t.deviceStep with
      | some o => o
      | none => t.issueStep.getD (.next s.idle)

end Sys2Proof.Machine
end

