-- ==== Sys2Proof/Machine/Load.lean ====
section
/-!
DEFINITION. Load: a program put into the machine from outside, in place of a driver's work with tables, streams and launches
(log 23): context 0 with its page tables, a code object, a launch with one workgroup of one group of 8 lanes, resident on core
0 of die 0.
-/

namespace Sys2Proof.Machine

/-- Local addresses of the loaded program: the tables of levels 3 to 0, and the 64 KiB frame of its code object. -/
def loadRoot : Nat := 0x10000
def loadTable2 : Nat := 0x40000
def loadTable1 : Nat := 0x20000
def loadTable0 : Nat := 0x21000
def loadFrame : Nat := 0x30000

/-- Where the code object lies: the start of the code window (R18, R180). -/
def loadCode : Nat := 0xFC000000000000

/-- Leaf of the code frame: V, L, X, C, K = S, A (R32). -/
def loadLeaf : W64 := w64 (loadFrame + 0x2027)

/-- The loaded launch record: one workgroup of one group of 8 lanes with 256 vector registers each. -/
def loadRecord : LaunchRec :=
  { recordOf (List.replicate 16 0) with
    ntxn := true, vregs8 := 32, gridX := 1, gridY := 1, gridZ := 1, code := w64 loadCode }

/-- The loaded code object's header: text of the given length right after the header. -/
def loadHeader (textLen : Nat) : CodeHdr where
  textLen := textLen
  textOff := 128
  qdepths := []
  userVa := 0
  affinity := []

/-- The loaded launch. -/
def loadLaunch (textLen : Nat) : Launch where
  lid := 0
  stream := 0
  seq := 0
  ctx := 0
  lrec := loadRecord
  hdr := loadHeader textLen
  phase := .running
  retries := 0
  version := 0
  ticket := none
  endOrder := 0
  startCut := 0
  rank := [0]
  nextWg := 1
  retired := 0
  starts := []
  status := none
  prepared := []
  released := []
  reservedAt := none
  waitSince := none
  doneSince := none

/-- Its workgroup. -/
def loadWg (textLen dev clock : Nat) : Workgroup where
  wid := 0
  lid := 0
  ctx := 0
  num := 0
  core := ⟨0, 0⟩
  gang := none
  member := 0
  created := 0
  residentSince := clock
  scratchSize := 0
  scratchBase := 0
  scratch := []
  scratchBad := []
  accumBanks := []
  accum := []
  accumBad := []
  queues := []
  bars := []
  nest := Nest.new
  groups := [newGroup (loadLaunch textLen) ⟨0, 0⟩ 0 0 (0, 0, 0) ⟨0, 0, 0, 0⟩ 0 (identOf dev 0 0 0 0 0) 0]
  out := false
  preempt := false
  saveFrom := none
  retired := false

/-- Its core: the buffers hold the leaf of the code page. -/
def loadCore : Core :=
  (Core.reset ⟨0, 0⟩).fillTb 0 { ctx := 0, base := loadCode, level := 0, leaf := loadLeaf }

/-- Load a program of bundle words. It replaces the workgroups and launches there are, and the cores' buffers; contexts,
streams and the rest of memory stay. On an odd nanosecond the next one is awaited, so that a bundle goes first (log 1). -/
def State.loadProgram (s : State) (words : List W32) : State :=
  let text := words.flatMap wordBytes
  let mem := (((s.mem.writeNat (loadRoot + 8 * levelIndex 3 loadCode) 8 (loadTable2 + 1)).writeNat
    (loadTable2 + 8 * levelIndex 2 loadCode) 8 (loadTable1 + 1)).writeNat
    (loadTable1 + 8 * levelIndex 1 loadCode) 8 (loadTable0 + 1)).writeNat
    (loadTable0 + 8 * levelIndex 0 loadCode) 8 loadLeaf.toNat
  let s : State := { s with
    agenda := []
    mem := mem.writeBytes (loadFrame + 128) text
    rawUnits := []
    unitKeys := []
    overlays := []
    phases := []
    gangs := []
    launches := [loadLaunch text.length]
    wgs := [loadWg text.length s.plat.devNum s.time]
    cores := [loadCore]
    plat := { s.plat with released := true, halted := false } }
  ((s.modCtx 0 fun c => { c with en := true, root := loadRoot }).fillIncs).pass (s.clock % 2)

end Sys2Proof.Machine
end

