-- ==== Sys2Proof/Machine/Step.lean ====
section
/-!
DEFINITION. Step: one step of the machine, and the placing of one instruction where the next step fetches it.
-/

namespace Sys2Proof.Machine

/-- One step: the agenda's first entry, after its time has passed (log 1); with an empty agenda the step of the default
schedule. -/
def step (s : State) : Host.Outcome State Fault Refusal :=
  match s.agenda with
  | x :: rest => exec x.ev (({ s with agenda := rest } : State).pass x.dt)
  | [] => autoStep s

/-- The state with the bundle of one move loaded, its extension words zeros, so that the next step fetches and runs it
(log 23). -/
def State.withFetchWord (s : State) (nbits w : Nat) : State := s.loadProgram (loneWords (BitVec.ofNat 32 (w % 2 ^ nbits)))

end Sys2Proof.Machine
end

