-- ==== Sys2Proof/Safety.lean ====
section
/-!
DEFINITION. Safety: what a run of the machine is, and what counts as a safe one.
-/

namespace Sys2Proof.Machine

/-- The states a run from a state passes through. -/
inductive Reaches (s : State) : State → Prop where
  | start : Reaches s s
  | more {t u : State} : Reaches s t → step t = .next u → Reaches s u

/-- A run is safe when no state of it stops. -/
def Safe (s : State) : Prop := ∀ t, Reaches s t → ∃ u, step t = .next u

/-- A property that every step keeps. -/
def Kept (inv : State → Prop) : Prop := ∀ s t, inv s → step s = .next t → inv t

/-- Local memory has its canonical form (log 4). -/
def MemOk (s : State) : Prop := s.mem.wf = true

/-! ### The issue of a lone move -/

/-- The move of a lone bundle, as the bundle takes it. -/
def loneMove (m : Mv) (dest : BitVec 12) : PMove := ownMove (loneBundle (mvWord m dest)) 0 (mvWord m dest)

/-- What step 4 of R221 reads for it. -/
def loneRead (g : Group) (m : Mv) (dest : BitVec 12) : RMove where
  m := loneMove m dest
  lanes := (loneMove m dest).lanes g
  k := 0
  vals := (List.range g.width).map (srcLane g (loneMove m dest) 0)

/-- The bytes of its bundle. -/
def loneLen (m : Mv) (dest : BitVec 12) : Nat := 4 * (loneWords (mvWord m dest)).length

/-- The leader g of the state, of workgroup w and launch l, issues next: it is found under its number, no latched move is repeated
beside its lone move, it is outside regions, and holds no poison. -/
structure Heads (s : State) (w : Workgroup) (g : Group) (l : Launch) (who : Who) : Prop where
  leader : s.leader = some (w, g)
  group : s.group? (refOf w g) = some g
  launch : s.launchOf? (refOf w g) = some l
  who : s.who? (refOf w g) = some who
  latches : g.latches = noLatches
  noPad : g.pad = 0
  noTarget : g.target = none
  noPend : g.pend = []
  noRegion : regOpen g.check = false
  noPoison : psn g.check = false
  running : g.ended = false

/-- It leads, and is outside loops. -/
structure Leading (s : State) (w : Workgroup) (g : Group) (l : Launch) (who : Who) : Prop extends Heads s w g l who where
  noLoop : g.loop.active = false

/-- It leads so, and is outside its handler. -/
structure Leads (s : State) (w : Workgroup) (g : Group) (l : Launch) (who : Who) : Prop extends Leading s w g l who where
  noHandler : g.handler = false

/-- What steps 1 to 3 of R221 find for its lone move. -/
def loneCheck (g : Group) (l : Launch) (m : Mv) (dest : BitVec 12) : Before :=
  checkBundle g.advance (loneBundle (mvWord m dest)) [loneMove m dest] [loneRead g.advance m dest]
    (l.textOffset g.pc).toNat (loneLen m dest)

/-- It leads, and its lone move passes steps 1 to 3 of R221: the matrix engine's queue, which is the OPEN slot of the nest table, does not
hold it either (R360). -/
structure Ready (s : State) (m : Mv) (dest : BitVec 12) (w : Workgroup) (g : Group) (l : Launch) (who : Who) : Prop
    extends Leads s w g l who where
  passes : loneCheck g l m dest = .go
  notHeld : ((s.wg? w.wid).any fun x => x.mxHeld [loneRead g.advance m dest]) = false

/-- The group with steps 5 and 6 of R221 done. -/
def loneMoved (g : Group) (m : Mv) (dest : BitVec 12) : Group :=
  writeMove g.advance (popMove g.advance (loneRead g.advance m dest)) (loneRead g.advance m dest)

/-- What its trigger is given. -/
def loneTrig (w : Workgroup) (g : Group) (l : Launch) (m : Mv) (dest : BitVec 12) (unit port : Nat) : TrigIn where
  g := refOf w g
  bus := 0
  unit := unit
  port := port
  lanes := (loneMove m dest).lanes g.advance
  t := (List.range g.width).map (loneRead g.advance m dest).val
  pc := l.textOffset g.pc
  next := l.textOffset g.pc + w32 (loneLen m dest)

/-- Step 8 of R221 for the group x that the lone move of g has left: latch, segment count and signature, issue counts, and the
program counter behind the bundle. -/
def loneDone (g x : Group) (m : Mv) (dest : BitVec 12) : Group :=
  let x : Group := { x with latches := holdLatches x (loneBundle (mvWord m dest)) [loneMove m dest] }
  let x := (x.countBundle (loneWords (mvWord m dest))).countIssue [loneMove m dest]
  { x with pc := g.pc + w64 (loneLen m dest) }

/-- The state after the lone move has left the group as x, with the buffers' answered misses and faults settled. -/
def State.settled (s : State) (w : Workgroup) (g x : Group) (who : Who) : State :=
  ((s.setGroup (refOf w g) x).clearMisses who).clearFw who none

end Sys2Proof.Machine
end

