-- ==== Sys2Proof/Claims/Lane.lean ====
section
/-!
DEFINITION. Lane: what the statements say of the fixed-latency units: the rules of spec/09 over whole numbers, and the effect
of a lone move that triggers one of them.
-/

namespace Sys2Proof.Claims

open Sys2Proof.Machine

/-! ### The helpers of R269 -/

/-- N32 of R269. -/
def n32 (x : W64) : Nat := x.toNat % 4294967296
/-- I32 of R269. -/
def i32 (x : W64) : Int := if n32 x < 2147483648 then n32 x else (n32 x : Int) - 4294967296
/-- I64 of R269. -/
def i64 (x : W64) : Int := if x.toNat < 2 ^ 63 then x.toNat else (x.toNat : Int) - 2 ^ 64
/-- W32 of R269, zero-extended into a 64-bit port (R267). -/
def w32i (v : Int) : W64 := BitVec.ofNat 64 (v % 4294967296).toNat
/-- W64 of R269. -/
def w64i (v : Int) : W64 := BitVec.ofNat 64 (v % 2 ^ 64).toNat
/-- Sat of R269. -/
def sat (v lo hi : Int) : Int := if v < lo then lo else if v > hi then hi else v

/-- The inputs of a lane as numbers: N32 and I32 of A, B and T, and bit 0 of B. -/
structure Nums where
  na : Nat
  nb : Nat
  nt : Nat
  ia : Int
  ib : Int
  it : Int
  b0 : Nat

def nums (i : LaneIn) : Nums where
  na := n32 i.a
  nb := n32 i.b
  nt := n32 i.t
  ia := i32 i.a
  ib := i32 i.b
  it := i32 i.t
  b0 := i.b.toNat % 2

/-- What a trigger computes in a lane; FLUSHH of the launch record is its first argument (R260). -/
abbrev LaneRule := Bool → LaneIn → LaneOut

/-- r := W32 of an integer; rb keeps its value and the generator is left alone. -/
def w32Rule (f : Nums → Int) : LaneRule := fun _ i => { r := w32i (f (nums i)), rb := none, st := i.st }
/-- r := W64 of an integer. -/
def w64Rule (f : LaneIn → Int) : LaneRule := fun _ i => { r := w64i (f i), rb := none, st := i.st }
/-- r := W32 of one integer and rb := W32 of another. -/
def w32Both (f h : Nums → Int) : LaneRule := fun _ i =>
  { r := w32i (f (nums i)), rb := some (w32i (h (nums i))), st := i.st }
/-- r is 32 bits, bit k of it given by a condition on bits. -/
def bitRule (f : W64 → W64 → Nat → Bool) : LaneRule := fun _ i =>
  { r := maskOf 32 (f i.a i.t), rb := none, st := i.st }
/-- r := 1 when a condition holds, else 0 (R284 to R286). -/
def condRule (f : LaneIn → Prop) [DecidablePred f] : LaneRule := fun _ i =>
  { r := if f i then 1 else 0, rb := none, st := i.st }

/-! ### a0 and a1 (R270 to R273) -/

def addRule : LaneRule := w32Rule fun x => x.na + x.nt
def subRule : LaneRule := w32Rule fun x => x.na - x.nt
def addcRule : LaneRule := w32Both (fun x => x.na + x.nt + x.b0) fun x => if x.na + x.nt + x.b0 ≥ 4294967296 then 1 else 0
def subbRule : LaneRule := w32Both (fun x => x.na - x.nt - x.b0) fun x => if (x.na : Int) - x.nt - x.b0 < 0 then 1 else 0
def addsRule : LaneRule := w32Rule fun x => sat (x.ia + x.it) (-2147483648) 2147483647
def subsRule : LaneRule := w32Rule fun x => sat (x.ia - x.it) (-2147483648) 2147483647
def addsnRule : LaneRule := w32Rule fun x => sat (x.na + x.nt) 0 4294967295
def subsnRule : LaneRule := w32Rule fun x => sat (x.na - x.nt) 0 4294967295
def add64Rule : LaneRule := w64Rule fun i => i.a.toNat + i.t.toNat
def sub64Rule : LaneRule := w64Rule fun i => i.a.toNat - i.t.toNat
def passRule : LaneRule := fun _ i => { r := i.t, rb := none, st := i.st }

def andRule : LaneRule := bitRule fun a t k => a.getLsbD k && t.getLsbD k
def orRule : LaneRule := bitRule fun a t k => a.getLsbD k || t.getLsbD k
def xorRule : LaneRule := bitRule fun a t k => a.getLsbD k != t.getLsbD k
def andnRule : LaneRule := bitRule fun a t k => a.getLsbD k && !t.getLsbD k
def shlRule : LaneRule := w32Rule fun x => if x.nt < 32 then x.na * 2 ^ x.nt else 0
def shrRule : LaneRule := w32Rule fun x => if x.nt < 32 then (x.na / 2 ^ x.nt : Nat) else 0
def sarRule : LaneRule := w32Rule fun x => if x.nt < 32 then x.ia.fdiv (2 ^ x.nt) else if 0 ≤ x.ia then 0 else 4294967295
def rolRule : LaneRule := w32Rule fun x => (x.na * 2 ^ (x.nt % 32) + x.na / 2 ^ (32 - x.nt % 32) : Nat)
def minRule : LaneRule := w32Rule fun x => min x.ia x.it
def maxRule : LaneRule := w32Rule fun x => max x.ia x.it
def minnRule : LaneRule := w32Rule fun x => min x.na x.nt
def maxnRule : LaneRule := w32Rule fun x => max x.na x.nt
def absRule : LaneRule := w32Rule fun x => x.it.natAbs
def negRule : LaneRule := w32Rule fun x => -x.it
/-- The number of leading zero bits: how many of the values 1, 2, 4, … 2^31 exceed T. -/
def clzRule : LaneRule := w32Rule fun x => ((List.range 32).filter fun k => x.nt < 2 ^ k).length
def popcRule : LaneRule := w32Rule fun x => ((List.range 32).filter fun k => x.nt / 2 ^ k % 2 = 1).length
def brevRule : LaneRule := bitRule fun _ t k => t.getLsbD (31 - k)
def selRule : LaneRule := fun _ i => { r := if n32 i.t ≠ 0 then i.a else i.b, rb := none, st := i.st }

/-- pos and len of R273. -/
def fieldPos (nt : Nat) : Nat := nt % 32
def fieldLen (nt : Nat) : Nat := min (nt / 256 % 64) (32 - fieldPos nt)

def bextRule : LaneRule := w32Rule fun x =>
  let len := fieldLen x.nt
  let f : Nat := x.na / 2 ^ fieldPos x.nt % 2 ^ len
  if len = 0 then 0 else if x.b0 = 1 ∧ f ≥ 2 ^ (len - 1) then (f : Int) - 2 ^ len else f

def binsRule : LaneRule := fun _ i =>
  let p := fieldPos (n32 i.t)
  { r := maskOf 32 fun k =>
      if p ≤ k ∧ k < p + fieldLen (n32 i.t) then i.b.getLsbD (k - p) else i.a.getLsbD k
    rb := none, st := i.st }

/-! ### m0 (R274, R275) -/

def mulRule : LaneRule := w32Rule fun x => x.ia * x.it
def mulhiRule : LaneRule := w32Rule fun x => (x.ia * x.it).fdiv 4294967296
def mulhinRule : LaneRule := w32Rule fun x => (x.na * x.nt / 4294967296 : Nat)
def mulwRule : LaneRule := w64Rule fun i => i32 i.a * i32 i.t
def madRule : LaneRule := w32Rule fun x => x.na * x.nt + x.nb
def leaRule : LaneRule := w64Rule fun i => i.a.toNat + i32 i.b * i32 i.t
def divRule : LaneRule :=
  w32Both (fun x => if x.nt = 0 then 4294967295 else x.ia.tdiv x.it)
    fun x => if x.nt = 0 then x.na else x.ia - x.ia.tdiv x.it * x.it
def divnRule : LaneRule :=
  w32Both (fun x => if x.nt = 0 then 4294967295 else (x.na / x.nt : Nat)) fun x => if x.nt = 0 then x.na else (x.na % x.nt : Nat)

/-! ### f0 and f1 (R276 to R280) -/

/-- Rnd of R269 over the exact value of an expression whose operands are F32 of A, T and B: the direction of D bears on the sign
of an exact zero sum too. -/
def rndRule (f : Rm → Fp → Fp → Fp → Fp) : LaneRule := fun _ i =>
  let rm := (rmOf i.d).noDraw
  { r := w64 (roundCode .fp32 rm (satfOf i.d) 0 (f rm (f32 (lo32 i.a)) (f32 (lo32 i.t)) (f32 (lo32 i.b))))
    rb := none, st := i.st }

def faddRule : LaneRule := rndRule fun rm a t _ => a.add rm t
def fsubRule : LaneRule := rndRule fun rm a t _ => a.add rm t.neg
def fmulRule : LaneRule := rndRule fun _ a t _ => a.mul t
def ffmaRule : LaneRule := rndRule fun rm a t b => (a.mul t).add rm b
def ffmsRule : LaneRule := rndRule fun rm a t b => (a.mul t).add rm b.neg
def ffnmaRule : LaneRule := rndRule fun rm a t b => b.add rm (a.mul t).neg

/-- r := 32 bits, as a number. -/
def codeRule (f : LaneIn → Nat) : LaneRule := fun _ i => { r := w64 (f i), rb := none, st := i.st }

/-- Is an FP32 code a NaN (R247)? -/
def nanCode (c : Nat) : Bool := 0x7F800000 < c % 2147483648

/-- The value of an FP32 code that is no NaN, as an integer that orders as the values do, with −0 below +0 (R277). -/
def orderOf (c : Nat) : Int := if c < 2147483648 then c else -(c - 2147483648 : Nat) - 1

/-- min and max of R277. -/
def pickRule (less : Bool) : LaneRule := codeRule fun i =>
  let a := n32 i.a
  let t := n32 i.t
  if nanCode a && nanCode t then 0x7FC00000
  else if nanCode a then t
  else if nanCode t then a
  else if (if less then orderOf a ≤ orderOf t else orderOf t ≤ orderOf a) then a else t

def fminRule : LaneRule := pickRule true
def fmaxRule : LaneRule := pickRule false
def fabsRule : LaneRule := codeRule fun i => if nanCode (n32 i.t) then 0x7FC00000 else n32 i.t % 2147483648
def fnegRule : LaneRule := codeRule fun i =>
  if nanCode (n32 i.t) then 0x7FC00000 else (n32 i.t + 2147483648) % 4294967296
def fcsgnRule : LaneRule := codeRule fun i =>
  if nanCode (n32 i.a) then 0x7FC00000 else n32 i.a % 2147483648 + n32 i.t / 2147483648 * 2147483648

/-- An integral value (R278): a NaN gives the canonical one; ±∞, ±0 and magnitudes of 2^23 or more are unchanged; any other
operand, with the value ±m × 2^e for e < 0, is rounded to a multiple of 1 and keeps its sign. -/
def integralRule (dir : W64 → Rm) : LaneRule := codeRule fun i =>
  let c := n32 i.t
  if nanCode c then 0x7FC00000
  else if c % 2147483648 = 0 ∨ 0x4B000000 ≤ c % 2147483648 then c
  else
    match fpOf .fp32 c with
    | .fin neg m e => roundCode .fp32 .rne false 0 (.fin neg (roundMag (dir i.d) neg m e 0 0) 0)
    | .nan => 0x7FC00000
    | .inf _ => c

def ffloorRule : LaneRule := integralRule fun _ => .down
def fceilRule : LaneRule := integralRule fun _ => .up
def ftruncRule : LaneRule := integralRule fun _ => .rtz
def frintRule : LaneRule := integralRule fun d => (rmOf d).noDraw

/-- A rounding conversion: under stochastic rounding a finite nonzero operand draws the next word of the lane's generator, and
nothing else does (R257, R258, R279). -/
def drawRule (x : LaneIn → Fp) (out : Bool → LaneIn → Rm → W32 → W64) : LaneRule := fun flush i =>
  if rmOf i.d = .sr ∧ (x i).draws = true then
    let st := i.st * 6364136223846793005 + 1442695040888963407
    { r := out flush i .sr (hi32 st), rb := none, st := st }
  else { r := out flush i (rmOf i.d) 0, rb := none, st := i.st }

/-- F32(T). -/
def opT (i : LaneIn) : Fp := f32 (lo32 i.t)

/-- RoundToFormat of a value into a format, under D (R257, R261, R263). -/
def toFormat (f : FFmt) (x : LaneIn → Fp) : LaneRule :=
  drawRule x fun _ i rm w => w64 (roundCode f rm (satfOf i.d) w (x i))

/-- A 16-bit code whose exponent field is 0 becomes a zero of its sign (R260). -/
def flush16 (f : FFmt) (flush : Bool) (c : Nat) : Nat :=
  if flush = true ∧ c / 2 ^ f.mant % 2 ^ f.exps = 0 then c / 32768 * 32768 else c

/-- RoundToFormat into a 16-bit format, with FLUSHH on the result (R260, R261). -/
def to16 (f : FFmt) : LaneRule :=
  drawRule opT fun flush i rm w => w64 (flush16 f flush (roundCode f rm (satfOf i.d) w (opT i)))

/-- FP32 to an integer between lo and hi (R262): rounded, then held to the limits; a NaN gives 0. -/
def toInt (lo hi : Int) : LaneRule :=
  drawRule opT fun _ i rm w => match opT i with
    | .nan => 0
    | .inf neg => w32i (if neg then lo else hi)
    | .fin neg m e => w32i (sat (if neg then -(roundMag rm neg m e 0 w : Nat) else (roundMag rm neg m e 0 w : Nat)) lo hi)

def cvtifRule : LaneRule := toFormat .fp32 fun i => .fin (decide (i32 i.t < 0)) (i32 i.t).natAbs 0
def cvtnfRule : LaneRule := toFormat .fp32 fun i => .fin false (n32 i.t) 0
def cvtfiRule : LaneRule := toInt (-2147483648) 2147483647
def cvtfnRule : LaneRule := toInt 0 4294967295
def cvthRule : LaneRule := to16 .fp16
def cvtbRule : LaneRule := to16 .bf16
def cvte4Rule : LaneRule := toFormat .e4m3 opT
def cvte5Rule : LaneRule := toFormat .e5m2 opT
def cvtf4Rule : LaneRule := toFormat .fp4 opT

/-- A narrow format to FP32 (R261): exact, whatever D holds; FLUSHH on a 16-bit operand. -/
def widenRule (f : FFmt) (bits16 : Bool) : LaneRule := fun flush i =>
  let c := i.t.toNat % 2 ^ f.width
  { r := w64 (roundCode .fp32 .rne false 0 (fpOf f (if bits16 then flush16 f flush c else c))), rb := none, st := i.st }

def cvthfRule : LaneRule := widenRule .fp16 true
def cvtbfRule : LaneRule := widenRule .bf16 true
def cvte4fRule : LaneRule := widenRule .e4m3 false
def cvte5fRule : LaneRule := widenRule .e5m2 false
def cvtf4fRule : LaneRule := widenRule .fp4 false

/-- A packed trigger over the two 16-bit elements (R280). -/
def packRule (f : FFmt) (op : Rm → Fp → Fp → Fp → Fp) : LaneRule := fun flush i =>
  let rm := (rmOf i.d).noDraw
  let el (v : W64) (k : Nat) : Fp := fpOf f (flush16 f flush (v.toNat / 65536 ^ k % 65536))
  let out (k : Nat) : Nat :=
    flush16 f flush (roundCode f rm (satfOf i.d) 0 (op rm (el i.a k) (el i.t k) (el i.b k)))
  { r := w64 (out 0 + 65536 * out 1), rb := none, st := i.st }

def hadd2Rule : LaneRule := packRule .fp16 fun rm a t _ => a.add rm t
def hfma2Rule : LaneRule := packRule .fp16 fun rm a t b => (a.mul t).add rm b
def bfma2Rule : LaneRule := packRule .bf16 fun rm a t b => (a.mul t).add rm b

/-! ### x0 (R282, R283) -/

/-- r := RN(f(F32(T))). -/
def rnRule (f : Fp → Fp) : LaneRule := codeRule fun i => roundCode .fp32 .rne false 0 (f (opT i))

/-- r := RN(F32(A) / F32(T)). -/
def fdivRule : LaneRule := codeRule fun i => roundCode .fp32 .rne false 0 (fnDiv (f32 (lo32 i.a)) (opT i))

/-- cos and −sin of the twiddle that log₂ N in A and k in T select (R264). -/
def twidRule : LaneRule := fun _ i =>
  { r := zx (twiddle (lo32 i.a).toNat (lo32 i.t).toNat).1, rb := some (zx (twiddle (lo32 i.a).toNat (lo32 i.t).toNat).2)
    st := i.st }

/-- The draw of rnd (R258, R283): the state steps, and r is its high half. -/
def rndNextRule : LaneRule := fun _ i =>
  let st := w64i (i.st.toNat * 6364136223846793005 + 1442695040888963407)
  { r := w64 (st.toNat / 4294967296), rb := none, st := st }

/-! ### c0 (R284 to R286) -/

def eqRule : LaneRule := condRule fun i => n32 i.a = n32 i.t
def neRule : LaneRule := condRule fun i => n32 i.a ≠ n32 i.t
def ltRule : LaneRule := condRule fun i => i32 i.a < i32 i.t
def leRule : LaneRule := condRule fun i => i32 i.a ≤ i32 i.t
def ltnRule : LaneRule := condRule fun i => n32 i.a < n32 i.t
def lenRule : LaneRule := condRule fun i => n32 i.a ≤ n32 i.t
def eq64Rule : LaneRule := condRule fun i => i.a = i.t
def lt64Rule : LaneRule := condRule fun i => i64 i.a < i64 i.t
def ltn64Rule : LaneRule := condRule fun i => i.a.toNat < i.t.toNat

/-- The value of an FP32 code that is no NaN, as an integer that orders as the values do, with −0 equal to +0 (R285). -/
def valueOrder (c : Nat) : Int := if c < 2147483648 then c else -(c - 2147483648 : Nat)

/-- No operand is a NaN. -/
def ordered (i : LaneIn) : Bool := !nanCode (n32 i.a) && !nanCode (n32 i.t)

def feqRule : LaneRule := condRule fun i => ordered i = true ∧ valueOrder (n32 i.a) = valueOrder (n32 i.t)
def fneRule : LaneRule := condRule fun i => ordered i = false ∨ valueOrder (n32 i.a) ≠ valueOrder (n32 i.t)
def fltRule : LaneRule := condRule fun i => ordered i = true ∧ valueOrder (n32 i.a) < valueOrder (n32 i.t)
def fleRule : LaneRule := condRule fun i => ordered i = true ∧ valueOrder (n32 i.a) ≤ valueOrder (n32 i.t)
def funRule : LaneRule := condRule fun i => ordered i = false

/-- The classes of R286, by ranges of the code. -/
def classOf (c : Nat) : Nat :=
  let m := c % 2147483648
  if 0x7F800000 < m then 8
  else if c < 2147483648 then
    if m = 0 then 4 else if m < 0x00800000 then 5 else if m < 0x7F800000 then 6 else 7
  else if m = 0 then 3 else if m < 0x00800000 then 2 else if m < 0x7F800000 then 1 else 0

def fclsRule : LaneRule := condRule fun i => i.t.toNat / 2 ^ classOf (n32 i.a) % 2 = 1
def btstRule : LaneRule := condRule fun i => n32 i.a / 2 ^ (n32 i.t % 32) % 2 = 1

/-! ### bf (R291 to R295) -/

/-- RN of a sum, of a difference, and of a product (R269). -/
def rnAdd (x y : W32) : W32 := rn32 ((f32 x).add .rne (f32 y))
def rnSub (x y : W32) : W32 := rn32 ((f32 x).add .rne (f32 y).neg)
def rnMul (x y : W32) : W32 := rn32 ((f32 x).mul (f32 y))
/-- FmaN over codes, with the signs the entries give its first and third operands. -/
def fma (nx : Bool) (x y : W32) (nz : Bool) (z : W32) : W32 :=
  rn32 (((if nx then (f32 x).neg else f32 x).mul (f32 y)).add .rne (if nz then (f32 z).neg else f32 z))

/-- Two results. -/
def both (i : LaneIn) (r rb : W64) : LaneOut := { r := r, rb := some rb, st := i.st }

/-- cmul of R292. -/
def cmulOf (a t : W64) : W64 :=
  pair (fma false (lo32 a) (lo32 t) true (rnMul (hi32 a) (hi32 t))) (fma false (lo32 a) (hi32 t) false (rnMul (hi32 a) (lo32 t)))

def cmulRule : LaneRule := fun _ i => { r := cmulOf i.a i.t, rb := none, st := i.st }
def cmulcRule : LaneRule := fun _ i =>
  { r := pair (fma false (lo32 i.a) (lo32 i.t) false (rnMul (hi32 i.a) (hi32 i.t)))
      (fma true (lo32 i.a) (hi32 i.t) false (rnMul (hi32 i.a) (lo32 i.t)))
    rb := none, st := i.st }

def dit2Rule : LaneRule := fun _ i =>
  let (ar, ai, br, bi, wr, wi) := (lo32 i.a, hi32 i.a, lo32 i.b, hi32 i.b, lo32 i.t, hi32 i.t)
  both i (pair (fma false wr br false (fma true wi bi false ar)) (fma false wr bi false (fma false wi br false ai)))
    (pair (fma true wr br false (fma false wi bi false ar)) (fma true wr bi false (fma true wi br false ai)))

/-- Sum and difference of complex values, each component rounded. -/
def cSum (x y : W64) : W64 := pair (rnAdd (lo32 x) (lo32 y)) (rnAdd (hi32 x) (hi32 y))
def cDiff (x y : W64) : W64 := pair (rnSub (lo32 x) (lo32 y)) (rnSub (hi32 x) (hi32 y))

def dif2Rule : LaneRule := fun _ i => both i (cSum i.a i.b) (cmulOf (cDiff i.a i.b) i.t)
def fft4eRule : LaneRule := fun _ i =>
  both i (cSum (cSum i.a i.c) (cSum i.b i.t)) (cDiff (cSum i.a i.c) (cSum i.b i.t))
def fft4oRule : LaneRule := fun _ i =>
  let f := cDiff i.a i.c
  let h := cDiff i.b i.t
  both i (pair (rnAdd (lo32 f) (hi32 h)) (rnSub (hi32 f) (lo32 h))) (pair (rnSub (lo32 f) (hi32 h)) (rnAdd (hi32 f) (lo32 h)))

/-! ### p0 (R287 to R290) -/

/-- The participating lanes, ascending, each with its inputs. -/
abbrev Parts := List (Nat × LaneIn)

/-- What a p0 trigger gives one participating lane: from the width, the participating lanes, the lane and its own inputs. -/
abbrev GroupRule := Nat → Parts → Nat → LaneIn → W64

/-- N32(T), summed. -/
def sumT (ps : Parts) : Nat := (ps.map fun y => n32 y.2.t).sum

def idxRule : GroupRule := fun width ps _ x =>
  match ps.find? fun y => y.1 == n32 x.a with
  | some y => if n32 x.a < width then y.2.t else 0
  | none => 0
def scanRule : GroupRule := fun _ ps l _ => w32i (sumT (ps.filter fun y => y.1 ≤ l))
def redaddRule : GroupRule := fun _ ps _ _ => w32i (sumT ps)

/-- s of R288 over the lanes in ascending order. -/
def ordSum : Parts → Option W32
  | ps => ps.foldl (fun acc y => some (match acc with
    | none => rn32 (f32 (lo32 y.2.t))
    | some p => rnAdd p (lo32 y.2.t))) none
def scanfRule : GroupRule := fun _ ps l _ => zx ((ordSum (ps.filter fun y => y.1 ≤ l)).getD 0)

/-- W32 of the largest or the smallest I32(T). -/
def redmaxRule : GroupRule := fun _ ps _ x => w32i (ps.foldl (fun m y => max m (i32 y.2.t)) (i32 x.t))
def redminRule : GroupRule := fun _ ps _ x => w32i (ps.foldl (fun m y => min m (i32 y.2.t)) (i32 x.t))
def ballotRule : GroupRule := fun width ps _ _ => maskOf width fun j => ps.any fun y => y.1 == j && n32 y.2.t != 0
def poplRule : GroupRule := fun _ ps l _ => w64 (ps.filter fun y => decide (y.1 < l ∧ n32 y.2.t ≠ 0)).length

/-- The i16 half k of a value. -/
def half (v : W64) (k : Nat) : Int :=
  let h := v.toNat / 65536 ^ k % 65536
  if h < 32768 then h else (h : Int) - 65536
/-- W32(Sat(e, −128, 127)) mod 256. -/
def satByte (e : Int) : Nat := (sat e (-128) 127 % 256).toNat
def pack8Rule : GroupRule := fun _ _ _ x =>
  w64 (satByte (half x.a 0) + 256 * satByte (half x.a 1) + 65536 * satByte (half x.t 0) + 16777216 * satByte (half x.t 1))
def unpk8Rule : GroupRule := fun _ _ _ x =>
  let one (k : Nat) : Nat :=
    let b := x.t.toNat / 256 ^ k % 256
    if x.a.toNat / 2 % 2 = 0 ∧ 128 ≤ b then b + 65280 else b
  w64 (one (2 * (x.a.toNat % 2)) + 65536 * one (2 * (x.a.toNat % 2) + 1))

end Sys2Proof.Claims
end

