-- ==== Sys2Proof/Claims/Move.lean ====
section
/-!
DEFINITION. Move: what the statements say of a lone move: who issues it, what it delivers, what it leaves behind, and the
shapes a statement about one instruction takes. A lone move is a bundle of one move on bus 0 (R211), which is how exec runs an
encoded instruction (log 5).
-/

namespace Sys2Proof.Claims

open Sys2Proof.Machine

/-- The issue of a lone move: state, move, destination code, the group that issues it, its workgroup and launch, and what its
accesses translate under. -/
structure Fire where
  s : State
  m : Mv
  dest : BitVec 12
  w : Workgroup
  g : Group
  l : Launch
  who : Who

/-- The group's number. -/
def Fire.ref (f : Fire) : GRef := refOf f.w f.g
/-- The unit that the destination code names (R213). -/
def Fire.unit (f : Fire) : Nat := f.dest.toNat / 128
/-- The lanes where the move applies (R204). -/
def Fire.lanes (f : Fire) : Mask := (loneMove f.m f.dest).lanes f.g
/-- The lowest of them. -/
def Fire.first (f : Fire) : Option Nat := lowestLane f.g.width f.lanes
/-- The value the move delivers to a lane (R203): its source, read after the results due at this issue have become visible. -/
def Fire.t (f : Fire) (k : Nat) : W64 := (srcLane f.g.advance (loneMove f.m f.dest) 0 k).val
/-- An operand port of the unit in a lane. -/
def Fire.op (f : Fire) (p k : Nat) : W64 := f.g.opnd k f.unit p
/-- The group with the source popped and the move written: steps 5 and 6 of R221. -/
def Fire.moved (f : Fire) : Group := loneMoved f.g f.m f.dest
/-- The state with that group in its place. -/
def Fire.start (f : Fire) : State := f.s.setGroup f.ref f.moved
/-- Text offsets of the bundle and of the one behind it. -/
def Fire.pc (f : Fire) : W32 := f.l.textOffset f.g.pc
def Fire.next (f : Fire) : W32 := f.pc + w32 (loneLen f.m f.dest)
/-- FLUSHH and DIVTRAP of the launch record (R177). -/
def Fire.flush (f : Fire) : Bool := f.l.lrec.flushH
def Fire.divTrap (f : Fire) : Bool := f.l.lrec.divTrap

/-- What a trigger of the lone move is given. -/
def Fire.trigIn (f : Fire) (u q : Nat) : TrigIn where
  g := f.ref
  bus := 0
  unit := u
  port := q
  lanes := f.lanes
  t := (List.range f.g.width).map f.t
  pc := f.pc
  next := f.next

/-- The group x behind its bundle (step 8 of R221): latches, segment and issue counts; the program counter goes to the target of
a transfer, with the redirect still to come (R335), or in sequence. -/
def Fire.behind (f : Fire) (x : Group) : Group :=
  let y := loneDone f.g x f.m f.dest
  match x.target with
  | some t => ({ y with pc := t, target := none, endDue := false } : Group).addWait .redirect
  | none => y

/-- A state in which the bundle's issue is over, for the group that has issued it. -/
def Fire.over (f : Fire) (t : State) : State :=
  ((t.modGroup f.ref f.behind).clearMisses f.who).clearFw f.who none

/-- A state with the issuing group changed. -/
def Fire.with (f : Fire) (h : Group → Group) : State := f.start.modGroup f.ref h

/-- An instruction of the move form completes: whenever the group is ready and the premise holds, exec answers the state
in which the trigger has had its effect and the issue is over. -/
def Fires (mk : Mv → Instr) (dest : BitVec 12) (hyp : Fire → Prop) (post : Fire → State) : Prop :=
  ∀ s m w g l who, Ready s m dest w g l who → hyp ⟨s, m, dest, w, g, l, who⟩ →
    exec (mk m) s = .next (Fire.over ⟨s, m, dest, w, g, l, who⟩ (post ⟨s, m, dest, w, g, l, who⟩))

/-- It traps: the bundle has no effect, and the group takes this precise trap at the bundle's own program counter (R221, R391). -/
def Traps (mk : Mv → Instr) (dest : BitVec 12) (hyp : Fire → Prop) (trap : Fire → TrapInfo) : Prop :=
  ∀ s m w g l who, Ready s m dest w g l who → hyp ⟨s, m, dest, w, g, l, who⟩ →
    exec (mk m) s = .next (((s.raise (refOf w g) (trap ⟨s, m, dest, w, g, l, who⟩) (l.textOffset g.pc)).clearMisses who).clearFw
      who none)

/-- No premise. -/
def always (_ : Fire) : Prop := True

/-! ### Fixed-latency units -/

/-- The inputs of a lane of the unit (R266). -/
def Fire.input (f : Fire) (k : Nat) : LaneIn := laneIn f.g f.unit k (f.t k)

/-- What the lanes compute; nothing where the move does not apply. -/
def Fire.outs (f : Fire) (rule : LaneRule) : List (Option LaneOut) :=
  (List.range f.g.width).map fun k => if f.lanes.getLsbD k then some (rule f.flush (f.input k)) else none

/-- The value of a lane's result, 0 where there is none. -/
def resultOf (p : LaneOut → W64) (o : Option LaneOut) : W64 := match o with
  | some x => p x
  | none => 0

/-- Does a lane write rb? -/
def writesRb (o : Option LaneOut) : Bool := match o with
  | some x => x.rb.isSome
  | none => false

/-- A group whose unit has been triggered: generators step, and the results become visible in r, and in rb where the trigger
writes it, after `lat` of the group's own issues, in the lanes of the move (R208, R267). -/
def Fire.staged (f : Fire) (lat : Nat) (outs : List (Option LaneOut)) (g : Group) : Group :=
  let lanes := (g.lanes.zip outs).map fun (x, o) => match o with
    | some y => { x with gen := y.st }
    | none => x
  let entry : Staged :=
    { unit := f.unit, rem := lat, lanes := f.lanes, r := some (outs.map (resultOf (·.r)))
      rb := if outs.any writesRb then some (outs.map (resultOf (·.rb.getD 0))) else none, old := false }
  { g with lanes := lanes, staged := if outs.any Option.isSome then g.staged ++ [entry] else g.staged }

/-- A trigger of a fixed-latency unit that computes lane by lane. -/
def LaneUnit (mk : Mv → Instr) (dest : BitVec 12) (lat : Nat) (rule : LaneRule) : Prop :=
  Fires mk dest always fun f => f.with (f.staged lat (f.outs rule))

/-- The participating lanes of a p0 trigger (R287). -/
def Fire.parts (f : Fire) : Parts := (lanesOf f.g.width f.lanes).map fun k => (k, f.input k)

/-- A trigger of p0: each participating lane gets its rule's value, two issues later (R225, R287). -/
def GroupOp (mk : Mv → Instr) (dest : BitVec 12) (rule : GroupRule) : Prop :=
  Fires mk dest always fun f => f.with (f.staged 2 ((List.range f.g.width).map fun k =>
    if f.lanes.getLsbD k then
      some { r := rule f.g.width f.parts k (f.input k), rb := none, st := (f.input k).st }
    else none))

/-- Destination code of a trigger port of a unit (R213). -/
def trig (unit : BitVec 5) (port : BitVec 7) : BitVec 12 := unit ++ port

/-- A rule holds on both identical units, a0 and a1. -/
def OnA (mk : BitVec 1 → Mv → Instr) (port : BitVec 7) (rule : LaneRule) : Prop :=
  LaneUnit (mk 0) (trig 0x04 port) 1 rule ∧ LaneUnit (mk 1) (trig 0x05 port) 1 rule

/-- A rule holds on f0 and on f1. -/
def OnF (mk0 mk1 : Mv → Instr) (port : BitVec 7) (rule : LaneRule) : Prop :=
  LaneUnit mk0 (trig 0x07 port) 4 rule ∧ LaneUnit mk1 (trig 0x08 port) 4 rule

end Sys2Proof.Claims
end

