-- ==== Sys2Proof/Claims/Units.lean ====
section
/-!
DEFINITION. Units: what the statements say of the memory ports, the copy and queue units, Encke, the matrix unit and the control
and system unit (spec/10 to spec/12): the state in which a lone trigger leaves its group and workgroup.
-/

namespace Sys2Proof.Claims

open Sys2Proof.Machine

/-- A trigger that acts in the lowest lane where its move applies: there it has its effect when the condition holds; applied
to no lane it does nothing. -/
def FiresAt (mk : Mv → Instr) (dest : BitVec 12) (ok : Fire → Nat → Prop) (eff : Fire → Nat → State) : Prop :=
  (∀ k, Fires mk dest (fun f => f.first = some k ∧ ok f k) fun f => eff f k) ∧
    Fires mk dest (fun f => f.first = none) Fire.start

/-- No condition. -/
def anyLaneOk (_ : Fire) (_ : Nat) : Prop := True

/-! ### ld (R296 to R305, R78) -/

/-- The lanes where the move applies, ascending. -/
def Fire.applied (f : Fire) : List Nat := lanesOf f.g.width f.lanes

/-- Address of a lane: operand a plus the sign-extended trigger value (R297). -/
def Fire.ldAddr (f : Fire) (k : Nat) : W64 := f.op 0 k + sx (lo32 (f.t k))

/-- Every applied lane's address passes the checks of R300, with these pieces and buffer entries. -/
abbrev Fire.passes (f : Fire) (va : Nat → W64) (size : Nat) (acc : Acc) (strict : Nat → Bool) (ps : Nat → List Piece)
    (es : Nat → List (Option TbEntry)) : Prop :=
  ∀ k ∈ f.applied, f.start.checkLane f.who k (va k) size acc (strict k) = .ok (ps k) (es k)

/-- The group with one more operation numbered in group order (R82). -/
def numbered (g : Group) : Group := { g with ord := g.ord + 1 }

/-- A new entry of a queued result port: the lanes waited for are empty, the others full with 0 (R206). -/
def freshEntry (g : Group) (lanes : Mask) : REntry :=
  { id := g.ord, vals := List.replicate g.width 0, full := fullMask g.width &&& ~~~lanes, poison := 0, flags := 0 }

/-- A load enters the ld queue with an operation for each applied lane, and pushes an entry of ld.r (R301). -/
def LoadRule (mk : Mv → Instr) (port : BitVec 7) (size : Nat) (signed : Bool) : Prop :=
  ∀ ps es, Fires mk (trig 0x0C port)
    (fun f => f.passes f.ldAddr size .load (fun k => (f.op 2 k).getLsbD 3) ps es)
    fun f => (f.start.touchAll f.who (f.applied.flatMap es) false).modGroup f.ref fun g =>
      { numbered g with
        ldq := g.ldq ++ [{ id := g.ord, op := .load signed, size := size, pc := f.pc, popped := false
                           lanes := f.applied.map fun k =>
                             newLaneOp k (f.ldAddr k) (ps k) 0 0 (f.op 2 k) ((f.op 2 k).getLsbD 3) }]
        ldr := g.ldr ++ [freshEntry g f.lanes] }

/-- A store enters the store queue with the bytes of operand b for each applied lane (R302); applied to no lane it does nothing. -/
def StoreRule (mk : Mv → Instr) (port : BitVec 7) (size : Nat) : Prop :=
  (∀ ps es, Fires mk (trig 0x0C port)
    (fun f => f.applied ≠ [] ∧ f.passes f.ldAddr size .store (fun k => (f.op 2 k).getLsbD 3) ps es)
    fun f => (f.start.touchAll f.who (f.applied.flatMap es) true).modGroup f.ref fun g =>
      { numbered g with
        stq := g.stq ++ [{ id := g.ord, op := .store, size := size, pc := f.pc, popped := false
                           lanes := f.applied.map fun k =>
                             newLaneOp k (f.ldAddr k) (ps k) (f.op 1 k) 0 (f.op 2 k) ((f.op 2 k).getLsbD 3) }] }) ∧
  Fires mk (trig 0x0C port) (fun f => f.applied = []) Fire.start

/-- A fence enters the ld queue with the scope of its trigger value, codes 5 to 7 acting as 4, and leaves it at once when every
operation it waits for is done (R87, R305). -/
def FenceRule (mk : Mv → Instr) (port : BitVec 7) (kind : FenceKind) : Prop :=
  FiresAt mk (trig 0x0C port) anyLaneOk fun f k => f.with fun g =>
    { numbered g with
      ldq := g.ldq ++ [{ id := g.ord, op := .fence kind (min 4 ((f.t k).toNat % 8)), size := 0, pc := f.pc, lanes := []
                         popped := false }] : Group }.settleFences (f.start.acqHeld f.ref)

/-- pgstate of lanes whose addresses translate for a query: the query enters the ld queue with the leaf's level of each lane, and
pushes an entry of ld.r (R78). -/
def PgstateRule : Prop :=
  ∀ (ps : Nat → List Piece) (es : Nat → List (Option TbEntry)), Fires .ldPgstate (trig 0x0C 0x30)
    (fun f => ∀ k ∈ f.applied, f.start.checkQuery f.who k (f.ldAddr k) = .ok (ps k) (es k))
    fun f => f.with fun g =>
      { numbered g with
        ldq := g.ldq ++ [{ id := g.ord, op := .pgstate, size := 4, pc := f.pc, popped := false
                           lanes := f.applied.map fun k =>
                             newLaneOp k (f.ldAddr k) (ps k) 0
                               (w64 (match es k with
                                 | some e :: _ => e.level
                                 | _ => 0)) 0 false }]
        ldr := g.ldr ++ [freshEntry g f.lanes] }

/-! ### am (R306 to R309) -/

/-- Every applied lane's location passes the checks: alignment always, and no 8-byte operation other than a counter's through the
private lane view (R300, R307). -/
abbrev Fire.amPasses (f : Fire) (o : AmOp) (size : Nat) (ps : Nat → List Piece) (es : Nat → List (Option TbEntry)) : Prop :=
  ∀ k ∈ f.applied, f.start.checkAm f.who o size k (f.op 0 k) = .ok (ps k) (es k)

/-- An atomic or counter operation enters the am queue with its data in the trigger value and its expected value or grain in
operand b; one that returns a value pushes an entry of am.r (R306, R309). One that returns nothing and applies to no lane does
nothing but take its number. -/
def AmRule (mk : Mv → Instr) (port : BitVec 7) (o : AmOp) (size : Nat) (returns : Bool) : Prop :=
  ∀ ps es, Fires mk (trig 0x10 port) (fun f => f.amPasses o size ps es)
    fun f => (f.start.touchAll f.who (f.applied.flatMap es) o.acc.writes).modGroup f.ref fun g =>
      { numbered g with
        amq := if f.applied.isEmpty && !returns then g.amq else
          g.amq ++ [{ id := g.ord, op := .atomic o, size := size, pc := f.pc, popped := false
                      lanes := f.applied.map fun k =>
                        newLaneOp k (f.op 0 k) (ps k) (f.t k) (f.op 1 k) (f.op 2 k) false }]
        amr := if returns then g.amr ++ [freshEntry g f.lanes] else g.amr }

/-! ### cp (R310 to R317) -/

/-- The shape slot that a copy's trigger value names. -/
def Fire.shape (f : Fire) (t : W64) : Shape := (f.g.shapes[t.toNat % 4]?).getD Shape.zero

/-- The copy of one lane (R310, R311). -/
def Fire.job (f : Fire) (t : W64) (k : Nat) : CopyJob :=
  copyJob (f.shape t) f.g.ord f.pc k (f.op 0 k) (f.op 1 k) (f.op 2 k) (f.op 3 k) t

/-- A copy that is aligned throughout, with address classes that match its direction (R312), and with no completion barrier or one
that the group may name (R317). -/
abbrev Fire.copyOk (f : Fire) (d : CopyDir) (t : W64) : Prop :=
  (∀ k ∈ f.applied,
    (f.job t k).src.toNat % (f.job t k).esize = 0 ∧ (f.job t k).dst.toNat % (f.job t k).esize = 0 ∧
    (∀ v ∈ [(f.job t k).s1, (f.job t k).s2, (f.job t k).d1, (f.job t k).d2], v % ((f.job t k).esize : Int) = 0) ∧
    d.matches (sideOf (f.job t k).src) (sideOf (f.job t k).dst) = true) ∧
  (t.getLsbD 4 = true → ∀ k ∈ f.applied, f.start.barOk f.ref (t.getLsbD 5) (fld (f.op 2 k) 0 5) = true)

/-- A copy: each applied lane's copy joins the channel that the trigger value names, and the trigger holds a place of the cp queue. -/
def CopyRule (mk : Mv → Instr) (port : BitVec 7) (d : CopyDir) : Prop :=
  FiresAt mk (trig 0x0D port) (fun f k => f.copyOk d (f.t k)) fun f k => f.with fun g =>
    { numbered g with
      chans := modAt g.chans (fld (f.t k) 2 2) fun c => { c with jobs := c.jobs ++ f.applied.map (f.job (f.t k)) }
      cpq := g.cpq ++ [.copy g.ord] }

/-- shape writes the slot its trigger value names from operands a to d (R310). -/
def ShapeRule : Prop :=
  FiresAt .cpShape (trig 0x0D 0x07) anyLaneOk fun f k => f.with fun g =>
    { g with shapes := setAt g.shapes ((f.t k).toNat % 4) ⟨f.op 0 k, f.op 1 k, f.op 2 k, f.op 3 k⟩ }

/-- seal closes the open batch under the next number, skipping 0, and delivers the number to cp.r (R314). -/
def SealRule : Prop :=
  FiresAt .cpSeal (trig 0x0D 0x08) anyLaneOk fun f _ => f.with fun g =>
    let b := g.nextBatch
    let h : Group := { numbered g with
      chans := g.chans.map fun c => { c with jobs := c.jobs.map fun j => if j.batch = 0 then { j with batch := b } else j }
      nextBatch := if (b + 1) % 4294967296 = 0 then 1 else (b + 1) % 4294967296
      batches := g.batches ++ [b]
      cpq := g.cpq ++ [.seal b] }
    (h.giveVar .cp f.lanes (w64 b) none).settleBatches

/-- wait holds its group until at most N32(T) sealed batches are unfinished (R315). -/
def CpWaitRule : Prop :=
  FiresAt .cpWait (trig 0x0D 0x09) anyLaneOk fun f k => f.with fun g =>
    (({ numbered g with cpq := g.cpq ++ [.wait (n32 (f.t k))] } : Group).addWait (.batch (n32 (f.t k)) g.ord)).settleBatches

/-- wptr empties cp.r, which asks for the write pointer that its trigger value names; the read is made when the result lands
(R316). -/
def WptrRule : Prop :=
  FiresAt .cpWptr (trig 0x0D 0x0A) anyLaneOk fun f k => f.with fun g => g.giveVar .cp f.lanes 0 (some (f.t k))

/-- bar adds N32(A) to the bytes that a barrier the group may name expects, and lets its waiters go when that completes it
(R317). -/
def CpBarRule : Prop :=
  ∀ b, FiresAt .cpBar (trig 0x0D 0x0B)
    (fun f k => f.start.barAt f.ref ((f.t k).getLsbD 5) = some b ∧ (f.t k).toNat % 32 < (f.start.bars b).length)
    fun f k => (f.start.barBytes f.ref ((f.t k).getLsbD 5) ((f.t k).toNat % 32) (n32 (f.op 0 k))).releaseBar b
      ((f.t k).getLsbD 5) ((f.t k).toNat % 32)

/-! ### q0 (R320 to R323) -/

/-- A queue operation of the group. -/
def Fire.queueOp (f : Fire) (k : QKind) (l : Nat) (handle : W32) : QOp :=
  { id := f.moved.ord, kind := k, name := f.t l, handle := handle, lanes := f.lanes, arrived := false, done := false, popped := false }

/-- push enters the q0 queue and holds its group until it is performed; applied to no lane it only takes its number. -/
def PushRule : Prop :=
  (∀ k, Fires .q0Push (trig 0x0E 0x04) (fun f => f.first = some k) fun f => f.with fun g =>
    ({ numbered g with q0q := g.q0q ++ [f.queueOp .push k (lo32 (f.op 0 k))] } : Group).addWait (.queueOp g.ord)) ∧
  Fires .q0Push (trig 0x0E 0x04) (fun f => f.first = none) fun f => f.with numbered

/-- pop, trypush and trypop enter the q0 queue and push an entry of q0.r; pop holds its group. Applied to no lane they perform
nothing: the entry is full, with ST 01 (R322). -/
def PopRule (mk : Mv → Instr) (port : BitVec 7) (kind : QKind) (holds : Bool) : Prop :=
  (∀ k, Fires mk (trig 0x0E port) (fun f => f.first = some k) fun f => f.with fun g =>
    let h : Group := { numbered g with
      q0q := g.q0q ++ [f.queueOp kind k (lo32 (f.op 0 k))], q0r := g.q0r ++ [freshEntry g f.lanes] }
    if holds then h.addWait (.queueOp g.ord) else h) ∧
  Fires mk (trig 0x0E port) (fun f => f.first = none) fun f => f.with fun g =>
    { numbered g with
      q0q := g.q0q ++
        [{ id := g.ord, kind := kind, name := 0, handle := 0, lanes := 0, arrived := true, done := true, popped := false }]
      q0r := g.q0r ++ [{ freshEntry g 0 with vals := List.replicate g.width 0x100000000 }] }

/-- qinit of a queue whose base is aligned and whose slots lie within the owner's scratchpad, or of a name that is none: it is
queued behind the group's earlier q0 triggers (R321, R323). -/
def QinitRule : Prop :=
  FiresAt .q0Qinit (trig 0x0E 0x08)
    (fun f k => ∀ a, f.start.queueAt f.ref (f.t k) = some a → ∃ q owner, f.start.queue? a = some q ∧ f.start.wg? a.wid = some owner ∧
      n32 (f.op 0 k) % 4 = 0 ∧ n32 (f.op 0 k) + 4 * q.depth ≤ owner.scratchSize)
    fun f k => f.with fun g => { numbered g with q0q := g.q0q ++ [f.queueOp .qinit k (lo32 (f.op 0 k))] }

def QinvalRule : Prop :=
  FiresAt .q0Qinval (trig 0x0E 0x09) anyLaneOk fun f k =>
    f.with fun g => { numbered g with q0q := g.q0q ++ [f.queueOp .qinval k 0] }

/-! ### mx (R375 to R379) -/

/-- The workgroup of the group, which owns accumulator banks (R375). -/
abbrev Fire.owner (f : Fire) (x : Workgroup) : Prop := f.start.wg? f.ref.wg = some x ∧ x.accumBanks ≠ []

/-- A state with the workgroup's nest changed. -/
def Fire.nest (f : Fire) (h : Nest → Nest) : State := f.start.modNest f.ref.wg h

/-- Slot j of a nest with word k replaced. -/
def slotWord (j k : Nat) (v : W32) (n : Nest) : Nest :=
  { n with slots := modAt n.slots j fun x => { x with words := setAt x.words k v } }

/-- cfg writes word T, 1 to 50, of the OPEN slot from operand a; fmt writes word 0 from the trigger value (R376). -/
def CfgRule : Prop :=
  ∀ x j, FiresAt .mxCfg (trig 0x0F 0x04)
    (fun f k => f.owner x ∧ x.nest.openSlot = some j ∧ 1 ≤ n32 (f.t k) ∧ n32 (f.t k) ≤ 50)
    fun f k => f.nest (slotWord j (n32 (f.t k)) (lo32 (f.op 0 k)))
def FmtRule : Prop :=
  ∀ x j, FiresAt .mxFmt (trig 0x0F 0x05) (fun f _ => f.owner x ∧ x.nest.openSlot = some j)
    fun f k => f.nest (slotWord j 0 (lo32 (f.t k)))

/-- go seals the OPEN slot of a nest that is not faulted and whose command passes the checks: it gets the next sequence number
and the tag of the trigger value, is READY or RUNNING, and the other slot opens when it can (R377, R380). -/
def GoRule : Prop :=
  ∀ x j, FiresAt .mxGo (trig 0x0F 0x06)
    (fun f _ => f.owner x ∧ x.nest.openSlot = some j ∧ x.nest.faulted = false ∧
      formatOk (x.nest.slots[j]?.getD (NSlot.zero .free)).words = true ∧
      stepCount (x.nest.slots[j]?.getD (NSlot.zero .free)).words ≤ 1048576)
    fun f k =>
      let ws := (x.nest.slots[j]?.getD (NSlot.zero .free)).words
      let t := (f.nest fun n =>
        let seq := (n.cmdSeq + 1) % 65536
        let slot : NSlot :=
          { st := .ready, words := ws, seq := seq, tag := (f.t k).toNat % 65536, byGroup := f.ref.gi, ord := f.moved.ord
            pc := f.pc, order := f.start.goCount }
        let sealed : Nest := { n with cmdSeq := seq, last := ws, slots := setAt n.slots j slot }
        (if n.pending = 0 then sealed.promote else sealed).reopen).modGroup f.ref numbered
      { t with goCount := f.start.goCount + 1 }

/-- wait empties mx.r and holds its group until at most N32(T) commands are pending (R378). -/
def MxWaitRule : Prop :=
  ∀ x, FiresAt .mxWait (trig 0x0F 0x07) (fun f _ => f.owner x) fun f k =>
    (f.with fun g => ({ numbered g with
      mxFull := g.mxFull &&& ~~~f.lanes, varPend := g.varLeft .mx f.lanes } : Group).addWait
        (.mxWait (n32 (f.t k)) f.lanes g.ord)).settleMx f.ref.wg

/-- poll and stat deliver the nest's status and a word of its fault record to mx.r (R378). -/
def PollRule : Prop :=
  ∀ x, FiresAt .mxPoll (trig 0x0F 0x08) (fun f _ => f.owner x) fun f _ =>
    f.with fun g => g.giveVar .mx f.lanes (x.nest.status true) none
def StatRule : Prop :=
  ∀ x, FiresAt .mxStat (trig 0x0F 0x09) (fun f _ => f.owner x) fun f k =>
    f.with fun g => g.giveVar .mx f.lanes (x.nest.fault[n32 (f.t k) % 4]?.getD 0) none

/-- bank and reset hold their group until no command is pending, and until none runs (R379). -/
def BankRule : Prop :=
  ∀ x, FiresAt .mxBank (trig 0x0F 0x0A) (fun f k => f.owner x ∧ (f.t k).toNat % 2 < x.accumBanks.length) fun f k =>
    (f.with fun g => (numbered g).addWait (.mxBank ((f.t k).toNat % 2))).settleMx f.ref.wg
def MxResetRule : Prop :=
  ∀ x, FiresAt .mxReset (trig 0x0F 0x0B) (fun f _ => f.owner x) fun f _ =>
    (f.with fun g => (numbered g).addWait .mxReset).settleMx f.ref.wg

/-! ### xe (R324 to R329) -/

/-- open waits for every core of a valid mask; an invalid one waits while another group of its core is in a phase (R324). -/
def OpenRule : Prop :=
  (∀ x, FiresAt .xeOpen (trig 0x11 0x04)
    (fun f k => f.start.wg? f.ref.wg = some x ∧ f.start.openValid x ((f.t k).toNat % 16777216) = false ∧ f.start.phaseOn x.core = true)
    fun f k => f.with fun g => g.addWait (.xeOpen (w64 (n32 (f.t k))))) ∧
  ∀ x, FiresAt .xeOpen (trig 0x11 0x04)
    (fun f k => f.start.wg? f.ref.wg = some x ∧ f.start.openValid x ((f.t k).toNat % 16777216) = true) fun f k =>
      f.with fun g => g.addWait (.xeOpen (w64 (n32 (f.t k))))

/-- An invalid open starts a broken phase of its own core alone, which runs none (R324, R329). -/
def BrokenOpenRule : Prop :=
  ∀ x k, Fires .xeOpen (trig 0x11 0x04)
    (fun f => f.first = some k ∧ f.start.wg? f.ref.wg = some x ∧ f.start.openValid x ((f.t k).toNat % 16777216) = false ∧
      f.start.phaseOn x.core = false)
    fun f => f.start.startPhase x.core.die (2 ^ x.core.core) [(x.core.core, f.ref)] true

/-- send drives the core's wires in this phase cycle: each applied lane drives the wire that operand a names, the rest are 0;
outside a phase it has no effect (R327). -/
def SendRule : Prop :=
  (∀ x pid n, FiresAt .xeSend (trig 0x11 0x05) (fun f _ => f.start.wg? f.ref.wg = some x ∧ f.g.phase = some (pid, n))
    fun f k => f.start.modPhase pid fun p => { p with sends := p.sends ++
      [{ cycle := n, core := x.core.core, tag := (f.op 1 k).toNat % 256
         wires := f.applied.foldl (fun ws j => setAt ws ((f.op 0 j).toNat % 64) (lo32 (f.t j))) (List.replicate 64 0) }] }) ∧
  Fires .xeSend (trig 0x11 0x05) (fun f => f.g.phase = none) Fire.start

/-- What a sel does with the wires it matches, or with none (R327 to R329). -/
def Fire.selected (f : Fire) (ws : Option (List W32)) (g : Group) : Group :=
  match ws with
  | some ws => g.stage 0x11 1 f.lanes (some ((List.range g.width).map fun k => zx (ws[k]?.getD 0))) none
  | none =>
    ({ g with xeIdle := true, xeUnmatched := min 65535 (g.xeUnmatched + 1) } : Group).stage 0x11 1 f.lanes
      (some (List.replicate g.width 0)) none

/-- sel samples the wires that another core has sent in the phase cycle that lies the transfer delay back. -/
def SelRule : Prop :=
  (∀ x pid n p, FiresAt .xeSel (trig 0x11 0x06)
    (fun f _ => f.start.wg? f.ref.wg = some x ∧ f.g.phase = some (pid, n) ∧ f.start.phase? pid = some p)
    fun f k => f.with (f.selected (p.sample x.core.core n ((f.t k).toNat % 32) ((f.t k).toNat / 32 % 256) ((f.t k).getLsbD 13)))) ∧
  ∀ k, Fires .xeSel (trig 0x11 0x06) (fun f => f.first = some k ∧ f.g.phase = none)
    fun f => f.with fun g =>
      ({ g with xeIdle := true } : Group).stage 0x11 1 f.lanes (some (List.replicate g.width 0)) none

/-- close ends the phase for its core, and a loop that its group is asked to leave drains from now on (R195, R328; log 44); outside a
phase it has no effect. -/
def CloseRule : Prop :=
  (∀ x pid n, FiresAt .xeClose (trig 0x11 0x07) (fun f _ => f.start.wg? f.ref.wg = some x ∧ f.g.phase = some (pid, n))
    fun f _ => ((f.with fun g => ({ g with phase := none } : Group).drain).modPhase pid fun p =>
      { p with closed := p.closed ++ [(x.core.core, n)] }).tidyPhases) ∧
  Fires .xeClose (trig 0x11 0x07) (fun f => f.g.phase = none) Fire.start

/-- idle reads the exchange flags: IDLE, BROKEN, OPEN and the count of unmatched sels (R329); clr clears all but OPEN. -/
def IdleRule : Prop :=
  FiresAt .xeIdle (trig 0x11 0x08) anyLaneOk fun f _ => f.with fun g =>
    g.stage 0x11 1 f.lanes (some (List.replicate g.width
      (w64 (b2n g.xeIdle + 2 * b2n g.xeBroken + 4 * b2n g.phase.isSome + 65536 * g.xeUnmatched)))) none
def ClrRule : Prop :=
  FiresAt .xeClr (trig 0x11 0x09) anyLaneOk fun f _ =>
    f.with fun g => { g with xeIdle := false, xeBroken := false, xeUnmatched := 0 }

end Sys2Proof.Claims
end

