-- ==== Sys2Proof/Claims/Control.lean ====
section
/-!
DEFINITION. Control: what the statements say of the control and system unit (spec/11): transfers, the mark-join and return stacks,
loops, barriers, waits, checks, traps and the return from the handler.
-/

namespace Sys2Proof.Claims

open Sys2Proof.Machine

/-- A trigger of sy. -/
def sy (port : BitVec 7) : BitVec 12 := trig 0x12 port

/-- A valid target (R333): a multiple of 4 inside the text. -/
abbrev Fire.validTarget (f : Fire) (o : W32) : Prop := o.toNat % 4 = 0 ∧ o.toNat < f.l.hdr.textLen

/-- The group on its way to a text offset (R335). -/
def Fire.to (f : Fire) (o : W32) (g : Group) : Group := { g with target := some (f.l.textBase + zx o) }

/-- The result r of a sy trigger, one value for the group, is visible at the next issue (R331). -/
def syResult (v : W64) (g : Group) : Group := g.stage 0x12 1 (fullMask g.width) (some (List.replicate g.width v)) none

/-! ### Transfers (R333 to R339) -/

/-- jmp goes to its trigger value, a valid target (R334). -/
def JmpRule : Prop :=
  FiresAt .syJmp (sy 0x04) (fun f k => f.validTarget (lo32 (f.t k))) fun f k => f.with (f.to (lo32 (f.t k)))

/-- br goes there in the lanes where it applies: when those are all active lanes it is a jump; otherwise the others are pushed
as a pending entry at the bundle behind, and the active mask becomes the lanes of the branch (R337). -/
def BrRule : Prop :=
  FiresAt .syBr (sy 0x05)
    (fun f k => f.validTarget (lo32 (f.t k)) ∧ (f.lanes = f.g.k0 ∨ f.g.mj.length < 32))
    fun f k => f.with fun g =>
      if f.lanes = f.g.k0 then f.to (lo32 (f.t k)) g
      else f.to (lo32 (f.t k))
        (({ g with mj := ⟨.pending, f.next, f.g.k0 &&& ~~~f.lanes⟩ :: g.mj } : Group).setK 0 f.lanes)

/-- mark pushes a rejoin entry with the active mask (R336). -/
def MarkRule : Prop :=
  FiresAt .syMark (sy 0x08) (fun f k => f.validTarget (lo32 (f.t k)) ∧ f.g.mj.length < 32) fun f k =>
    f.with fun g => { g with mj := ⟨.rejoin, lo32 (f.t k), f.g.k0⟩ :: g.mj }

/-- join pops an entry that no call has pushed, and goes to its address with its mask (R336, R337). -/
def JoinRule : Prop :=
  ∀ e rest, FiresAt .syJoin (sy 0x09)
    (fun f _ => f.g.mj = e :: rest ∧ (e.kind = .rejoin ∨ e.kind = .pending))
    fun f _ => f.with fun g => f.to e.addr (({ g with mj := rest } : Group).setK 0 e.mask)

/-- A call whose active lanes all apply with one valid target, with room on chip: the return address, the depth of the mark-join
stack and SER 0 are pushed (R338). -/
def CallRule : Prop :=
  ∀ o, Fires .syCall (sy 0x06)
    (fun f => f.applied ≠ [] ∧ (∀ k ∈ f.applied, lo32 (f.op 0 k) = o) ∧ f.validTarget o ∧ f.lanes = f.g.k0 ∧
      f.g.ras.length < 16)
    fun f => f.with fun g => f.to o { g with ras := ⟨f.next, g.mj.length, false⟩ :: g.ras }

/-- A call with several targets, or not of all active lanes, is serialised: a call-join entry and a pending entry for each target
but the lowest are pushed, and the lanes of the lowest target run first (R338). -/
def CallSerialRule : Prop :=
  ∀ o ls rest, Fires .syCall (sy 0x06)
    (fun f => callTargets f.moved (f.trigIn 0x12 0x06) = (o, ls) :: rest ∧ f.validTarget o ∧
      (∀ x ∈ rest, f.validTarget x.1) ∧ ¬(f.lanes = f.g.k0 ∧ rest = []) ∧ f.g.mj.length + 1 + rest.length ≤ 32 ∧
      f.g.ras.length < 16)
    fun f => f.with fun g =>
      let mj : List MJEntry := rest.map (fun x => ⟨.callPend, x.1, x.2⟩) ++ [⟨.callJoin, f.next, f.g.k0⟩] ++ g.mj
      f.to o (({ g with ras := ⟨f.next, mj.length, true⟩ :: g.ras, mj := mj } : Group).setK 0 ls)

/-- A call applied to no lane does nothing. -/
def CallNoneRule : Prop := Fires .syCall (sy 0x06) (fun f => f.applied = []) Fire.start

/-- ret pops an entry that is on chip and whose depth is that of the mark-join stack; with SER 0 it goes to the return address
(R339). -/
def RetRule : Prop :=
  ∀ e rest, FiresAt .syRet (sy 0x07)
    (fun f _ => f.g.ras = e :: rest ∧ e.depth = f.g.mj.length ∧ e.ser = false)
    fun f _ => f.with fun g => f.to e.ra { g with ras := rest }

/-- With SER 1 it pops the mark-join entry on top: a pending one runs the next target's lanes and keeps the return, any other ends the
call with its mask (R339). -/
def RetSerialRule : Prop :=
  ∀ e rest top mj, FiresAt .syRet (sy 0x07)
    (fun f _ => f.g.ras = e :: rest ∧ e.depth = f.g.mj.length ∧ e.ser = true ∧ f.g.mj = top :: mj)
    fun f _ => f.with fun g =>
      let x : Group := ({ g with ras := rest, mj := mj } : Group).setK 0 top.mask
      if top.kind = .callPend then f.to top.addr { x with ras := ⟨e.ra, mj.length, true⟩ :: rest } else f.to e.ra x

/-! ### Loops (R340 to R342) -/

/-- The operands of a loop: its body, which starts behind the bundle, has a length that is a positive multiple of 4 and ends inside
the text; 1 to 8 stages (R340). -/
abbrev Fire.loopOk (f : Fire) (k : Nat) : Prop :=
  let len := (f.op 0 k).toNat % 16777216
  let stages := (f.op 1 k).toNat % 16
  1 ≤ stages ∧ stages ≤ 8 ∧ 0 < len ∧ len % 4 = 0 ∧ f.next.toNat + len ≤ f.l.hdr.textLen

/-- A loop of no trips goes behind its body; any other starts at j = 0 with the guards of stages of the first issue (R340, R341). In a group
that has been asked to leave, no second iteration begins, unless the loop is over so soon that it is in its epilogue (R343). -/
def LoopRule : Prop :=
  FiresAt .syLoop (sy 0x0A) (fun f k => f.loopOk k) fun f k =>
    let len := (f.op 0 k).toNat % 16777216
    let stages := (f.op 1 k).toNat % 16
    if n32 (f.t k) = 0 then f.with (f.to (w32 (f.next.toNat + len)))
    else f.with fun g =>
      let u := if g.draining ∧ 3 < n32 (f.t k) + stages then min (n32 (f.t k)) 1 else n32 (f.t k)
      ({ g with
        loop := { active := true, s0 := f.next.toNat, len := len, stages := stages, n := n32 (f.t k), b := 0, u := u, j := 0 } } :
          Group).driveStages

/-- A group out of its loop: LOOP and k8 to k15 are 0 (R342). -/
def outOfLoop (x : Group) : Group :=
  { x with
    loop := { x.loop with active := false }
    kregs := (List.range 8).foldl (fun r j => r.set (8 + j) 0) x.kregs
    kbad := x.kbad.filter fun k => !(8 ≤ k && k < 16) }

/-- brk in a loop ends it and goes to the bundle behind its body; outside a loop it has no effect (R342). -/
def BrkRule : Prop :=
  (∀ s m w g l who, Heads s w g l who → g.handler = false → g.loop.active = true → loneCheck g l m (sy 0x0B) = .go →
    let f : Fire := ⟨s, m, sy 0x0B, w, g, l, who⟩
    f.first ≠ none →
    exec (.syBrk m) s = .next (f.over (f.with fun x => f.to (w32 (g.loop.s0 + g.loop.len)) (outOfLoop x)))) ∧
  Fires .syBrk (sy 0x0B) always Fire.start

/-! ### Barriers (R344 to R346) -/

/-- The barrier that a trigger value names: a set of barriers of the workgroup or the gang, and the barrier of that number. -/
abbrev Fire.bar (f : Fire) (cluster : Bool) (n : Nat) (b : BarAt) (x : Barrier) : Prop :=
  f.start.barAt f.ref cluster = some b ∧ (f.start.bars b)[n]? = some x

/-- INVAL with the phase of a barrier. -/
def invalAnswer (x : Barrier) : W64 := if x.phase then 3 else 2

/-- An arrival waits for its own performance, and with stay for the phase; at an invalid barrier it ends at once with INVAL, beside the
phase that the barrier has (R346; log 69). -/
def ArriveRule (mk : Mv → Instr) (port : BitVec 7) (cluster stay : Bool) : Prop :=
  ∀ b x, FiresAt mk (sy port) (fun f k => f.bar cluster ((f.t k).toNat % 32) b x) fun f k => f.with fun g =>
    if x.valid then (numbered g).addWait (.barArrive cluster ((f.t k).toNat % 32) stay g.ord)
    else syResult (invalAnswer x) (numbered g)

/-- barwt waits until the phase of the named barrier differs from the token of bit [6]; bit [5] selects a cluster barrier (R346). -/
def BarwtRule : Prop :=
  ∀ b x, FiresAt .syBarwt (sy 0x0E) (fun f k => f.bar ((f.t k).getLsbD 5) ((f.t k).toNat % 32) b x) fun f k =>
    (f.with fun g =>
      (numbered g).addWait (.barPhase ((f.t k).getLsbD 5) ((f.t k).toNat % 32) ((f.t k).getLsbD 6) g.ord)).releaseBar b
        ((f.t k).getLsbD 5) ((f.t k).toNat % 32)

/-- An initialisation with 1 to 16 (of a cluster barrier 1 to 384) arrivals at a barrier where no group waits (R345). -/
def BarinitRule (mk : Mv → Instr) (port : BitVec 7) (cluster : Bool) : Prop :=
  ∀ b x, FiresAt mk (sy port)
    (fun f k => f.bar cluster ((f.t k).toNat % 32) b x ∧ 0 < (f.op 0 k).toNat % 65536 ∧
      (f.op 0 k).toNat % 65536 ≤ (if cluster then 384 else 16) ∧
      f.start.barWaited b cluster ((f.t k).toNat % 32) = false)
    fun f k => (f.start.modBar b ((f.t k).toNat % 32) fun _ =>
      { valid := true, n := (f.op 0 k).toNat % 65536, rem := (f.op 0 k).toNat % 65536, bytes := 0, phase := false }).modGroup
        f.ref (syResult 0)

/-- An invalidation completes every arrival and wait at the barrier with INVAL (R345). -/
def BarinvRule (mk : Mv → Instr) (port : BitVec 7) (cluster : Bool) : Prop :=
  ∀ b x, FiresAt mk (sy port) (fun f k => f.bar cluster ((f.t k).toNat % 32) b x) fun f k =>
    (((f.start.modBar b ((f.t k).toNat % 32) fun y => { y with valid := false }).releaseBar b cluster
      ((f.t k).toNat % 32)).modGroup f.ref (syResult 0))

/-! ### Waits, time, checks, ends (R348 to R356) -/

/-- The deadline of a wake-word wait: bits [47:16] of its trigger value in µs of the time stamp, 0 for none (R348). -/
def deadlineOf (now : Nat) (t : W64) : Option Nat :=
  if t.toNat / 65536 % 4294967296 = 0 then none else some (now + t.toNat / 65536 % 4294967296 * 1000)

/-- wait on an aligned word of ordinary memory that passes the checks of a load: the group waits for the comparison, which is made
at once for the first time. A word of another kind answers FAULT (R348). -/
def WaitRule : Prop :=
  ∀ (ps : List Piece) (es : List (Option TbEntry)),
    (∀ k pa c off, Fires .syWait (sy 0x15)
      (fun f => f.first = some k ∧ f.start.checkLane f.who k (f.op 0 k) 8 .load false = .ok ps es ∧
        (f.op 0 k).toNat % 8 = 0 ∧ (ps.map (·.target)).head? = some (.phys pa c false off) ∧ paClass pa = 0)
      fun f =>
        let t := f.start.touchAll f.who es false
        (t.modGroup f.ref fun g => (numbered g).addWait (.wake (f.op 0 k) pa (wakeCmpOf ((f.t k).toNat % 4)) (f.op 1 k)
          (deadlineOf t.time (f.t k)) g.ord)).wakeAll) ∧
    (∀ k, Fires .syWait (sy 0x15)
      (fun f => f.first = some k ∧ f.start.checkLane f.who k (f.op 0 k) 8 .load false = .ok ps es ∧
        (f.op 0 k).toNat % 8 = 0 ∧
        ∀ pa c off, (ps.map (·.target)).head? = some (.phys pa c false off) → paClass pa ≠ 0)
      fun f => (f.start.touchAll f.who es false).modGroup f.ref (syResult 2)) ∧
    Fires .syWait (sy 0x15) (fun f => f.first = none) Fire.start

/-- time delivers a sample of the time stamp (R349), a cycle later than its group's sample before for each issue in between at least. How
far the stamp has moved beyond that is a free value (log 2). -/
def TimeRule : Prop :=
  FiresAt .syTime (sy 0x16) anyLaneOk fun f _ =>
    let x := f.start.groupTime f.moved
    x.2.modGroup f.ref fun g => { syResult (w64 x.1) g with sampledAt := x.2.clock, issues := 0 }

/-- chkerr delivers the check-interval register (R351). -/
def ChkerrRule : Prop :=
  FiresAt .syChkerr (sy 0x18) anyLaneOk fun f _ => f.with fun g => syResult g.check g

/-- icinv of a positive length waits until the lines are out of the code caches; one of no bytes does nothing (R355). -/
def IcinvRule : Prop :=
  FiresAt .syIcinv (sy 0x1B) anyLaneOk fun f k =>
    if n32 (f.t k) = 0 then f.start else f.with fun g => (numbered g).addWait (.icinv (f.op 0 k) (n32 (f.t k)))

/-- gstat delivers the group status word (R202). -/
def GstatRule : Prop :=
  FiresAt .syGstat (sy 0x1C) anyLaneOk fun f _ => f.with fun g =>
    syResult (w64 (b2n g.il + 2 * b2n g.loop.active + 4 * b2n g.handler + 8 * g.mj.length + 512 * g.ras.length +
      16384 * f.l.lrec.width)) g

/-- yield of a number of cycles drops promotion and lets others go first; within a phase it has no effect (R343). -/
def YieldRule : Prop :=
  FiresAt .syYield (sy 0x1E) anyLaneOk fun f k =>
    if f.g.phase.isSome then f.start
    else f.with fun g =>
      let x : Group := { g with promoted := false, waited := 0 }
      if n32 (f.t k) % 1024 = 0 then x else x.addWait (.yield (f.start.clocked + clockedCycles (n32 (f.t k) % 1024)))

/-- trec delivers a word of the group's last trap record, 0 when there is none (R398). -/
def TrecRule : Prop :=
  FiresAt .syTrec (sy 0x1F) anyLaneOk fun f k => f.with fun g =>
    syResult (match g.lastRec with
      | some ws => ws[n32 (f.t k) % 8]?.getD 0
      | none => 0) g

/-- dbg asks the debugger for a stop where the context has one, and does nothing otherwise (R356). -/
def DbgRule : Prop :=
  FiresAt .syDbg (sy 0x20) anyLaneOk fun f k =>
    if (f.start.ctx f.l.ctx).debugger then f.with fun g => { g with dbgReq := some (w64 ((f.t k).toNat % 65536)) } else f.start

/-- A group with the bundle counted out: latches and issue counts, not the segment. -/
def Fire.counted (f : Fire) (latches : List (Option Latch)) (x : Group) : Group :=
  ({ x with latches := latches } : Group).countIssue [loneMove f.m f.dest]

/-- end stops the group: its latches empty, and its program counter stays (R354). -/
def EndRule : Prop :=
  Fires .syEnd (sy 0x1A) (fun f => f.first = none) Fire.start ∧ ∀ s m w g l who, Ready s m (sy 0x1A) w g l who →
    let f : Fire := ⟨s, m, sy 0x1A, w, g, l, who⟩
    f.first ≠ none →
    exec (.syEnd m) s = .next ((((f.start.modGroup f.ref fun g =>
      f.counted noLatches (({ g with ended := true } : Group).countBundle (loneWords (mvWord m (sy 0x1A))))).clearMisses who).clearFw
        who none))

/-- segchk of the right count and signature starts a new segment and raises SEGOK (R352, R409). The signature covers the bundles
before it, not its own. -/
def SegchkRule : Prop :=
  Fires .sySegchk (sy 0x19) (fun f => f.first = none) Fire.start ∧ ∀ s m w g l who k, Ready s m (sy 0x19) w g l who →
    let f : Fire := ⟨s, m, sy 0x19, w, g, l, who⟩
    f.first = some k → (lo32 (f.op 0 k)).toNat = g.segCount → lo32 (f.op 1 k) = g.segSig →
    exec (.sySegchk m) s = .next (((f.start.modGroup f.ref fun x =>
      { f.counted (holdLatches x (loneBundle (mvWord m (sy 0x19))) [loneMove m (sy 0x19)])
          { x with segCount := 0, segSig := 0, check := pair (lo32 x.check) (hi32 x.check + 1) } with
        pc := g.pc + w64 (loneLen m (sy 0x19)) }).clearMisses who).clearFw who none)

/-- trap takes the explicit trap at the boundary behind its bundle, before its pad and any loop end check: cause T[7:0], ADDR T[15:0],
INFO0 and INFO1 operands a and b; it resumes behind the bundle (R341, R350, R391). -/
def TrapRule : Prop :=
  Fires .syTrap (sy 0x17) (fun f => f.first = none) Fire.start ∧ ∀ s m w g l who k u, Heads s w g l who → g.handler = false →
    loneCheck g l m (sy 0x17) = .go →
    let f : Fire := ⟨s, m, sy 0x17, w, g, l, who⟩
    f.first = some k →
    let t := f.t k
    let info : TrapInfo := { precise 0x0B (t.toNat % 256) 0 with
      lane := k, lanes := f.lanes, pc := f.pc, addr := w64 (t.toNat % 65536), info0 := f.op 0 k, info1 := f.op 1 k
      time := f.start.sampleTime.1 }
    (f.start.sampleTime.2.modGroup f.ref fun x =>
      { loneDone g x m (sy 0x17) with padPc := g.pc, padLen := loneLen m (sy 0x17) }).takeTrap f.ref info (l.textOffset (g.pc + w64 (loneLen m (sy 0x17)))) =
      some u →
    exec (.syTrap m) s = .next ((u.clearMisses who).clearFw who none)

/-- The group x as rfe leaves it with the words of its frame (R397): s0 to s7, k0, the hold latches and the pad as the frame has them, out
of the handler, in interlocked mode. -/
def unhandled (frame : Nat → W64) (x : Group) : Group :=
  { x with
    sregs := (List.range 8).foldl (fun r k => r.set k (frame k)) x.sregs
    sbad := x.sbad.filter fun k => !(k < 8)
    kregs := x.kregs.set 0 (frame 8 &&& fullMask x.width)
    kbad := x.kbad.filter fun k => !(k == 0)
    latches := (List.range 6).map fun b => latchOf (frame (10 + 2 * b)) (frame (11 + 2 * b))
    il := true, staged := x.staged.map fun y => { y with old := true }
    pad := (frame 9).toNat / 2 ^ 32 % 16
    handler := false, trapPad := none }

/-- What an rfe in the handler finds: the group's frame in reach, with the group's depths and a valid resume address. -/
structure Returns (f : Fire) (pa : Nat) (u : State) : Prop where
  leads : Leading f.s f.w f.g f.l f.who
  inHandler : f.g.handler = true
  passes : loneCheck f.g f.l f.m f.dest = .go
  applies : f.first ≠ none
  area : f.start.reachArea (f.trigIn 0x12 0x1D) 0x80 = .at_ pa u
  marks : (w64 (bytesNat (u.ownLoad f.ref f.w.ctx (pa + 8 * 9) 8))).toNat / 2 ^ 36 % 2 ^ 6 = f.g.mj.length
  returns : (w64 (bytesNat (u.ownLoad f.ref f.w.ctx (pa + 8 * 9) 8))).toNat / 2 ^ 42 % 2 ^ 11 = f.g.rasAll
  target : f.validTarget (lo32 (w64 (bytesNat (u.ownLoad f.ref f.w.ctx (pa + 8 * 9) 8))))

/-- rfe with such a frame (R397). Where no bundle was interrupted between its pad issues, the group goes to the resume address; a pad that
the handler has put into the frame runs first (log 21). Where one was, its remaining pads come next, and then what follows it: its own
target, the loop end check, or the resume address that the handler has put in place of these. -/
def RfeRule : Prop :=
  Fires .syRfe (sy 0x1D) (fun f => f.first = none) Fire.start ∧
  ∀ s m w g l who pa u,
    let f : Fire := ⟨s, m, sy 0x1D, w, g, l, who⟩
    Returns f pa u →
    let frame (k : Nat) : W64 := w64 (bytesNat (u.ownLoad f.ref w.ctx (pa + 8 * k) 8))
    let back : Group := (unhandled frame f.moved).countIssue [loneMove m (sy 0x1D)]
    let at_ : W64 := l.textBase + zx (lo32 (frame 9))
    let answers (x : Group) : Prop := exec (.syRfe m) s = .next (((u.setGroup f.ref x).clearMisses who).clearFw who none)
    (g.trapPad = none →
      answers (if back.pad = 0 then
        ({ back with padPc := at_, padLen := 0, target := none, endDue := false, pc := at_ } : Group).addWait .redirect
      else { back with padPc := at_, padLen := 0, target := some at_, endDue := false })) ∧
    (∀ p len t, g.trapPad = some (p, len, t) → back.pad ≠ 0 →
      let changed := lo32 (frame 9) ≠ l.textOffset (t.getD (p + w64 len))
      answers { back with
        padPc := p, padLen := len
        target := if changed then some at_ else t
        endDue := decide (changed ∧ t = none) })

/-- rfe outside a handler is a control trap, cause 0x0B (R397, R332). -/
def RfeTrapRule : Prop :=
  Traps .syRfe (sy 0x1D) (fun f => f.first ≠ none) fun _ => precise 0x09 0x0B 0

end Sys2Proof.Claims
end

