-- ==== Sys2Proof/Claims/Moves.lean ====
section
/-!
DEFINITION. Moves: what the statements say of moves into registers and operand ports, of popping a queued source, of what the
checks before a bundle find, and of taking a trap (R203 to R207, R221 to R224, R391 to R399).
-/

namespace Sys2Proof.Claims

open Sys2Proof.Machine

/-- The group with its due results visible and the move's source popped (step 5 of R221). -/
def Fire.popped (f : Fire) : Group := popMove f.g.advance (loneRead f.g.advance f.m f.dest)

/-- Is the move 64 bits wide (R203, R214)? -/
def Fire.wide (f : Fire) : Bool := (loneMove f.m f.dest).wide

/-- The queued port that the source names (R206). -/
def Fire.port (f : Fire) : Option RPort := queuedSrc f.m.s

/-- The entry that the move pops. -/
def Fire.entry (f : Fire) : Option REntry := f.port.bind fun p => (f.g.advance.entries p).head?

/-- Lane k has vector register n. -/
def Fire.hasReg (f : Fire) (k n : Nat) : Prop := ∃ x, f.g.lane? k = some x ∧ n < x.vregs.length ∧ n < x.vfull.length

/-- A move's own completion: it starts no trigger, and the group with its move made issues on. -/
def Moves (mk : Mv → Instr) (dest : BitVec 12) : Prop := Fires mk dest always Fire.start

/-- The rule of MOVE_VECTOR in one lane (R204, R207): where the move applies, register n receives the value, and n + 1 its high half
when it is wide; a lane of a popped entry that has not landed leaves the register empty, to be filled by its landing. Everywhere
else register and full bit stay. -/
def Fire.vectorLane (f : Fire) (n k : Nat) : Prop :=
  ∀ j, f.hasReg k n → (f.wide = true → f.hasReg k (n + 1)) →
    let landed := match f.entry with
      | some e => e.full.getLsbD k
      | none => true
    let here := f.lanes.getLsbD k = true ∧ (j = n ∨ f.wide = true ∧ j = n + 1)
    (¬here → f.moved.v k j = f.g.v k j ∧ f.moved.vFull k j = f.g.vFull k j) ∧
    (here → landed = true → f.moved.v k j = (if j = n then lo32 (f.t k) else hi32 (f.t k)) ∧ f.moved.vFull k j = true) ∧
    (here → landed = false → f.moved.vFull k j = false ∧
      ∃ p e, f.port = some p ∧ f.entry = some e ∧ ⟨p, e.id, k, j, decide (j = n + 1)⟩ ∈ f.moved.deferred)

/-- MOVE_VECTOR completes, writes as said, and changes nothing of the group beyond vector registers and deferred landings after its
pop. -/
def VectorRule : Prop :=
  ∀ (v : BitVec 1) (r : BitVec 7), Moves (.moveVector v r) ((0 : BitVec 4) ++ v ++ r) ∧
    ∀ f : Fire, f.dest = (0 : BitVec 4) ++ v ++ r → Ready f.s f.m f.dest f.w f.g f.l f.who →
      (∀ k, k < f.g.width → f.vectorLane (128 * v.toNat + r.toNat) k) ∧
      { f.moved with lanes := f.popped.lanes, deferred := f.popped.deferred } = f.popped ∧
      ∀ k, (f.moved.lane? k).map (fun x => (x.opnd, x.res, x.gen)) = (f.popped.lane? k).map fun x => (x.opnd, x.res, x.gen)

/-- A scalar register receives the value of the lowest lane where the move applies; with none it stays (R204). -/
def ScalarRule : Prop :=
  ∀ r : BitVec 7, r.toNat < 64 → Moves (.moveScalarGuard r) ((2 : BitVec 5) ++ r) ∧
    ∀ f : Fire, f.dest = (2 : BitVec 5) ++ r → Ready f.s f.m f.dest f.w f.g f.l f.who →
      f.moved = match f.first with
        | some k =>
          { f.popped with
            sregs := f.popped.sregs.set r.toNat (f.t k)
            sbad := f.popped.sbad.filter fun n => !(n == r.toNat) }
        | none => f.popped

/-- A guard register k1 to k15 receives bit k of a uniform source, or whether the source is nonzero, in each lane where the move
applies; the other bits stay, and bits at or above the width are 0 (R204). -/
def GuardRule : Prop :=
  ∀ r : BitVec 7, 65 ≤ r.toNat → r.toNat < 80 → Moves (.moveScalarGuard r) ((2 : BitVec 5) ++ r) ∧
    ∀ f : Fire, f.dest = (2 : BitVec 5) ++ r → Ready f.s f.m f.dest f.w f.g f.l f.who →
      let new := maskOf f.g.width fun k =>
        if f.lanes.getLsbD k then if uniformSrc f.m.s then (f.t k).getLsbD k else decide (f.t k ≠ 0)
        else (f.g.k (r.toNat - 64)).getLsbD k
      f.moved = { f.popped with
        kregs := f.popped.kregs.set (r.toNat - 64) (new &&& fullMask f.g.width)
        kbad := f.popped.kbad.filter fun n => !(n == r.toNat - 64) }

/-- An operand port of a unit receives the value in the lanes where the move applies; nothing else of the group changes after the
pop (R203). -/
def OperandRule : Prop :=
  ∀ (u : BitVec 5) (p : BitVec 2), decodeDest (u ++ (0 : BitVec 5) ++ p) = .ok (.operand u.toNat p.toNat) →
    Moves (.moveOperand u p) (u ++ (0 : BitVec 5) ++ p) ∧
    ∀ f : Fire, f.dest = u ++ (0 : BitVec 5) ++ p → Ready f.s f.m f.dest f.w f.g f.l f.who →
      { f.moved with lanes := f.popped.lanes } = f.popped ∧
      ∀ k x, k < f.g.width → f.g.lane? k = some x → x.opnd.length = 34 → ∀ u' p', opIdx u' p' < 34 →
        f.moved.opnd k u' p' =
          if f.lanes.getLsbD k ∧ opIdx u' p' = opIdx u.toNat p.toNat then f.t k else f.g.opnd k u' p'

/-- Does the move's read for a lane find an uncorrectable error in a register (R408)? -/
def Fire.poisons (f : Fire) (k : Nat) : Bool := (srcLane f.g.advance (loneMove f.m f.dest) 0 k).poison

/-- Does an active lane's read of the guard register find one (R408)? -/
def Fire.guardBad (f : Fire) (k : Nat) : Bool :=
  (loneMove f.m f.dest).mv.g && f.g.kbad.contains (loneMove f.m f.dest).guard && f.g.k0.getLsbD k

/-- How many lanes satisfy p. -/
def Fire.count (f : Fire) (p : Nat → Bool) : Nat := ((List.range f.g.width).filter p).length

/-- What popping does (R206, R210, R408): the head entry of the named port leaves it and its operation gives up its place in the
engine queue; poison in a lane where the move applies is noted in the check-interval register, and so is a guard register in error; a
source of another kind pops nothing, and notes the lanes where it found a register in error. -/
def PopRuleOf (f : Fire) : Prop :=
  (f.port = none →
    f.popped = { f.g.advance with check := consumePoison f.g.check (f.count fun k =>
      f.lanes.getLsbD k && f.poisons k || f.guardBad k) }) ∧
  ∀ p e rest, f.port = some p → f.g.advance.entries p = e :: rest →
    f.popped.entries p = rest ∧
    f.popped.check = consumePoison f.g.check (f.count fun k =>
      e.poison.getLsbD k && f.lanes.getLsbD k || f.guardBad k) ∧
    (p = .am → f.popped.amrbFull = (if (loneMove f.m f.dest).deferred then e.full else fullMask f.g.width) ∧ ∀ k, k < f.g.width → e.full.getLsbD k = true →
      ∀ x, f.g.advance.lane? k = some x → x.res.length = 19 →
        f.popped.res k 0x10 true = if e.flags.getLsbD k then 1 else 0) ∧
    (p = .ld → f.popped.ldq.filter (fun x => !x.popped) = f.g.ldq.filter fun x => !x.popped && x.id != e.id) ∧
    (p = .am → f.popped.amq.filter (fun x => !x.popped) = f.g.amq.filter fun x => !x.popped && x.id != e.id) ∧
    (p = .q0 → f.popped.q0q.filter (fun x => !x.popped) = f.g.q0q.filter fun x => !x.popped && x.id != e.id)

/-! ### What is found before a bundle (steps 1 to 3 of R221) -/

/-- Illegal moves of R224 by destination: a vector register at or beyond the declared count has cause 0x03. -/
def beyondCount : Prop :=
  ∀ (g : Group) (l : Launch) (m : Mv) (v : BitVec 1) (r : BitVec 7),
    g.loop.active = false → m.g = false → g.vregCount ≤ 128 * v.toNat + r.toNat →
    loneCheck g l m ((0 : BitVec 4) ++ v ++ r) = .trap (precise 0x02 3 0)

/-- A second x0 trigger fewer than 4 issues after the last has cause 0x08 (R222, R281). -/
def x0TooSoon : Prop :=
  ∀ (g : Group) (l : Launch) (m : Mv) (p : BitVec 7),
    g.loop.active = false → decodeDest (trig 0x09 p) = .ok (.trigger 9 p.toNat) → g.x0cnt < 3 →
    bundleError g.advance (loneBundle (mvWord m (trig 0x09 p))) = none →
    loneCheck g l m (trig 0x09 p) = .trap (precise 0x02 8 0)

/-! ### Taking a trap (R394 to R399) -/

/-- A trap with the time it is detected at, for a precise one (R394). -/
def stamped (s : State) (t : TrapInfo) : TrapInfo := if t.code < 0x20 then { t with time := s.sampleTime.1 } else t
/-- The state after that sample. -/
def stampedState (s : State) (t : TrapInfo) : State := if t.code < 0x20 then s.sampleTime.2 else s

/-- The words that the trap frame holds from offset 0x80 (R396). -/
def frameOf (g : Group) (resume : W32) : List W64 :=
  [g.s 0, g.s 1, g.s 2, g.s 3, g.s 4, g.s 5, g.s 6, g.s 7, g.k0,
   w64 (resume.toNat + g.pad * 4294967296 + g.mj.length * 68719476736 + (g.ras.length + g.spilled) * 4398046511104)] ++
    g.latches.flatMap latchWords

/-- The group in its handler (R396): s0 to s7 hold the record, latches are empty, HANDLER is 1, interlocked mode is on, the program
counter is at the handler; an open region is closed; entry takes its time. What was to follow the interrupted bundle is kept where its
pad is not over, and for the explicit trap, which comes before the pad (R391). -/
def inHandler (g : Group) (l : Launch) (vector : W64) (words : List W64) (code : Nat) : Group :=
  let x : Group := { g with
    sregs := (List.range 8).foldl (fun r i => r.set i (words[i]?.getD 0)) g.sregs
    sbad := g.sbad.filter fun i => !(i < 8)
    check := g.check &&& ~~~0x10
    il := true
    staged := g.staged.map fun x => { x with old := true }
    latches := noLatches
    handler := true
    pc := l.textBase + zx (lo32 vector)
    trapPad := if g.pad = 0 ∧ code ≠ 0x0B then none else some (g.padPc, g.padLen, g.target)
    pad := 0
    target := none
    lastRec := some words }
  x.addWait .trapEntry

/-- Handler entry: frame and record are written to the group area, the group is in its handler, and it leaves its phase. -/
def EntryRule : Prop :=
  ∀ s r t resume g w l who pa s1, s.group? r = some g → s.wg? r.wg = some w → s.launchOf? r = some l → s.who? r = some who →
    g.handler = false → (stampedState s t).groupArea who 0 false = (.ok pa, s1) →
    let vector := w64 (bytesNat (s1.ownLoad r l.ctx pa 8))
    let words := recordWords (stamped s t) l g.gi w.num resume
    vector.getLsbD 32 = true →
    s.takeTrap r t resume = some
      (((((s1.setAM w.core w.ctx (segBase g.seg) true).deviceWrite w.core l.ctx (pa + 0x80) (wordsBytes (frameOf g resume))).deviceWrite
        w.core l.ctx (pa + 0x40) (wordsBytes words)).setGroup r (inHandler g l vector words t.code)).leavePhaseBroken r)

/-- With EN = 0 no handler is entered: the workgroup is terminated with a report of the trap's own code (R398). -/
def NoHandlerRule : Prop :=
  ∀ s r t resume g w l who pa s1, s.group? r = some g → s.wg? r.wg = some w → s.launchOf? r = some l → s.who? r = some who →
    g.handler = false → (stampedState s t).groupArea who 0 false = (.ok pa, s1) →
    (w64 (bytesNat (s1.ownLoad r l.ctx pa 8))).getLsbD 32 = false →
    s.takeTrap r t resume = some (s1.terminate r (stamped s t) resume)

/-- A trap of a group that is in its handler is a double fault: code 0x50 with the second error's code as cause (R399). -/
def DoubleRule : Prop :=
  ∀ s r t resume g w l who, s.group? r = some g → s.wg? r.wg = some w → s.launchOf? r = some l → s.who? r = some who →
    g.handler = true →
    s.takeTrap r t resume = some ((stampedState s t).terminate r
      { stamped s t with code := 0x50, cause := t.code, cause2 := t.cause } resume)

end Sys2Proof.Claims
end

