-- ==== Sys2Proof/Claims/EvCore.lean ====
section
/-!
DEFINITION. EvCore: what the statements say of the device's own steps at a core: issue, results that land, waits that end, queued
accesses, caches and region directories, walks and faults, and the copy, queue, exchange, barrier and matrix units.
-/

namespace Sys2Proof.Claims

open Sys2Proof.Machine

/-- A step of the device completes: under the premises exec answers this state. -/
abbrev Next (i : Instr) (s t : State) : Prop := exec i s = .next t

/-! ### Issue (R192, R219, R221) -/

/-- A candidate that leads its slot: it is not asked to stop, and the candidates before it wait for what their bundles need (R192). -/
def Issues (s : State) (r : GRef) (w : Workgroup) (g : Group) (l : Launch) (who : Who) : Prop :=
  s.wg? r.wg = some w ∧ s.group? r = some g ∧ s.launchOf? r = some l ∧ s.who? r = some who ∧ s.candidate w g = true ∧
    stopHere w g = none ∧ g.pad = 0 ∧ s.leads trigTable w g = true ∧ refOf w g = r

/-- BUNDLE_ISSUE of the leader of a slot whose bundle is at hand and does not wait: the bundle executes. -/
def BundleIssueRule : Prop :=
  ∀ s r w g l who b ws len t u, Issues s r w g l who → s.fetch who l g.pc = .bundle b ws len t → s.mates w g = [] →
    execBundle trigTable t r g l b ws g.pc len false = .done u →
    Next (.bundleIssue r) s ((u.clearMisses who).clearFw who none)

/-- A candidate of the slot with the same launch and program counter co-issues the bundle, under its own guards and holds, where its
columns lie apart from the leader's and it does not wait (R192). The two make their bundle in ascending group entry (R359 for what the
engine sees, otherwise log 68). -/
def CoIssueRule : Prop :=
  ∀ s r w g l who b ws len t w' g' u v, Issues s r w g l who → s.fetch who l g.pc = .bundle b ws len t → s.mates w g = [(w', g')] →
    t.wg? r.wg = some w → t.group? r = some g → t.launchOf? r = some l → t.who? r = some who → t.candidate w g = true →
    (∃ p, execBundle trigTable t r g l b ws g.pc len false = .done p) →
    (g.col + g.width ≤ g'.col ∨ g'.col + g'.width ≤ g.col) → (issueAs trigTable b ws len t (w', g')).isWait = false →
    let both := if g'.entry < g.entry then ((w', g'), (w, g)) else ((w, g), (w', g'))
    issueAs trigTable b ws len t both.1 = .done u → issueAs trigTable b ws len u both.2 = .done v → Next (.bundleIssue r) s v

/-- A fetch that faults takes the fetch trap (R211, R224). -/
def FetchTrapRule : Prop :=
  ∀ s r w g l who t, Issues s r w g l who → s.fetch who l g.pc = .trap t →
    Next (.bundleIssue r) s (((s.raise r t (l.textOffset g.pc)).clearMisses who).clearFw who none)

/-- PAD_ISSUE: an empty bundle at the padded bundle's program counter, so that held moves are repeated (R218, R219). -/
def PadIssueRule : Prop :=
  ∀ s r w g l who u, s.wg? r.wg = some w → s.group? r = some g → s.launchOf? r = some l → s.who? r = some who →
    s.candidate w g = true → stopHere w g = none → g.pad ≠ 0 →
    execBundle trigTable s r g l { header := ⟨0, 0, 0, false, 0⟩, moves := [], ext := [] } [] g.padPc g.padLen true = .done u →
    Next (.padIssue r) s ((u.clearMisses who).clearFw who none)

/-- The group behind a pad issue that makes no move: one pad less, and behind the last of them the bundle's target, sequence or end check
(R219, R335, R341). -/
def padDone (g : Group) (l : Launch) : Group :=
  let x : Group := g.advance.countIssue []
  if 1 < g.pad then { x with pad := g.pad - 1 } else ({ x with pad := 0 } : Group).finish l.textBase g.padPc g.padLen

/-- PAD_ISSUE of a group with empty hold latches: no move is repeated. -/
def EmptyPadRule : Prop :=
  ∀ s r w g l who, s.wg? r.wg = some w → s.group? r = some g → s.launchOf? r = some l → s.who? r = some who →
    s.candidate w g = true → stopHere w g = none → g.pad ≠ 0 → g.latches = noLatches →
    Next (.padIssue r) s (((s.setGroup r (padDone g l)).clearMisses who).clearFw who none)

/-- PAD_ISSUE of a group that waits for something, or is asked to stop at this boundary. -/
def PadStopRule : Prop :=
  (∀ s r w g l who f, s.wg? r.wg = some w → s.group? r = some g → s.launchOf? r = some l → s.who? r = some who →
    s.candidate w g = true → stopHere w g = some f → g.pad ≠ 0 → Next (.padIssue r) s (s.modGroup r f)) ∧
  ∀ s r g, s.group? r = some g → g.pad = 0 → Next (.padIssue r) s s

/-- CANDIDATE_PROMOTION marks a group that has been a candidate for 48 cycles without issuing (R192). -/
def PromotionRule : Prop :=
  ∀ s r w g, s.wg? r.wg = some w → s.group? r = some g → s.candidate w g = true → clockedCycles 48 ≤ g.waited →
    Next (.candidatePromotion r) s (s.setGroup r { g with promoted := true })

/-! ### Results that land (R206, R207, R301) -/

/-- What a load of a value of so many bytes pushes: sign-extended to 64 bits, or zero-extended (R301). -/
def loaded (size : Nat) (signed : Bool) (v : Nat) : Nat :=
  let n := v % 256 ^ size
  if signed = true ∧ 2 * n ≥ 256 ^ size then n + 2 ^ 64 - 256 ^ size else n

/-- RESULT_LANDS of a lane of a load that has been performed without error: the lane of its entry fills; a poisoned lane delivers 0 and
poison (R304). -/
def LoadLandsRule : Prop :=
  ∀ s r id lane w g e o signed, s.wg? r.wg = some w → w.group? r.gi = some g →
    g.ldq.find? (fun x => x.id == id) = some e → e.lanes.find? (fun x => x.lane == lane) = some o →
    e.op = .load signed → e.size ∈ [1, 2, 4, 8] → o.val.toNat < 256 ^ e.size → o.landed = false → o.done = true → o.status = 0 →
    Next (.resultLands r .ld id lane) s (s.modGroup r fun x =>
      ((x.noteLanded .ld id lane).land .ld id lane (if o.poison then 0 else w64 (loaded e.size signed o.val.toNat)) false
        o.poison).settleFences (s.acqHeld r)).wakeAll

/-- The same for a lane of an atomic: value and flag. -/
def AmLandsRule : Prop :=
  ∀ s r id lane g e o, s.group? r = some g → g.amq.find? (fun x => x.id == id) = some e →
    e.lanes.find? (fun x => x.lane == lane) = some o → o.landed = false → o.done = true →
    Next (.resultLands r .am id lane) s (s.modGroup r fun x =>
      ((x.noteLanded .am id lane).land .am id lane o.val o.flag false).settleFences (s.acqHeld r))

/-- The same for an unqueued variable-latency port of cp, mx or xe. -/
def VarLandsRule : Prop :=
  ∀ s r port id lane g x, port = .cp ∨ port = .mx ∨ port = .xe → s.group? r = some g →
    g.varPend.find? (fun y => y.port == port && y.id == id && y.lanes.getLsbD lane) = some x → x.ask = none →
    Next (.resultLands r port id lane) s (s.setGroup r (g.landVar x))

/-- The result of cp.wptr lands: the count of the channel that t names, of a group of the same workgroup, as it stands now, once what
the group's order puts before the read is performed (R87, R101, R316). -/
def WptrLandsRule : Prop :=
  ∀ s r id lane g x t y c, s.group? r = some g →
    g.varPend.find? (fun y => y.port == .cp && y.id == id && y.lanes.getLsbD lane) = some x → x.ask = some t →
    g.syncHeld x.id = false → s.group? ⟨r.wg, t.toNat / 16 % 16⟩ = some y → y.chans[t.toNat % 4]? = some c → c.written < 2 ^ 32 →
    Next (.resultLands r .cp id lane) s (s.setGroup r (g.landVar x (w64 c.written))).wakeAll

/-! ### Waits that end -/

/-- A step that ends one kind of wait of a group, and changes nothing else. -/
def EndsWait (mk : GRef → Instr) (p : Wait → Bool) : Prop :=
  ∀ s r g, s.group? r = some g → g.waits.any p = true →
    Next (mk r) s (s.setGroup r { g with waits := g.waits.filter fun x => !p x })

/-- YIELD_EXPIRY once the clocked cycles of the yield have passed (R356). -/
def YieldExpiryRule : Prop :=
  ∀ s r g till, s.group? r = some g → g.waits = [.yield till] → till ≤ s.clocked →
    Next (.yieldExpiry r) s (s.setGroup r { g with waits := [] })

/-- ICINV_COMPLETE: once every earlier write of the group has been performed, the code-cache lines of the frames that the range maps
are gone on every core, and the wait ends (R355). -/
def IcinvCompleteRule : Prop :=
  ∀ s r w g va len, s.wg? r.wg = some w → s.group? r = some g → g.waits = [.icinv va len] → g.writesBefore g.ord = true →
    Next (.icinvComplete r) s ((s.dropCode (codeFrames s w.ctx va.toNat len)).setGroup r { g with waits := [] })

/-- WAIT_TIMEOUT: a wake-word wait whose deadline, in global time, has come ends with TIMEOUT (R8, R348). -/
def WaitTimeoutRule : Prop :=
  ∀ s r w g va pa cmp v d n, s.wg? r.wg = some w → s.group? r = some g → w.out = false →
    g.waits = [.wake va pa cmp v (some d) n] → d ≤ s.time →
    Next (.waitTimeout r) s (s.setGroup r (syResult 1 { g with waits := [] }))

/-! ### Traps that are delivered (R391, R398 to R400) -/

/-- IMPRECISE_TRAP_DELIVERY to a group outside a handler, at a bundle boundary: it takes the oldest pending trap, abandoning a wait
of step 3. The entry is a check point (R410), which a group without poison passes; the explicit trap's own bundle was one. -/
def ImpreciseRule : Prop :=
  ∀ s r w g l who t rest u, s.wg? r.wg = some w → s.group? r = some g → s.launchOf? r = some l → s.who? r = some who →
    g.pend = t :: rest → g.ended = false → w.out = false → boundary g = true → g.handler = false → t.code = 0x0B ∨ psn g.check = false →
    ((s.setGroup r { g with pend := rest }).modGroup r fun x => x.dropWaits fun y => y == .translate || y == .missRoom || y == .growth).takeTrap r
      { t with exited := false } (g.resumeAt l) = some u →
    Next (.impreciseTrapDelivery r) s u

/-- With poison the check point comes instead of the entry: the group retries its region, or its workgroup ends (R410). -/
def EntryCheckRule : Prop :=
  (∀ s r w g l who t rest u, s.wg? r.wg = some w → s.group? r = some g → s.launchOf? r = some l → s.who? r = some who →
    g.pend = t :: rest → g.ended = false → w.out = false → boundary g = true → g.handler = false → t.code ≠ 0x0B →
    checkPoint s r (g.resumeAt l) none = .gone u → Next (.impreciseTrapDelivery r) s u) ∧
  ∀ s r w g l t rest u, s.wg? r.wg = some w → s.group? r = some g → s.launchOf? r = some l → g.held = t :: rest →
    w.out = false → g.handler = false → g.ended = false → boundary g = true →
    checkPoint s r (g.resumeAt l) none = .gone u → Next (.heldTrapDelivery r) s u

/-- A trap of a group that has ended is reported, and its workgroup is terminated (R400). -/
def ImpreciseEndedRule : Prop :=
  ∀ s r w g l who t rest, s.wg? r.wg = some w → s.group? r = some g → s.launchOf? r = some l → s.who? r = some who →
    g.pend = t :: rest → g.ended = true →
    Next (.impreciseTrapDelivery r) s
      ((s.setGroup r { g with pend := rest }).terminate r { t with exited := true } (g.resumeAt l))

/-- HELD_TRAP_DELIVERY: after rfe the oldest held trap is taken at a bundle boundary (R398), with no poison to stop it (R410). -/
def HeldRule : Prop :=
  ∀ s r w g l t rest u, s.wg? r.wg = some w → s.group? r = some g → s.launchOf? r = some l → g.held = t :: rest →
    w.out = false → g.handler = false → g.ended = false → boundary g = true → psn g.check = false →
    ((s.setGroup r { g with held := rest }).modGroup r fun x => x.dropWaits fun y => y == .translate || y == .missRoom || y == .growth).takeTrap r
      t (g.resumeAt l) = some u →
    Next (.heldTrapDelivery r) s u

/-! ### Accesses (R61, R82 to R98, R302, R303) -/

/-- The reference to a piece of a queued access. -/
def pieceRef (r : GRef) (q : QSel) (id lane piece : Nat) : PieceRef := { g := r, q := q, id := id, lane := lane, piece := piece }

/-- A piece that may be performed now: queued, not done, not sent, every earlier event that the rules put before it performed, no
release still to come that it would read from (R88), its context not raced, and no data race completed (R94). -/
def Performable (s : State) (r : GRef) (q : QSel) (id lane piece : Nat) (w : Workgroup) (g : Group) (l : Launch)
    (e : MemEntry) (o : LaneOp) (p : Piece) : Prop :=
  s.pieceAt (pieceRef r q id lane piece) = some (w, g, e, o, p) ∧ s.launch? w.lid = some l ∧
    w.out = false ∧ o.done = false ∧ p.done = false ∧ p.sent = false ∧ g.mayPerform e o p (s.coveredPiece w e p) = true ∧
    s.acquireHeld r e o p = false ∧ (s.ctx w.ctx).raced = false ∧
    s.noteRace { ctx := some w.ctx, me := some r, ps := [p], write := !e.isLoad, plain := plain e o p, own := p.own l } true = s

/-- HOME_SLICE_ACCESS of a store to a scratchpad bank: its bytes are there, and a word that it writes whole is good (R54, R302, R303). -/
def ScratchStoreRule : Prop :=
  ∀ s r q id lane piece w g l e o p wid off x, Performable s r q id lane piece w g l e o p → e.op = .store →
    p.target = .scratch wid off → s.wg? wid = some x → x.scratchUe off p.len = false ∨ 8 ≤ p.len →
    Next (.homeSliceAccess r q id lane piece) s
      ((((s.modWg wid fun y =>
        { y with scratch := y.scratch.writeNat off p.len ((o.t.toNat / 256 ^ p.off) % 256 ^ p.len)
                 scratchBad := y.scratchBad.filter fun k => !(off ≤ 8 * k && 8 * k + 8 ≤ off + p.len) }).noteEarly r e o p).finishPiece
          (pieceRef r q id lane piece) 0 0 false false).drainOutside)

/-- HOME_SLICE_ACCESS of a load of a scratchpad bank: it returns the bytes there, or is poisoned by an uncorrectable error in a word of
them (R301, R304). -/
def ScratchLoadRule : Prop :=
  ∀ s r q id lane piece w g l e o p wid off x signed, Performable s r q id lane piece w g l e o p → e.op = .load signed →
    p.target = .scratch wid off → s.wg? wid = some x →
    Next (.homeSliceAccess r q id lane piece) s
      (s.finishPiece (pieceRef r q id lane piece) 0 (if x.scratchUe off p.len then 0 else w64 (x.scratch.readNat off p.len)) false
        (x.scratchUe off p.len)).drainOutside

/-- HOME_SLICE_ACCESS of a store to memory of this device that no serial covers: it is performed at its home, and the groups that
watch its word look again (R61, R302). `t` is the state in which Charon, the caches and the overlay have let it through. -/
def MemStoreRule : Prop :=
  ∀ s r q id lane piece w g l e o p pa k tp c t, Performable s r q id lane piece w g l e o p → e.op = .store →
    p.target = .phys pa k tp c → s.isCovered w.core.die pa tp true = false →
    s.beforeWrite (homeOpOf w l e o p pa k tp c) 0 = .ok t →
    let u := if overlayOf l tp = none ∧ paClass pa = 0 then t.noteWrite (partOf pa) else t
    u.badLines.contains (lineOf (if paUsable pa then u.bytePlace (overlayOf l tp) pa else pa)) = false →
    Next (.homeSliceAccess r q id lane piece) s
      ((((u.writePhys (overlayOf l tp) w.ctx pa (natBytes p.len (o.t >>> (8 * p.off)).toNat)).noteEarly r e o p).finishPiece
        (pieceRef r q id lane piece) 0 0 false false).drainOutside)

/-- HOME_SLICE_ACCESS of host or peer memory whose owner refuses it: a completion error of the host, or a peer's exports table. The
access is not performed and ends with the cause (R303, R308). -/
def RefusedAccessRule : Prop :=
  ∀ s r q id lane piece w g l e o p pa k tp c cause, Performable s r q id lane piece w g l e o p → p.target = .phys pa k tp c →
    paClass pa ≠ 0 → s.refusing.find? (fun x => x.1 == partOf pa) = some (partOf pa, cause) → cause ≠ 0 →
    (e.isLoad = true ∨ (∃ a, e.op = .atomic a ∧ a.counter = false ∧ s.isCovered w.core.die pa tp false = false) ∨
      e.op = .store ∧ s.isCovered w.core.die pa tp true = false) →
    Next (.homeSliceAccess r q id lane piece) s (s.finishPiece (pieceRef r q id lane piece) cause 0 false false).drainOutside

/-- An access that meets accesses nothing orders it with: its context and theirs have raced, and the access goes on (R94). What it reads
or writes in a part with copies is left out: there the rules give the bytes (R433, log 29). -/
def RaceRule : Prop :=
  ∀ (s : State) (x : RaceIn) c k, x.ctx = some c → (∀ p ∈ x.ps, s.duplicated p = false) → k ∈ s.racesQueued x →
    (∀ d, d ∈ s.contexts → (d.num = c ∨ d.num = k) → ∃ y, y ∈ (s.noteRace x false).contexts ∧ y.num = d.num ∧ y.raced = true) ∧
    (s.noteRace x false).mem = s.mem ∧ (s.noteRace x false).wgs = s.wgs

/-- What an access of a raced context reads is any value at all, and it completes (R94, log 29). -/
def RacedLoadRule : Prop :=
  ∀ s r q id lane piece w g l e o p wid off x signed, s.pieceAt (pieceRef r q id lane piece) = some (w, g, e, o, p) →
    s.launch? w.lid = some l → w.out = false → o.done = false → p.done = false → p.sent = false →
    g.mayPerform e o p (s.coveredPiece w e p) = true → s.acquireHeld r e o p = false → e.op = .load signed →
    p.target = .scratch wid off →
    let t := (s.noteRace { ctx := some w.ctx, me := some r, ps := [p], write := false, plain := plain e o p, own := p.own l } true).stray
      w.ctx
    (t.ctx w.ctx).raced = true → t.wg? wid = some x → x.scratchUe off p.len = false →
    Next (.homeSliceAccess r q id lane piece) s
      ((({ t with draws := t.draws + 1 } : State).finishPiece (pieceRef r q id lane piece) 0 (Config.freeRace t.draws) false
        false).drainOutside)

/-- STORE_PERFORMED: a store all of whose lanes are performed leaves its queue, its errors reported (R302). -/
def StorePerformedRule : Prop :=
  ∀ s r id g e, s.group? r = some g → g.stq.find? (fun x => x.id == id) = some e → e.lanes.all (·.done) = true →
    Next (.storePerformed r id none) s ((s.postErrors r .st e).modGroup r fun x =>
      ({ x with stq := x.stq.filter fun y => !(y.id == id) } : Group).settleFences (s.acqHeld r)).tidyRetired.wakeAll

/-! ### Caches and region directories (R57, R62 to R65) -/

def VictimRule : Prop :=
  ∀ s c line, (s.core c).victims.any (fun v => v.line == line) = true →
    Next (.l1WritebackGrant c line) s (s.modCore c fun k => { k with victims := k.victims.filter fun v => !(v.line == line) })

def SnoopRule : Prop :=
  ∀ s c line inval, s.cores.any (fun k => k.id == c) = true →
    Next (.l1Snoop c line inval) s (s.modCore c fun k => k.snoop line inval)

def CxlSnoopRule : Prop :=
  ∀ s line, paClass (line * 128) = 1 →
    Next (.cxlCacheSnoop line true) s (s.dropLines (fun _ => true) (· == line)) ∧
    Next (.cxlCacheSnoop line false) s (s.snoopAll (fun _ => true) line false)

/-- REGION_INVALIDATION: a sharer drops the half's lines and is waited for no longer (R64). -/
def RegionInvalidationRule : Prop :=
  ∀ s base size die v, s.regionInvals.find? (fun x => x.base == base && x.size == size && x.awaited.contains die) = some v →
    Next (.regionInvalidation base size die) s
      (let t := s.dropRange v.at_ v.half v.halfSize (· == die)
       { t with regionInvals := upd (· == v) (fun _ => { v with awaited := v.awaited.filter fun d => !(d == die) }) t.regionInvals })

def RegionAckRule : Prop :=
  ∀ s base size v, s.regionInvals.find? (fun x => x.base == base && x.size == size && x.awaited.isEmpty) = some v →
    Next (.regionInvalidationAck base size) s (s.endInval v).drainOutside

/-- REGION_MERGE of two listed halves that have been quiet for 2^20 cycles: the region takes their place, with the sharers of both, and as
long quiet as the later of them (R65). -/
def RegionMergeRule : Prop :=
  ∀ s base size a b, 256 ≤ size → size ≤ 65536 → base % size = 0 → s.regions = [a, b] → a.at_ = b.at_ →
    a.size = size / 2 → b.size = size / 2 → a.base = base → b.base = base + size / 2 →
    1048576 ≤ cyclesSince s.clock a.lastSplit → 1048576 ≤ cyclesSince s.clock b.lastSplit → s.regionInvals = [] →
    Next (.regionMerge base size) s
      { s with regions := [{ a with base := base, size := size, mask := a.mask ||| b.mask
                                    lastFill := max a.lastFill b.lastFill
                                    lastSplit := max a.lastSplit b.lastSplit }] }

/-! ### Walks and faults (R41 to R47) -/

/-- How many turns after the context that was served last a context comes (R42). -/
def turn (last c : Nat) : Nat := (c + 255 - last) % 128

/-- PAGE_WALK_START of a die that runs fewer than 64 walks: round-robin across the contexts with walks pending, beginning with the one
behind the context that was served last, and the oldest pending walk of the context whose turn it is (R42). Before any has been served,
the turn is context 0's (log 71). -/
def WalkStartRule : Prop :=
  ∀ s die w last, (s.walks.filter fun x => x.1 == die && x.2.running).length < 64 →
    (∀ x ∈ s.walks, x.2.ctx < 128) → last < 128 →
    (match s.lastWalkCtx.find? (fun x => x.1 == die) with
      | some x => x.2 = last
      | none => last = 127) →
    s.walks.find? (fun x => x.1 == die && !x.2.running && x.2.ctx == w.ctx) = some (die, w) →
    (∀ x ∈ s.walks, x.1 = die → x.2.running = false → turn last w.ctx ≤ turn last x.2.ctx) →
    Next (.pageWalkStart die) s
      { s with walks := s.walks.map fun x => if x = (die, w) then (die, { w with running := true }) else x
               lastWalkCtx := s.lastWalkCtx.filter (fun x => !(x.1 == die)) ++ [(die, w.ctx)] }

/-- PAGE_WALK_COMPLETE that finds a leaf: every waiting request inside it completes from it, and no
walk of the die inside it stays (R41). -/
def WalkLeafRule : Prop :=
  ∀ s die ctx page x level va e t, s.walks.find? (fun y => y.1 == die && y.2.ctx == ctx && y.2.page == page && y.2.running) = some x →
    walk { s with walks := s.walks.filter fun y => !(y == x) } (some die) ctx (page * 65536) = (.leaf level va e, t) →
    Next (.pageWalkComplete die ctx page) s
      (let b : TbEntry := { ctx := ctx, base := page * 65536 / 2 ^ levelShift level * 2 ^ levelShift level, level := level, leaf := e }
       let u := t.learnLeaf ctx ⟨level, e⟩
       ((({ u with walks := u.walks.filter fun y => !(y.1 == die && b.maps y.2.ctx (y.2.page * 65536)) } : State).answerMisses die
        (fun m => m.ctx == ctx && m.fault.isNone && b.maps ctx (m.page * 65536)) (some b) none).queueMisses die))

/-- One that finds a fault with no interrupt of its own keeps the code for the accesses that missed the page (R42, R44). -/
def WalkFaultRule : Prop :=
  ∀ s die ctx page x c t, s.walks.find? (fun y => y.1 == die && y.2.ctx == ctx && y.2.page == page && y.2.running) = some x →
    walk { s with walks := s.walks.filter fun y => !(y == x) } (some die) ctx (page * 65536) = (.fault c, t) →
    c ≠ fcMalformed → c ≠ fcKeyMismatch →
    Next (.pageWalkComplete die ctx page) s
      ((t.answerMisses die (fun m => m.ctx == ctx && m.fault.isNone && m.page == page) none (some c)).queueMisses die)

/-- The stall of a fault of a core is over: it is charged to its context; the stall and the limit of the next fault begin now (R47; that
they begin anew is log 59). -/
def stallOver (s : State) (c : CoreId) (f : FwFault) (left : List FwFault) : State :=
  let t := s.chargeStall f
  t.modCore c fun k => { k with fw := left ++ (k.fw.filter fun x => !(x == f)).map fun x =>
    if x.expired || x.taken then x else { x with since := t.time } }

/-- NOT_RESIDENT_RESOLVED: the stall is charged, the core resumes, and the leaf takes the stub's place (R45, R47, log 59). -/
def ResidentRule : Prop :=
  ∀ s c leaf f, (s.core c).serving = some f → f.code = fcNotResident → (s.ctx f.ctx).en = true →
    let t := stallOver s c f []
    let epa := (walkEnd t f.ctx f.va 3 (t.ctx f.ctx).root).2
    t.readWord f.ctx epa &&& 7 = 6 →
    Next (.notResidentResolved c leaf) s ((t.deviceWord ioDie f.ctx epa leaf).modCore c fun k =>
      { k with misses := k.misses.filter fun m => !(m.g == f.g && m.fault == some fcNotResident) }).resumePool

/-- FAULTLIMIT_EXPIRY: after FAULTLIMIT µs of global time the core resumes and the access fails with its code (R45 step 4, log 59). -/
def FaultlimitRule : Prop :=
  ∀ s c f, (s.core c).serving = some f → f.since + (s.ctx f.ctx).faultLimit * 1000 ≤ s.time →
    Next (.faultlimitExpiry c) s (stallOver s c f [{ f with expired := true }]).resumePool

/-- POOL_RING_PROD_WRITE: the producer index moves; cores whose growth the pool now satisfies resume (R45). -/
def PoolProdRule : Prop :=
  ∀ s ctx prod, ctx < Config.numContexts → s.served = true →
    Next (.poolRingProdWrite ctx prod) s ((s.modCtx ctx fun c => { c with prod := prod.toNat }).rearmLow ctx).resumePool

/-! ### Copies (R311 to R318) -/

/-- A copy that may go on: its group is resident and runs, the copy engine is not frozen, its core not stopped, Phobos serves no fault
of it, and what its group did before its trigger is performed (R99, R315). -/
def Copies (s : State) (r : GRef) (ch : Nat) (w : Workgroup) (g : Group) (l : Launch) (who : Who) (j : CopyJob) : Prop :=
  s.copyAt r ch = some (w, g, l, who, j) ∧ w.out = false ∧ w.retired = false ∧ l.phase = .running ∧
    (s.core w.core).copyFrozen = false ∧ s.coreStopped w.core = false ∧ (s.core w.core).fw = [] ∧ g.performedBefore j.trig = true

/-- COPY_ELEMENT of a copy that may go on, in a context without races: the next element is read, written, and counted. -/
def CopyElementRule : Prop :=
  ∀ s r ch w g l who j v t u, Copies s r ch w g l who j → s.noteElem who l j = s → (s.ctx w.ctx).raced = false → v < 2 ^ 64 →
    elemRead who l j (j.srcVa j.next).toNat (elemRuns (j.srcVa j.next).toNat j.esize) s = .ok v t → (t.ctx w.ctx).raced = false →
    elemWrite who l j (j.dstVa j.next).toNat v (elemRuns (j.dstVa j.next).toNat j.esize) t = .ok 0 u →
    Next (.copyElement r ch false) s (((u.elemMoved r ch j).clearFw who (some ch)).clearMisses who)

/-- An element that meets an uncorrectable error ends its workgroup with a copy fault (R315). -/
def CopyUeRule : Prop :=
  ∀ s r ch w g l who j, Copies s r ch w g l who j →
    Next (.copyElement r ch true) s (s.copyFault w r g l ch j copyUe (j.srcVa j.next).toNat)

/-- COPY_PHOBOS_TAKEOVER: the stall is charged, and Phobos moves the rest (R315; the stall of the core's next fault, log 59). -/
def TakeoverRule : Prop :=
  ∀ s r ch w g l who j f, s.copyAt r ch = some (w, g, l, who, j) →
    (s.core w.core).fw.find? (fun x => x.g == r && x.chan == some ch && !x.expired && !x.taken) = some f →
    Next (.copyPhobosTakeover r ch) s
      ((stallOver s w.core f [{ f with taken := true }]).modGroup r
        fun x => { x with chans := modAt x.chans ch fun c => match c.jobs with
          | [] => c
          | y :: ys => { c with jobs := { y with phobos := true } :: ys } })

/-! ### Queues, phases, barriers (R322 to R328, R346) -/

/-- QUEUE_OP_PERFORMED: the oldest q0 operation whose group has performed everything before it reaches its queue (R105). -/
def QueueArrivesRule : Prop :=
  ∀ s r w g o, s.wg? r.wg = some w → s.group? r = some g → g.q0q.find? (fun x => !x.arrived) = some o → w.out = false →
    g.performedBefore o.id = true →
    Next (.queueOpPerformed r) s ((s.modGroup r fun x =>
      { x with q0q := upd (fun y => y.id == o.id) (fun y => { y with arrived := true }) x.q0q }).qArrive r
        { o with arrived := true }).wakeAll.drainOutside

/-- PHASE_OPEN_COMPLETE: every core of a valid mask has an opener, and all leave the open together (R324). -/
def PhaseOpenRule : Prop :=
  ∀ s r w g v gs, s.wg? r.wg = some w → s.group? r = some g → g.waits = [.xeOpen v] → w.out = false →
    s.openValid w (v.toNat % 16777216) = true →
    (maskCores (v.toNat % 16777216)).map (fun c => (s.opener w v c r).map (c, ·)) = gs.map some →
    Next (.phaseOpenComplete r) s (s.startPhase w.core.die (v.toNat % 16777216) gs false)

/-- An open that is not valid waits until no group of its core is in a phase, and starts a broken phase of its own core (R324). -/
def BrokenPhaseRule : Prop :=
  ∀ s r w g v, s.wg? r.wg = some w → s.group? r = some g → g.waits = [.xeOpen v] → w.out = false → w.core.core < 24 →
    s.openValid w (v.toNat % 16777216) = false → s.phaseOn w.core = false →
    Next (.phaseOpenComplete r) s (s.startPhase w.core.die (2 ^ w.core.core) [(w.core.core, r)] true)

/-- PHASE_TIMEOUT: after 65,536 phase cycles the phase breaks on every core (R328). -/
def PhaseTimeoutRule : Prop :=
  ∀ s r g pid n p, s.group? r = some g → g.phase = some (pid, n) → s.phase? pid = some p → 65536 ≤ n → p.broken = false →
    Next (.phaseTimeout r) s (s.breakPhase pid)

/-- BARRIER_ARRIVAL_PERFORMED at a valid barrier, once every earlier operation of the group is performed: one arrival less remains;
a staying group goes on to wait for the phase, another gets the phase it arrived in; fences that waited for the arrival go (R87, R346). -/
def ArrivalRule : Prop :=
  ∀ s r w g cluster n stay k b bar, s.wg? r.wg = some w → s.group? r = some g →
    g.waits = [.barArrive cluster n stay k] → s.barAt r cluster = some b → (s.bars b)[n]? = some bar → w.out = false →
    bar.valid = true → bar.rem ≠ 0 → g.performedBefore k = true →
    Next (.barrierArrivalPerformed r) s
      (((s.setGroup r (
          let x := ({ g with waits := [] } : Group).settleFences (s.acqHeld r)
          if stay then x.addWait (.barPhase cluster n bar.phase k) else syResult (if bar.phase then 1 else 0) x)).modBar b n
        fun x => { x with rem := x.rem - 1 }).releaseBar b cluster n).wakeAll.drainOutside

/-! ### The matrix engine (R359 to R388) -/

/-- MX_COMMAND_START: the engine of a core with no active command takes up the oldest command of the core's workgroups, a RUNNING one or
else the READY one that was sealed first; what its group did before is performed (R104, R359, R360). Under a pre-emption a RUNNING
command still starts, and a READY one is held (R388). -/
def MxStartRule : Prop :=
  ∀ s wg w c g, s.wg? wg = some w → (w.nest.running = some c ∨ w.nest.running = none ∧ w.nest.readied = some c ∧ w.preempt = false) →
    w.out = false → w.retired = false → s.mxOf w.core = none →
    (∀ x ∈ s.wgs, x.core = w.core → x.wid ≠ wg → x.out = false → x.retired = false → x.engineHeld = false →
      ∀ d, x.nest.next = some d → c.order ≤ d.order) →
    w.group? c.byGroup = some g → g.performedBefore c.ord = true →
    Next (.mxCommandStart wg) s (s.modNest wg fun n => { n.promote with active := true, steps := 0, began := s.clock })

/-- A step that the engine may make now: its command is not over, has not run for 2^22 cycles, the bank of its window is not being zeroed,
and it completes no data race. -/
structure MxSteps (s : State) (c : CoreId) (w : Workgroup) (d : NSlot) (k : MxKind) : Prop where
  active : s.mxOf c = some w
  found : s.wg? w.wid = some w
  running : w.nest.running = some d
  more : w.nest.steps < stepCount d.words
  kind : mxKind d.words = some k
  bank : w.nest.zeroing.contains (stepWindow d.words (stepIdx d.words w.nest.steps) / 4) = false
  owned : stepWindow d.words (stepIdx d.words w.nest.steps) / 4 < w.accumBanks.length
  inTime : cyclesSince s.clock w.nest.began < 4194304
  ordered : s.noteStep w d.words = s

/-- MX_STEP: the window's elements become those of the step, and it counts (R371, R372); where the step calls for a drain, its rows are
drained in turn (R373, DrainRowRule). -/
def MxStepRule : Prop :=
  ∀ s c w d k x, MxSteps s c w d k →
    let idx := stepIdx d.words w.nest.steps
    let win := stepWindow d.words idx
    s.stepRead w d.words idx k = .ok x → w.accUe win = none →
    let vals := stepWindowVals k x (accWindow w.accum win)
    let t := s.modWg w.wid fun y => { y with accum := accPut y.accum win vals, nest := { y.nest with steps := y.nest.steps + 1 } }
    (drainsAfter d.words idx (w.nest.steps + 1 == stepCount d.words) = false → Next (.mxStep c false) s t) ∧
    ∀ u e, drainsAfter d.words idx (w.nest.steps + 1 == stepCount d.words) = true →
      drainRows w.wid d.words k (baseOff (cw d.words 10) + strideSum idx (lvlD d.words) fun _ => true) win vals (List.range 128) t =
        (u, e) → Next (.mxStep c false) s (match e with
          | none => u
          | some e => u.mxFault w.wid idx e)

/-- A step whose operands fail a check, or report an uncorrectable error, stops the command with that fault; so does one whose window
holds an uncorrectable error, with the row and column of the lowest bad element, and an offset that is a free value (R385 to R387, log 36). -/
def MxStepFaultRule : Prop :=
  ∀ s c w d k, MxSteps s c w d k →
    let idx := stepIdx d.words w.nest.steps
    (∀ e, s.stepRead w d.words idx k = .error e → Next (.mxStep c false) s (s.mxFault w.wid idx e)) ∧
    ∀ x i j, s.stepRead w d.words idx k = .ok x → w.accUe (stepWindow d.words idx) = some (i, j) →
      Next (.mxStep c false) s (s.mxFault w.wid idx ⟨4, 5, false, 0, i, j, Config.freeOffset w.nest.cmdSeq⟩)

/-- What a step makes of element (i, j) of its window (R372): of integer rows, the sum of the four products, modulo 2^32; of other rows, the
exact dot product, with a block scale rounded once before it is added, and one rounding to nearest even of the sum. -/
def StepValueRule : Prop :=
  ∀ (x : StepIn) (acc : Array W32) i j a b, i < 128 → j < 128 → x.a[i]? = some a → x.b[j]? = some b →
    (∀ sa sb, (stepWindowVals (.ints sa sb) x acc)[128 * i + j]? = some
      (let el (signed : Bool) (v k : Nat) : Int := if signed then (BitVec.ofNat 8 (v / 256 ^ k)).toInt else ((v / 256 ^ k % 256 : Nat) : Int)
       BitVec.ofInt 32 ((acc[128 * i + j]?.getD 0).toInt + el sa a 0 * el sb b 0 + el sa a 1 * el sb b 1 + el sa a 2 * el sb b 2 +
        el sa a 3 * el sb b 3))) ∧
    (∀ fa fb, (stepWindowVals (.floats fa fb) x acc)[128 * i + j]? = some
      (rn32 ((f32 (acc[128 * i + j]?.getD 0)).add .rne (dotFp (rowElems fa a) (rowElems fb b) none)))) ∧
    ∀ sa sb, x.sa[i]? = some sa → x.sb[j]? = some sb → (stepWindowVals .fp4 x acc)[128 * i + j]? = some
      (rn32 ((f32 (acc[128 * i + j]?.getD 0)).add .rne
        (f32 (rn32 ((dotFp (rowElems .fp4 a) (rowElems .fp4 b) none).mul ((e3m5 sa).mul (e3m5 sb)))))))

/-- A row of a drain (R373): each element goes, in the output format, to its place in the destination's allocation, at OFF plus the level
strides, the row's stride and the element's; with the zeroing bit the row's accumulator elements are 0 afterwards. Without band factors
and bias the element is the window's. -/
def DrainRowRule : Prop :=
  (∀ (s : State) w ws k offD win (vals : Array W32) i is outs, s.wg? w.wid = some w →
    (rows128 fun j => s.drainElem w ws k offD win i j (vals[128 * i + j]?.getD 0)) = .ok outs →
    drainRows w.wid ws k offD win vals (i :: is) s =
      drainRows w.wid ws k offD win vals is
        (let t := outs.foldl (fun (t : State) x => t.modWg x.1.1 (·.scratchPut x.1.2 (ofmtBytes (cf ws 11 20 4)) x.2)) s
         if cf ws 11 25 1 = 1 then
           t.modWg w.wid fun y => { y with accum := y.accum.filter fun c => !(List.range 128).any fun j => c.1 == accIndex win i j }
         else t)) ∧
  ∀ (s : State) (w : Workgroup) ws (k : MxKind) (offD : Int) win i j v p, (k.isInt = true ∨ cf ws 11 26 1 = 0 ∧ cf ws 11 27 1 = 0) →
    s.mxPlace w (cw ws 10) (cf ws 11 16 4) (offD + (i * cf ws 11 0 16 + j * ofmtBytes (cf ws 11 20 4) : Nat))
      (ofmtBytes (cf ws 11 20 4)) 5 i j = .ok p →
    s.drainElem w ws k offD win i j v = .ok (p, outCode (cf ws 11 20 4) (decide (cf ws 11 24 1 = 1)) v)

/-- MX_COMMAND_COMPLETE after the last step: the sequence number is done, the slot is FREE, the next command runs (R360, R377); under a
pre-emption, or when a reset waits, none runs (R379, R388). -/
def MxCompleteRule : Prop :=
  ∀ s c w d, s.mxOf c = some w → w.nest.running = some d → stepCount d.words ≤ w.nest.steps → cyclesSince s.clock w.nest.began < 4194304 →
    let stays := w.preempt || w.groups.any fun g => g.waits.contains .mxReset
    Next (.mxCommandComplete c) s
      (((s.modNest w.wid fun n =>
        let n : Nest := { n with
          doneSeq := d.seq, slots := n.slots.map fun x => if x.st = .running then { x with st := .free } else x }
        if stays then n.reopen else n.promote.reopen).modNest w.wid fun n => { n with active := false, steps := 0 }).settleMx w.wid)

/-- MX_OVERTIME stops a command that has run for 2^22 cycles from the engine's start of it with the overtime fault (R384, R387); SUB 4 and
offset 0 are the model's (log 36), and the count begins when the engine takes the command up (log 70). -/
def MxOvertimeRule : Prop :=
  ∀ s c w d, s.mxOf c = some w → w.nest.running = some d → 4194304 ≤ cyclesSince s.clock w.nest.began →
    Next (.mxOvertime c) s (s.mxFault w.wid (stepIdx d.words w.nest.steps) ⟨4, 7, false, 0, 0, 0, 0⟩)

/-- MX_BANK_ZEROED: every element of the bank is 0 (R379). -/
def BankZeroedRule : Prop :=
  ∀ s wg bank w, s.wg? wg = some w → w.nest.zeroing.contains bank = true →
    Next (.mxBankZeroed wg bank) s (s.modWg wg fun x =>
      { x with accum := x.accum.filter fun y => !(y.1 / 65536 == bank)
               accumBad := x.accumBad.filter fun y => !(y / 65536 == bank)
               nest := { x.nest with zeroing := x.nest.zeroing.filter fun y => !(y == bank) } })

end Sys2Proof.Claims
end

