-- ==== Sys2Proof/Claims/EvDevice.lean ====
section
/-!
DEFINITION. EvDevice: what the statements say of Charon's steps, of streams, launches and workgroups, and of transactions.
-/

namespace Sys2Proof.Claims

open Sys2Proof.Machine

/-- A step of the device that answers a next state with a property. -/
def Then (i : Instr) (s : State) (post : State → Prop) : Prop := ∃ t, Next i s t ∧ post t

/-- The same for a step after which the waiting accesses from outside are tried (R109). -/
def ThenDrained (i : Instr) (s : State) (post : State → Prop) : Prop := ∃ u, Next i s u.drainOutside ∧ post u

/-! ### Charon (R69 to R74) -/

/-- EPOCH_END: an epoch ends 2^20 cycles of 2/3 ns after the one before, counted from the start of the clock: the epoch is counted, and
every count of every part starts again at 0 (R69). -/
def EpochRule : Prop :=
  ∀ s, (s.epoch + 1) * 2 ^ 20 ≤ s.clock * 3 / 2 →
    ThenDrained .epochEnd s fun t => t.epoch = s.epoch + 1 ∧
      ∀ p ∈ t.parts, p.reads = [0, 0, 0, 0] ∧ p.writes = [0, 0, 0, 0] ∧ p.extReads = 0 ∧ p.extWrites = 0

/-- Before that time nothing happens. -/
def EpochEarlyRule : Prop := ∀ s, s.clock * 3 / 2 < (s.epoch + 1) * 2 ^ 20 → Next .epochEnd s s

/-- REPLICA_FILL_COMPLETE: a copy that was being filled for a READ-DUP part can be used (R70). -/
def FillRule : Prop :=
  ∀ s part die frame, (s.part part).filling = [(die, frame)] → (s.part part).st = .readDup →
    Next (.replicaFillComplete part die) s
      (s.modPart part fun p =>
        { p with filling := p.filling.filter fun x => !(x == (die, frame)), copies := p.copies ++ [(die, frame)] })

/-- MIGRATION_EXCHANGE_COMPLETE: the part and its partner have swapped homes, both are SINGLE, and no cache holds a line of either (R71). -/
def ExchangeRule : Prop :=
  ∀ s part q, (s.part part).partner = some q → (s.part part).st = .migrating → s.mergedPart part = false → s.mergedPart q = false →
    Next (.migrationExchangeComplete part) s
      (((s.dropLines (fun _ => true) fun line => lineInPart part line || lineInPart q line).modPart part fun x =>
        { x with home := (s.part q).home, st := .single, partner := none }).modPart q fun x =>
        { x with home := (s.part part).home, st := .single, partner := none }).drainOutside

/-- COLLAPSE_REQUEST of a READ-DUP part whose unit is not merged: it is COLLAPSING, and every die with a copy is asked to drop its
lines (R74). -/
def CollapseRequestRule : Prop :=
  ∀ s part, (s.part part).requested = true → (s.part part).st = .readDup → s.mergedPart part = false →
    Next (.collapseRequest part) s (s.modPart part fun p =>
      { p with st := .collapsing, awaited := (p.copies ++ p.filling).map (·.1), requested := false })

/-- COLLAPSE_INVALIDATION: a die has dropped the part's lines, and is awaited no longer (R73). -/
def CollapseInvalidationRule : Prop :=
  ∀ s part die, (s.part part).st = .collapsing → die ∈ (s.part part).awaited →
    Next (.collapseInvalidation part die) s
      ((s.dropLines (· == die) (lineInPart part)).modPart part fun p => { p with awaited := p.awaited.filter fun d => !(d == die) })

/-- COLLAPSE_ACK: once no die is awaited the part is SINGLE again, and the frames of its copies are free (R74). -/
def CollapseAckRule : Prop :=
  ∀ s part, (s.part part).st = .collapsing → (s.part part).awaited = [] →
    Next (.collapseAck part) s
      ((((s.part part).copies ++ (s.part part).filling).foldl (fun t x => t.giveReserve x.2) s).modPart part fun p =>
        { p with st := .single, copies := [], filling := [], awaited := [], requested := false }).drainOutside

/-- UNIT_MERGE: a split unit of a large page that nothing has written for 2^24 cycles, and none of whose parts has a copy, a live
counter or committed work, is one unit again (R70). -/
def MergeRule : Prop :=
  ∀ s unit, s.largeUnit unit = true → (s.unit unit).split = true → 2 ^ 24 ≤ (s.clock - (s.unit unit).lastWrite) * 3 / 2 →
    (∀ p, p / 32 = unit → s.rdAllowed p = true ∧ s.committedHere p = false ∧ s.counterHere p = false ∧ (s.part p).st = .single ∧
      (s.part p).copies = [] ∧ (s.part p).filling = []) →
    Next (.unitMerge unit) s (s.modUnit unit fun u => { u with split := false })

/-! ### Streams (R175, R176, R181) -/

/-- STREAM_ENABLE with 0: the stream is IDLE, its error cleared, its head record forgotten; the read index passes a REARM record
(R176). -/
def DisableStreamRule : Prop :=
  ∀ s n, n < Config.numStreams → s.served = true →
    Then (.streamEnable n false) s fun t => (t.strm n).en = false ∧ (t.strm n).st = .idle ∧ (t.strm n).err = 0 ∧
      (t.strm n).head = none ∧
      (t.strm n).rdIdx = if (s.strm n).rearmed then ((s.strm n).rdIdx + 1) % 2 ^ 32 else (s.strm n).rdIdx

/-- With 1: a stream that was not enabled is, and its ring is looked at. -/
def EnableStreamRule : Prop :=
  ∀ s n, n < Config.numStreams → s.served = true → (s.strm n).en = false →
    Next (.streamEnable n true) s
      (let u := s.modStrm n fun x => { x with en := true, st := .idle, err := 0, absent := none }
       (u.readHead n).getD u)

/-- STREAM_RESUME of a halted stream: its head record is looked at again (R181). -/
def ResumeRule : Prop :=
  ∀ s n, n < Config.numStreams → s.served = true → (s.strm n).st = .halted →
    Next (.streamResume n) s
      (let u := s.modStrm n fun x => { x with st := .idle, err := 0, head := none }
       (u.readHead n).getD u)

/-- STREAM_SKIP of a halted stream: its head record is passed (R181). -/
def SkipRule : Prop :=
  ∀ s n, n < Config.numStreams → s.served = true → (s.strm n).st = .halted →
    Next (.streamSkip n) s (s.modStrm n fun x => { x with st := .idle, err := 0, head := none, rdIdx := (x.rdIdx + 1) % 2 ^ 32 })

/-- A stream that is not halted is neither resumed nor skipped. -/
def NotHaltedRule : Prop :=
  ∀ s n, n < Config.numStreams → (s.strm n).st ≠ .halted → Next (.streamResume n) s s ∧ Next (.streamSkip n) s s

/-- WRITE_INDEX_ADVANCE of an enabled idle stream whose write index is ahead of its read index: the head record that passes the
checks of R178 to R181 becomes the head. -/
def AdvanceRule : Prop :=
  ∀ s n t, n < Config.numStreams → s.readHead n = some t → Next (.writeIndexAdvance n) s t

/-- A stream that may look at its ring: enabled, neither halted nor with a head record, and its context enabled (R175, R176). -/
structure Looking (s : State) (n : Nat) : Prop where
  inRange : n < Config.numStreams
  en : (s.strm n).en = true
  going : (s.strm n).st ≠ .halted
  noHead : (s.strm n).head = none

/-- Its ring is well placed: 2^4 to 2^15 records from a multiple of 128 (R175, R181). -/
def Placed (x : Stream) : Prop := 4 ≤ x.ringLog2 ∧ x.ringLog2 ≤ 15 ∧ x.ringVa.toNat % 128 = 0

/-- A halted stream: the refusal's number in its error field, no head record, and the interrupt that says so (R181). -/
def haltedWith (s : State) (n err : Nat) : State :=
  (s.modStrm n fun x => { x with st := .halted, err := err, head := none, absent := none }).irq (.streamHalted n)

/-- A ring that is not well placed halts its stream with RING, and one of a context that is not enabled with ACCESS (R181). -/
def RingRule : Prop :=
  (∀ s n, Looking s n → ¬Placed (s.strm n) → Next (.writeIndexAdvance n) s (haltedWith s n 0x09)) ∧
  ∀ s n, Looking s n → Placed (s.strm n) → (s.ctx (s.strm n).ctx).en = false → Next (.writeIndexAdvance n) s (haltedWith s n 0x07)

/-- The write index as a stream reads it: the low half of the word at WRIDXVA, which the writer's earlier writes and no commit hold
back; u is the state after the read (R110, R128, R175, R445). -/
def IndexIs (s : State) (n : Nat) (w : Nat) (u : State) : Prop :=
  ∃ l, s.frontLeaf (s.strm n).ctx (s.strm n).wridxVa.toNat false = .ok (l, u) ∧
    u.unreleased (l.pa (s.strm n).wridxVa.toNat) 8 = false ∧ u.readHeld none (l.pa (s.strm n).wridxVa.toNat) = false ∧
    fld (w64 (bytesNat (u.readPhys none (s.strm n).ctx (l.pa (s.strm n).wridxVa.toNat) 8))) 0 32 = w

/-- The head record is the one at slot RDIDX modulo the ring size, 128 bytes a slot, once the write index differs from RDIDX: it
becomes the head when it passes the checks, and otherwise its refusal's number halts the stream (R176, R181). -/
def HeadRule : Prop :=
  ∀ s n w u, Looking s n → Placed (s.strm n) → (s.ctx (s.strm n).ctx).en = true → IndexIs s n w u →
    (w = (s.strm n).rdIdx → Next (.writeIndexAdvance n) s s) ∧
    (w ≠ (s.strm n).rdIdx →
      let at_ := (s.strm n).ringVa.toNat + (s.strm n).rdIdx % 2 ^ (s.strm n).ringLog2 * 128
      (∀ h t, u.checkRecord (s.strm n).ctx at_ = .ok (h, t) →
        Next (.writeIndexAdvance n) s (t.modStrm n fun x => { x with st := .active, head := some h, absent := none })) ∧
      ∀ e, u.checkRecord (s.strm n).ctx at_ = .error (.refuse e) → Next (.writeIndexAdvance n) s (haltedWith u n e.err))

/-- The numbers of the refusals (R181). -/
def RefusalNumbers : Prop :=
  [Refuse.format, .shape, .fit, .code, .hash, .args, .access, .mode, .ring, .stale].map Refuse.err = [1, 2, 3, 4, 5, 6, 7, 8, 9, 10]

/-- The checks of a record's own fields, in their order: FORMAT, SHAPE, MODE, STALE and CODE (R177, R178, R181). -/
def RecordRule : Prop :=
  ∀ (s : State) ctx va ws u, State.frontWords ctx 16 va s = .ok (ws, u) →
    let r := recordOf ws
    (formatBad ws = true → s.checkRecord ctx va = .error (.refuse .format)) ∧
    (formatBad ws = false → r.shapeBad = true → s.checkRecord ctx va = .error (.refuse .shape)) ∧
    (formatBad ws = false → r.shapeBad = false → r.modeBad = true → s.checkRecord ctx va = .error (.refuse .mode)) ∧
    (formatBad ws = false → r.shapeBad = false → r.modeBad = false → r.stale (u.strm r.waitStream).rdIdx = true →
      s.checkRecord ctx va = .error (.refuse .stale)) ∧
    (formatBad ws = false → r.shapeBad = false → r.modeBad = false → r.stale (u.strm r.waitStream).rdIdx = false → r.codeBad = true →
      s.checkRecord ctx va = .error (.refuse .code))

/-- A record whose own fields pass: the code header is read next, then CODE, HASH, ARGS, the argument block, the words the record names
and FIT are judged in that order (R179, R180, R181). -/
def HeaderRule : Prop :=
  ∀ (s : State) ctx va ws u hs v, State.frontWords ctx 16 va s = .ok (ws, u) → formatBad ws = false →
    (recordOf ws).shapeBad = false → (recordOf ws).modeBad = false → (recordOf ws).stale (u.strm (recordOf ws).waitStream).rdIdx = false →
    (recordOf ws).codeBad = false → State.frontWords ctx 16 (recordOf ws).code.toNat u = .ok (hs, v) →
    let r := recordOf ws
    let hashed := (hs[1]?.getD 0, hs[2]?.getD 0) = codeHash v.plat.step
    (headerBad r hs = true → s.checkRecord ctx va = .error (.refuse .code)) ∧
    (headerBad r hs = false → ¬hashed → s.checkRecord ctx va = .error (.refuse .hash)) ∧
    (headerBad r hs = false → hashed → r.argsBad = true → s.checkRecord ctx va = .error (.refuse .args)) ∧
    ∀ user aff t, headerBad r hs = false → hashed → r.argsBad = false → v.readArgs ctx r = .ok (user, aff, t) →
      (∀ e, t.wordsOk ctx r = .error e → s.checkRecord ctx va = .error e) ∧
      (t.wordsOk ctx r = .ok () →
        let h := { headerOf hs with userVa := user, affinity := aff }
        s.checkRecord ctx va = if fits r h then .ok ({ lrec := r, hdr := h, prev := none }, t) else .error (.refuse .fit))

/-- What SHAPE, MODE and STALE look at (R178, R181; that fewer than 2^31 sequences count as behind is the model's choice, log 71). -/
def ShapeModeRule : Prop :=
  ∀ r : LaunchRec,
    (r.shapeBad = false ↔ 1 ≤ r.vregs8 ∧ r.vregs8 ≤ 32 ∧ r.gang ≠ 1 ∧ r.gang ≤ 24 ∧ r.accum ≠ 3 ∧ r.nbar ≤ 16 ∧ r.ncbar ≤ 32 ∧
      (r.ncbar ≠ 0 → r.gang ≠ 0) ∧ r.priv ≤ 128 ∧ 1 ≤ r.gridX * r.gridY * r.gridZ ∧ r.gridX * r.gridY * r.gridZ ≤ 2 ^ 32 ∧
      (r.gang ≠ 0 → r.gang ∣ r.gridX * r.gridY * r.gridZ)) ∧
    (r.modeBad = true ↔ (r.persist = true ∧ r.ntxn = false) ∨ ((r.rearm = true ∨ r.consume = true) ∧ r.armed = false)) ∧
    ∀ n, r.stale n = true ↔ r.waitKind = 2 ∧ 256 ≤ (n + 2 ^ 32 - r.waitSeq) % 2 ^ 32 ∧ (n + 2 ^ 32 - r.waitSeq) % 2 ^ 32 < 2 ^ 31

/-- Of the argument block only words 0 and 1 and the affinity entries are read: the user area begins after the entries (R179). -/
def ArgsRule : Prop :=
  ∀ (s : State) ctx (r : LaunchRec) w0 w1 u es t, r.argSize ≠ 0 → State.frontWords ctx 2 r.args.toNat s = .ok ([w0, w1], u) →
    State.frontWords ctx (2 * fld w0 0 8) (r.args.toNat + 16) u = .ok (es, t) → fld w0 0 8 ≤ 8 → 16 + 16 * fld w0 0 8 ≤ r.argSize →
    (fld w0 8 24 = 0 → w1 = 0 → 16 + 16 * fld w0 0 8 + fld w0 32 32 ≤ r.argSize →
      s.readArgs ctx r = .ok (r.args + w64 (16 + 16 * fld w0 0 8),
        (List.range (fld w0 0 8)).map (fun i => (es[2 * i]?.getD 0, (es[2 * i + 1]?.getD 0).toNat)), t)) ∧
    (fld w0 8 24 ≠ 0 ∨ w1 ≠ 0 ∨ r.argSize < 16 + 16 * fld w0 0 8 + fld w0 32 32 → s.readArgs ctx r = .error (.refuse .args))

/-! ### Launches (R119, R127, R182 to R185) -/

/-- The launch of a stream's head record, as it starts. -/
def startedOf (s : State) (n : Nat) (h : Head) : State :=
  (s.startLaunch (s.launchOfHead (s.strm n) h)).passHead n s.nextLid

/-- LAUNCH_START of a head record that waits for nothing any more. -/
def StartRule : Prop :=
  ∀ s n h, s.requeued n = none → (s.strm n).head = some h → h.lrec.armed = false → s.headReady (s.strm n) h = true →
    Next (.launchStart n) s (startedOf s n h)

/-- What a started transactional launch is: it runs under the version that was next, with the last published ticket as its start cut,
nothing created and nothing retired; the version after it is next, 0 left out (R119, R127). -/
def StartedRule : Prop :=
  ∀ s n h, (s.strm n).head = some h → h.lrec.ntxn = false → h.lrec.rearm = false → (∀ l ∈ s.launches, l.lid < s.nextLid) →
    ∃ l, (startedOf s n h).launch? s.nextLid = some l ∧ l.stream = (s.strm n).num ∧ l.seq = (s.strm n).rdIdx ∧ l.phase = .running ∧
      l.version = (s.ctx (s.strm n).ctx).nextVer ∧ l.startCut = (s.ctx (s.strm n).ctx).cTicket ∧ l.nextWg = 0 ∧ l.retired = 0 ∧
      l.retries = 0 ∧ l.ticket = none ∧
      ((startedOf s n h).ctx (s.strm n).ctx).nextVer =
        (if ((s.ctx (s.strm n).ctx).nextVer + 1) % 2 ^ 16 = 0 then 1 else ((s.ctx (s.strm n).ctx).nextVer + 1) % 2 ^ 16)

/-- LAUNCH_START of an aborted attempt that is queued again: it starts before the stream's head (R135). -/
def RestartRule : Prop := ∀ s n l, s.requeued n = some l → Next (.launchStart n) s (s.startLaunch l)

/-- ARMED_FIRE: the armed word satisfies the record's comparison; without CONSUME memory is left alone (R184). -/
def FireRule : Prop :=
  ∀ s n h v pa, (s.strm n).head = some h → h.lrec.armed = true → h.lrec.consume = false → s.headReady (s.strm n) h = true →
    s.frontWord (s.strm n).ctx h.lrec.armAddr = some (v, pa) → (wakeCmpOf h.lrec.armCmp).holds v h.lrec.armVal = true →
    Next (.armedFire n) s (startedOf s n h)

/-- With CONSUME the word that was found is replaced by 0, as a store of the device itself is performed (R61, R184). -/
def FireConsumeRule : Prop :=
  ∀ s n h v pa t, (s.strm n).head = some h → h.lrec.armed = true → h.lrec.consume = true → s.headReady (s.strm n) h = true →
    s.frontWord (s.strm n).ctx h.lrec.armAddr = some (v, pa) → (wakeCmpOf h.lrec.armCmp).holds v h.lrec.armVal = true →
    (s.setAM ioDie (s.strm n).ctx h.lrec.armAddr.toNat true).ownStore (s.strm n).ctx pa (s.frontC (s.strm n).ctx h.lrec.armAddr) 0 =
      .done 0 0 false false t →
    t.strm n = s.strm n → Next (.armedFire n) s (startedOf t n h)

/-- While it does not, the record stays the head. -/
def NotFiredRule : Prop :=
  ∀ s n h v pa, (s.strm n).head = some h → h.lrec.armed = true → s.headReady (s.strm n) h = true →
    s.frontWord (s.strm n).ctx h.lrec.armAddr = some (v, pa) → (wakeCmpOf h.lrec.armCmp).holds v h.lrec.armVal = false →
    Next (.armedFire n) s s

/-- DEPENDENCE_ABORT: the awaited launch of another stream ended with a status above 1; the record ends with 0x20 without having
started, taking neither a version nor a ticket, and is passed (R136). -/
def DependenceRule : Prop :=
  ∀ s n h st, (s.strm n).head = some h → h.lrec.waitKind = 2 → s.finalStatus h.lrec.waitStream h.lrec.waitSeq = some st → 1 < st →
    (s.strm n).en = true → (s.strm n).st = .active → h.prev = none → h.lrec.rearm = false →
    Then (.dependenceAbort n) s fun t =>
      t.launches = s.launches ++ [{ s.launchOfHead (s.strm n) h with phase := .done, status := some 0x20 }] ∧
      (t.strm n).last = some s.nextLid ∧ (t.strm n).head = none ∧ (t.strm n).st = .idle ∧
      (t.strm n).rdIdx = ((s.strm n).rdIdx + 1) % 2 ^ 32 ∧ t.contexts = s.contexts ∧ t.mem = s.mem

/-! ### Workgroups (R186 to R197, R401, R402) -/

/-- WORKGROUP_CREATE of a launch without gangs: the next workgroup goes to the core with the most free entries of the first ranked die
that has room, with the lowest free segments (R20, R186 to R190). -/
def CreateRule : Prop :=
  ∀ s lid l c r segs, s.launch? lid = some l → l.phase = .running → l.nextWg < l.lrec.count → s.diesRun = true → l.lrec.gang = 0 →
    s.pickCore l l.rank (s.newEntryOn l.ctx) = some (c, r) → s.freeSegs l.ctx (l.lrec.groups + 1) = some segs →
    l.staggerOk c s.clock = true →
    Next (.workgroupCreate lid) s (s.createWg l l.nextWg c r segs)

/-- The registers of a new group (R190): s0 the user address, s1 to s3 the workgroup's coordinates in the grid, s4 the group, s5 the
member, s6 the core, s7 the retries, every other scalar 0; k0 every lane of the group and the other guards 0. -/
def NewGroupRule : Prop :=
  ∀ l c gi member x y z p seg ident ser,
    let g := newGroup l c gi member (x, y, z) p seg ident ser
    g.sregs = [l.hdr.userVa, w64 x, w64 y, w64 z, w64 gi, w64 member, w64 (c.core + 32 * c.die), w64 l.retries] ++
        List.replicate 56 0 ∧
      g.kregs = fullMask (widthOf l.lrec.width) :: List.replicate 15 0 ∧
      g.pc = l.textBase + w64 l.lrec.entry ∧ g.width = widthOf l.lrec.width ∧
      ∀ k, k < widthOf l.lrec.width → g.v k 0 = if l.lrec.vregs8 = 0 then 0 else w32 (gi * widthOf l.lrec.width + k)

/-- GANG_RESERVATION_TIMEOUT: 100 µs after the reservation the one workgroup of no higher priority on the reserved cores has to go
(R189). -/
def ReservationRule : Prop :=
  ∀ s lid l since w, s.launch? lid = some l → l.reservedAt = some since → since + 100000 ≤ s.time → s.wgs = [w] →
    (s.core w.core).reservedFor = some lid → s.movable w = true → s.prioOf l ≤ s.wgPrio w →
    Next (.gangReservationTimeout lid) s (s.requestPreempt w)

/-- WORKGROUP_RETIRE: when every group has ended and nothing of it is outstanding but stores on their way, its scratchpad,
accumulators, queues, barriers and commands are gone, and its launch counts it (R191). -/
def RetireRule : Prop :=
  ∀ s wg w, s.wg? wg = some w → s.canRetire w = true →
    Next (.workgroupRetire wg) s
      (let t := w.groups.foldl (fun s g =>
          ((s.sendNotices g.ident).setSerial w.ctx (identPos g.ident) g.nextSer).leavePhaseBroken ⟨wg, g.gi⟩) s
       let t := (t.modWg wg (·.retire)).modLaunch w.lid fun l => { l with retired := l.retired + 1 }
       ((t.quitCore w.core wg).leaveCore w.ctx w.core).tidyRetired)

/-- What a workgroup that leaves its core takes with it: its misses and its faults of that core, none of which is being served; with
room again, misses that stalled a slot are tried again (R40, R47). -/
def QuitCoreRule : Prop :=
  ∀ (s : State) c wid, (s.core c).serving = none →
    ((s.core c).misses = [] → (s.core c).fw = [] → s.quitCore c wid = s.roomAgain c) ∧
    ((s.core c).misses ≠ [] ∨ (s.core c).fw ≠ [] → s.quitCore c wid = (s.modCore c fun k =>
      { k with misses := k.misses.filter fun m => !(m.g.wg == wid), fw := k.fw.filter fun f => !(f.g.wg == wid) }).roomAgain c)

/-- LAUNCH_COMPLETE of a non-transactional launch all of whose workgroups are gone: status 1 (R193). -/
def CompleteRule : Prop :=
  ∀ s lid l, s.launch? lid = some l → l.lrec.ntxn = true → l.phase = .running → l.lrec.count ≤ l.retired →
    (∀ w ∈ s.wgs, w.lid ≠ lid) →
    Next (.launchComplete lid) s ((s.modLaunch lid fun l => { l with phase := .done, status := some 1 }).unreserve lid)

/-- TIME_SLICE_EXPIRY: after 100 µs on its core, with work of another context of its priority waiting, a workgroup has to go; here it
is the only one (R196). -/
def SliceRule : Prop :=
  ∀ s wg w, s.wg? wg = some w → s.wgs = [w] → s.movable w = true → w.residentSince + 100000 ≤ s.time → s.othersWait w = true →
    Next (.timeSliceExpiry wg) s (s.requestPreempt w)

/-- DRIVER_PREEMPT: with save every workgroup of the context has to go; with kill every launch of it ends with status 0x11 (R197). -/
def DriverPreemptRule : Prop :=
  ∀ s ctx, Next (.driverPreempt ctx false) s ((s.wgs.filter fun w => w.ctx == ctx).foldl (fun s w => s.requestPreempt w) s) ∧
    Next (.driverPreempt ctx true) s ((s.launches.filter fun l => l.ctx == ctx).foldl (fun s l => s.failLaunch l.lid 0x11) s)

/-- WORKGROUP_SAVE: once it has stopped, and what it sent is settled or has been waited for, a workgroup whose image pages can be
reached has its image written and leaves its core; that its launch waits for a core from now on, first come first served, is log 67
(R195, R196, R401). -/
def SaveRule : Prop :=
  (∀ s wg w l v, s.wg? wg = some w → s.canSave w = true → s.awaitCovered w = none → s.launch? w.lid = some l →
    s.reachImage (s.imageAreas w) = (none, v) → Next (.workgroupSave wg) s ((v.writeImage w l).switchOut w)) ∧
  ∀ (s : State) w, s.covOps = [] → s.switchOut w =
    let t := ((s.quitCore w.core w.wid).modWg w.wid fun w =>
      { w with out := true, preempt := false, saveFrom := none, groups := w.groups.map (·.savedOut) }).leaveCore w.ctx w.core
    t.modLaunch w.lid fun l => { l with waitSince := l.waitSince.or (some t.time) }

/-- With covered operations of it outstanding Phobos waits up to 20 µs before it saves (R157). -/
def SaveWaitsRule : Prop :=
  ∀ s wg w, s.wg? wg = some w → s.canSave w = true → w.gang = none → s.covOut w = true →
    (w.saveFrom = none → Next (.workgroupSave wg) s (s.modWg wg fun y => { y with saveFrom := some s.time })) ∧
    (∀ t, w.saveFrom = some t → s.time < t + 20000 → Next (.workgroupSave wg) s s) ∧
    ∀ t, w.saveFrom = some t → t + 20000 ≤ s.time → s.awaitCovered w = none

/-- What a save writes: a group part of 0x2000 bytes and 0x1000 for each lane, with its CRC-32C in SEAL, s0 to s63 from offset 0x100 and
k0 to k15 from 0x300, and a workgroup part of the length its header names, its scratchpad a number of 2 KiB rows (R51, R401, R403,
R404, R406). -/
def ImageRule : Prop :=
  (∀ (s : State) (l : Launch) (g : Group) n, (groupImage s l g n).length * 8 = 0x2000 + g.width * 0x1000 ∧
    (groupImage s l g n)[1]? = some (w64 (crc32c (wordsBytes ((groupImage s l g n).set 1 0)))) ∧
    (g.sregs.length = 64 → g.kregs.length = 16 →
      (∀ i, i < 64 → (groupImage s l g n)[0x20 + i]? = some (g.s i)) ∧ ∀ i, i < 16 → (groupImage s l g n)[0x60 + i]? = some (g.k i))) ∧
  ∀ (w : Workgroup) l n, w.scratchSize % 2048 = 0 → (workgroupImage w l n).length * 8 = w.imageBytes

/-- WORKGROUP_SAVE that needs a page Phobos has to bring or a frame the pool lacks: the core stops until it is served (R45). -/
def SaveStopsRule : Prop :=
  ∀ s wg w l f v, s.wg? wg = some w → s.canSave w = true → s.awaitCovered w = none → s.launch? w.lid = some l →
    s.reachImage (s.imageAreas w) = (some f, v) → f.code = fcPoolEmpty ∨ f.code = fcNotResident → (v.core w.core).fw = [] →
    v.expiredFw f.who none = none →
    Next (.workgroupSave wg) s (v.stopCore f.who f.code (groupVa f.off) 0 none)

/-- WORKGROUP_RESTORE of a workgroup of no gang on an open core with room: it is there again (R402). -/
def RestoreRule : Prop :=
  ∀ s wg w l c r, s.wg? wg = some w → s.launch? w.lid = some l → w.out = true → w.retired = false → w.gang = none →
    l.lrec.dieMask = 0 → s.diesRun = true → c.die < Config.numDies → c.core < Config.coresPerDie → s.coreOpen c l = true →
    s.roomOn c l lowestEntry = some r → s.badLines = [] → s.sealBroken w = false →
    Next (.workgroupRestore wg c .ok) s (s.restoreWg l w c r)

/-- What a restore puts back: the workgroup as its image holds it, on its new core and in its new rows, its groups interlocked; waits are
evaluated again, and it has had its turn (R402; the order of turns is log 67). -/
def PutBackRule : Prop :=
  (∀ (s : State) l w c r, s.covOps = [] → s.restoreWg l w c r =
    ((((s.modWg w.wid fun y =>
      let x := s.readImage l y
      { x with core := c, out := false, residentSince := s.time, scratchBase := r.scratchBase, accumBanks := r.banks,
               groups := placeAgain x.groups r.groups }).wakeAll).settleMx w.wid).turnTaken w.lid)) ∧
  ∀ (gs : List Group) (ps : List GroupPlace) (i : Nat) (g : Group) (p : GroupPlace), gs[i]? = some g → ps[i]? = some p →
    (placeAgain gs ps)[i]? = some { g.interlock with slot := p.slot, entry := p.entry, row := p.row, col := p.col }

/-- What the image holds of a group: where every word of its layout is as the device wrote it, the group as it was saved; a scalar
register whose word has been changed since, as the word says (R402, R404). -/
def ReadBackRule : Prop :=
  (∀ (s : State) l w (g : Group), (∀ p ∈ g.laidWords s l, s.imageWordAt w 0x10000 p.1 = some p.2) → g.readBack s l w = g) ∧
  ∀ (s : State) l w (g : Group) i v, i < 64 → v ≠ g.s i → g.sregs.length = 64 → s.imageWordAt w 0x10000 (0x20 + i) = some v →
    (∀ p ∈ g.laidWords s l, p.1 ≠ 0x20 + i → s.imageWordAt w 0x10000 p.1 = some p.2) → g.readBack s l w = g.setS i v

/-- With an image that reports an error, or whose seal does not fit, the launch ends with 0x17 and a report (R402). -/
def RestoreFailsRule : Prop :=
  ∀ s wg w l c, s.wg? wg = some w → s.launch? w.lid = some l → w.out = true → w.retired = false → w.gang = none →
    l.lrec.dieMask = 0 → s.diesRun = true → c.die < Config.numDies → c.core < Config.coresPerDie →
    (s.imageBad w = true ∨ s.sealBroken w = false → Next (.workgroupRestore wg c .ue) s (s.restoreFails w l 1)) ∧
      (s.imageBad w = true → Next (.workgroupRestore wg c .ok) s (s.restoreFails w l 1)) ∧
      (s.badLines = [] → s.sealBroken w = true → Next (.workgroupRestore wg c .ok) s (s.restoreFails w l 2)) ∧
      (s.badLines = [] → Next (.workgroupRestore wg c .seal) s (s.restoreFails w l 2))

/-! ### Transactions (R124 to R137, R448) -/

/-- ATTEMPT_END: every workgroup of a running attempt is gone: the attempt has ended, after those that ended before it, and its dirty
lines are written back (R124). -/
def AttemptEndRule : Prop :=
  ∀ s lid l, s.launch? lid = some l → l.lrec.ntxn = false → l.phase = .running → l.lrec.count ≤ l.retired →
    (∀ w ∈ s.wgs, w.lid ≠ lid) →
    Next (.attemptEnd lid) s
      ((({ s with cores := s.cores.map fun c => { c with
            l1 := c.l1.filter fun x => !(x.ctx == l.ctx && x.view == l.version && (x.st == .m || x.st == .o)) } } : State).modLaunch lid
        fun l => { l with phase := .ended, endOrder := s.lastEnd + 1 }).unreserve lid)

/-- TICKET_TAKE: an ended attempt whose predecessor in the stream has its ticket takes the context's next one, while fewer than 256 are
outstanding and no attempt that ended earlier comes first; its overlay entries carry it (R124, R125). -/
def TicketRule : Prop :=
  ∀ s lid l, s.launch? lid = some l → l.phase = .ended → (s.ticketsOut l.ctx).length < 256 → s.predOk l = true →
    s.endedBefore l = false → s.frameBad lid = false →
    Next (.ticketTake lid) s
      (let n := (s.ctx l.ctx).nextTicket
       let t := (s.modCtx l.ctx fun c => { c with nextTicket := (n + 1) % 2 ^ 32 }).modLaunch lid fun l =>
         { l with phase := .ticketed, ticket := some n }
       { t with overlays := t.overlays.map fun o => if o.lid == lid then { o with ticket := some n } else o })

/-- One that ended earlier in the context, and may take its ticket, takes it first (R124). -/
def TicketWaitsRule : Prop :=
  ∀ s lid l x, s.launch? lid = some l → l.phase = .ended → s.frameBad lid = false → x ∈ s.launches → x.ctx = l.ctx → x.phase = .ended →
    x.endOrder < l.endOrder → s.predOk x = true → Next (.ticketTake lid) s s

/-- COMMIT of the lowest outstanding ticket without a conflict: the attempt's entries turn pending, and none of its parts is
READ-DUP here, so no collapse is needed (R126 to R128). -/
def CommitRule : Prop :=
  ∀ s lid l n, s.launch? lid = some l → l.ticket = some n → l.phase = .ticketed →
    (∀ x ∈ s.ticketsOut l.ctx, ∀ t, x.ticket = some t → t = n ∨ ticketLe t n = false) → s.frameBad lid = false →
    s.conflicts l = false → (∀ o ∈ s.entriesOf lid, (s.part o.part).st ≠ .readDup) →
    Next (.commit lid) s
      (({ s with overlays := s.overlays.map fun o => if o.lid == lid then { o with pending := true } else o } : State).modLaunch lid
        fun l => { l with phase := .committing, prepared := [], released := [] })

/-- With a conflict under the detect policy the attempt aborts with 0x16 (R127). -/
def ConflictRule : Prop :=
  ∀ s lid l n, s.launch? lid = some l → l.ticket = some n → l.phase = .ticketed →
    (∀ x ∈ s.ticketsOut l.ctx, ∀ t, x.ticket = some t → t = n ∨ ticketLe t n = false) → s.frameBad lid = false →
    l.lrec.policy = false → s.conflicts l = true →
    Next (.commit lid) s (s.failLaunch lid 0x16)

/-- An uncorrectable error in a frame of the attempt before its publish: it is reported as 0x40, and the attempt aborts with 0x14 (R133,
R138, R392; that the error is found when the attempt's next step looks at its frames is log 27). -/
def FrameErrorRule : Prop :=
  ∀ s lid l, s.launch? lid = some l → s.frameBad lid = true → (l.phase = .ended → Next (.ticketTake lid) s (s.failFrame l)) ∧
    (∀ n, l.phase = .ticketed → l.ticket = some n →
      (∀ x ∈ s.ticketsOut l.ctx, ∀ t, x.ticket = some t → t = n ∨ ticketLe t n = false) → Next (.commit lid) s (s.failFrame l)) ∧
    (∀ die, l.phase = .committing → die < Config.numDies → die ∉ l.prepared → s.collapsesOver lid = true →
      Next (.commitPrepare lid die) s (s.failFrame l)) ∧
    (l.phase = .committing → l.prepared.length = 4 → Next (.prepareAck lid) s (s.failFrame l))

/-- An attempt with a higher ticket than another outstanding one waits (R126). -/
def CommitWaitsRule : Prop :=
  ∀ s lid l n x t, s.launch? lid = some l → l.ticket = some n → x ∈ s.ticketsOut l.ctx → x.ticket = some t → t ≠ n → ticketLe t n = true →
    Next (.commit lid) s s

/-- COMMIT_PREPARE: a die has received the prepare, once the collapses of the attempt's parts are over (R128). -/
def PrepareRule : Prop :=
  ∀ s lid die l, s.launch? lid = some l → l.phase = .committing → die < Config.numDies → die ∉ l.prepared →
    (∀ o ∈ s.entriesOf lid, (s.part o.part).st = .single ∨ (s.part o.part).st = .migrating) → s.frameBad lid = false →
    Next (.commitPrepare lid die) s (s.modLaunch lid fun l => { l with prepared := l.prepared ++ [die] })

/-- PREPARE_ACK: with all four acknowledgements the attempt is published: the context's CTICKET and CVER are its ticket and version,
and its writes are what everyone reads (R119, R128). -/
def PublishRule : Prop :=
  ∀ s lid l n, s.launch? lid = some l → l.phase = .committing → l.prepared.length = 4 → l.ticket = some n →
    s.frameBad lid = false →
    Then (.prepareAck lid) s fun t => (t.ctx l.ctx).cTicket = n ∧ (t.ctx l.ctx).cVer = l.version ∧
      (∃ x, t.launch? lid = some x ∧ x.phase = .committed) ∧ t.mem = s.mem

/-- COMMIT_RELEASE of a die: the reads and accesses that waited there go on; the last of the four clears the pending marks (R128). -/
def ReleaseRule : Prop :=
  ∀ s lid die l, s.launch? lid = some l → l.phase = .committed → die < Config.numDies → die ∉ l.released →
    Next (.commitRelease lid die) s
      (let t := s.modLaunch lid fun l => { l with released := l.released ++ [die] }
       (if l.released.length + 1 < 4 then t
        else { t with overlays := t.overlays.map fun o => if o.lid == lid then { o with pending := false } else o }).drainOutside)

/-- COMPLETION_WORD_WRITE: a launch with its final outcome writes STATUS [7:0], ATTEMPTS [15:8], VERSION [31:16] and TICKET [63:32] at
DONE, counts a commit, and is no more; while the store has to wait, as for a collapse of copies, it is made again (R74, R137, R183,
R193). -/
def CompletionRule : Prop :=
  ∀ s lid l st, s.launch? lid = some l → ((l.phase = .committed ∧ 4 ≤ l.released.length ∧ st = 0) ∨ (l.phase = .done ∧ l.status = some st)) →
    (s.doneAbsent l = false ∨ ∃ x, l.doneSince = some x ∧ x + (s.ctx l.ctx).faultLimit * 1000 ≤ s.time) →
    let r := s.writeDone l (w64 (st + (if l.lrec.ntxn then 0 else l.retries) * 256 + l.version * 65536 + l.ticket.getD 0 * 2 ^ 32))
    if r.ended = false then Next (.completionWordWrite lid) s r.s else Next (.completionWordWrite lid) s
      (let t := r.s
       let t := if st = 0 then t.modCtx l.ctx fun c => { c with commits := min 0xFFFFFFFF (c.commits + 1) } else t
       let t := (t.modStrm l.stream fun x => x.record l.seq st).unreserve lid
       { t with launches := t.launches.filter fun x => !(x.lid == lid) })

/-- COMPLETION_WORD_WRITE to a page that is not resident: the launch waits for Phobos to bring it in (R45, R137; that the time
begins at the first try is the model's choice, log 46). -/
def CompletionWaitsRule : Prop :=
  ∀ s lid l st, s.launch? lid = some l → ((l.phase = .committed ∧ 4 ≤ l.released.length ∧ st = 0) ∨ (l.phase = .done ∧ l.status = some st)) →
    s.doneAbsent l = true → l.doneSince = none →
    Next (.completionWordWrite lid) s (s.modLaunch l.lid fun x => { x with doneSince := some s.time })

/-- NOT_RESIDENT_RESOLVED of a core that is not stopped: the leaf takes the place of the stub of the completion word that waits
(R45, R137, log 46). -/
def CompletionPageRule : Prop :=
  ∀ s c leaf l, (s.core c).serving = none → s.launches.find? (fun x => x.doneSince.isSome && s.doneAbsent x) = some l →
    (let epa := (walkEnd s l.ctx l.lrec.doneWord.toNat 3 (s.ctx l.ctx).root).2
     s.readWord l.ctx epa &&& 7 = 6 →
     Next (.notResidentResolved c leaf) s ((s.deviceWord ioDie l.ctx epa leaf).modLaunch l.lid fun x => { x with doneSince := none }))

/-- The same for the page that a stream's head record waits for (R45, R181). -/
def StreamPageRule : Prop :=
  ∀ s c leaf x va since, (s.core c).serving = none → s.launches = [] → s.streams = [x] → x.absent = some (va, since) →
    let epa := (walkEnd s x.ctx va 3 (s.ctx x.ctx).root).2
    s.readWord x.ctx epa &&& 7 = 6 →
    Next (.notResidentResolved c leaf) s ((s.deviceWord ioDie x.ctx epa leaf).modStrm x.num fun y => { y with absent := none })

/-- CAPACITY_STALL_RELEASE: the write of the context that has stalled longest gets its overlay frame; an exchange of its part comes to its
end first (R131, R132). -/
def StallReleaseRule : Prop :=
  ∀ s ctx x l t, s.stalls.find? (fun y => y.ctx == ctx) = some x →
    (let r := ({ s with stalls := s.stalls.filter fun y => !(y == x) } : State)
     r.launch? x.lid = some l ∧ (if (r.part x.part).st = .migrating then r.exchangeNow x.part else r).newEntry l x.part = some t) →
    Next (.capacityStallRelease ctx) s t

/-- TXSTALL_EXPIRY: a write that has stalled for TXSTALL µs of global time aborts the attempt with 0x15 when there is no frame (R117,
R132, R448). -/
def TxstallRule : Prop :=
  ∀ s lid l x y m, s.launch? lid = some l → x ∈ s.stalls → x.lid = lid → x.since + l.lrec.txStall * 1000 ≤ s.time →
    s.stalls.find? (fun z => z.ctx == l.ctx) = some y → s.launch? y.lid = some m →
    ({ s with stalls := s.stalls.filter fun z => !(z == y) } : State).stallEntry m y.part = none →
    Next (.txstallExpiry lid) s (s.failLaunch lid 0x15)

/-- A frame that came free in time goes to the write, which proceeds. -/
def TxstallFrameRule : Prop :=
  ∀ s lid l x t, s.launch? lid = some l → s.stalls = [x] → x.lid = lid → x.ctx = l.ctx → x.since + l.lrec.txStall * 1000 ≤ s.time →
    ({ s with stalls := [] } : State).stallEntry l x.part = some t → Next (.txstallExpiry lid) s t

/-- FOLD: the oldest published entry of a part homed at the die, none of that part before it pending, goes to its base page (R130). -/
def FoldRule : Prop := ∀ s die o, s.foldable die = some o → Next (.fold die) s (s.foldEntry o)

/-- What a fold leaves of an entry without written bytes: its frame is free, its context uses one frame less, and memory is as it
was. -/
def FoldFrameRule : Prop :=
  ∀ (s : State) (o : Overlay) (f : Nat), o.frame = some f → o.bytes = [] → (s.foldEntry o).mem = s.mem ∧
    (s.foldEntry o).reserveUsed = (s.giveReserve f).reserveUsed ∧ ((s.foldEntry o).ctx o.ctx).used = (s.ctx o.ctx).used - 1

/-- What a fold writes: every byte that the entry has written takes its value in the base page, as the entry's context reads it in the
frame, and every other byte of memory keeps its own; no unit of the page is held under another key (R130). -/
def FoldBytesRule : Prop :=
  ∀ (s : State) (o : Overlay) (f : Nat), o.frame = some f → s.mem.wf = true →
    (∀ b ∈ o.bytes, s.sealedFor o.ctx ((o.part * 65536 + b) / 128) = false) →
    (∀ b ∈ o.bytes, (s.foldEntry o).mem.read (o.part * 65536 + b) = s.plainByte o.ctx (f + b)) ∧
    ∀ a, (∀ b ∈ o.bytes, a ≠ o.part * 65536 + b) → (s.foldEntry o).mem.read a = s.mem.read a

/-- ATTEMPT_ABORT: the attempt's frames return, its lines are dropped, an abort is counted; with a retryable status and retries left
it is queued again, otherwise it is done (R133 to R135). -/
def AbortRule : Prop :=
  ∀ s lid l st, s.launch? lid = some l → l.phase = .aborting → l.status = some st → l.lrec.ntxn = false →
    (∀ n, l.ticket = some n → ∀ x ∈ s.ticketsOut l.ctx, ∀ t, x.ticket = some t → t = n ∨ ticketLe t n = false) →
    ThenDrained (.attemptAbort lid) s fun t =>
      (∀ o ∈ t.overlays, o.lid ≠ lid) ∧
      ∃ x, t.launch? lid = some x ∧
        if 0x13 ≤ st ∧ st ≤ 0x17 ∧ l.retries < l.lrec.retry then
          x.phase = .queued ∧ x.retries = l.retries + 1 ∧ x.status = none ∧ x.ticket = none
        else x.phase = .done ∧ x.retries = l.retries ∧ x.status = some st

/-- An aborting attempt with a ticket waits while a lower one is outstanding (R124). -/
def AbortWaitsRule : Prop :=
  ∀ s lid l n x t, s.launch? lid = some l → l.phase = .aborting → l.ticket = some n → x ∈ s.ticketsOut l.ctx → x.ticket = some t →
    t ≠ n → ticketLe t n = true → Next (.attemptAbort lid) s s

/-- An aborting non-transactional launch is done with its status (R193). -/
def AbortNtxnRule : Prop :=
  ∀ s lid l, s.launch? lid = some l → l.phase = .aborting → l.lrec.ntxn = true → l.ticket = none →
    Then (.attemptAbort lid) s fun t => ∃ x, t.launch? lid = some x ∧ x.phase = .done ∧ x.status = l.status

end Sys2Proof.Claims
end

