-- ==== Sys2Proof/Claims/EvRemote.lean ====
section
/-!
DEFINITION. EvRemote: what the statements say of covered operations, packets, timers, incarnations and counters.
-/

namespace Sys2Proof.Claims

open Sys2Proof.Machine

/-! ### At the home (R142, R148, R149) -/

/-- A request packet, delivered within its lifetime, over the mesh or as the first of its virtual lane on its link, of an identity whose
reserved bits are 0, for the operation `body` of a die. -/
def Arrives (s : State) (pkt : Nat) (p : Packet) (stamp : Nat) (pred : Option Nat) (wm : Nat) (body : OpBody) (die : Nat) : Prop :=
  s.packets.find? (fun x => x.pid == pkt) = some p ∧ p.kind = .request stamp pred wm ∧ s.time ≤ p.sentAt + packetLife ∧
    s.deliverable p = true ∧ p.ref.ident < 2 ^ 30 ∧ s.holds = [] ∧ s.request? p.ref = some (body, die)

/-- The state after a request has been taken: its watermark retires results, and the packet is gone. -/
def taken (s : State) (p : Packet) (pkt wm : Nat) : State :=
  (s.retireBelow p.home p.slice p.ref.ident wm).dropPacket pkt

/-- COVERED_REQUEST with a stamp that is not the home's incarnation: it is not executed, and the answer is OUTCOME-UNKNOWN (R155). -/
def StaleRequestRule : Prop :=
  ∀ s pkt p stamp pred wm body die, Arrives s pkt p stamp pred wm body die → s.homeInc p.home ≠ some stamp →
    Next (.coveredRequest pkt) s (taken (s.reply p.home p.slice p.ref 0x40 0 false false) p pkt wm).drainOutside

/-- One whose identity has a reserved bit set is dropped (R142). -/
def ReservedRequestRule : Prop :=
  ∀ s pkt p stamp pred wm, s.packets.find? (fun x => x.pid == pkt) = some p → p.kind = .request stamp pred wm →
    s.time ≤ p.sentAt + packetLife → s.deliverable p = true → s.holds = [] → 2 ^ 30 ≤ p.ref.ident →
    Next (.coveredRequest pkt) s (s.dropPacket pkt).drainOutside

/-- A request whose result the slice holds: the result is sent again, and nothing is executed (R149). -/
def RepeatRule : Prop :=
  ∀ s pkt p stamp pred wm body die e, Arrives s pkt p stamp pred wm body die → s.homeInc p.home = some stamp →
    s.cached? p.home p.slice p.ref = some e →
    Next (.coveredRequest pkt) s (taken (s.reply p.home p.slice p.ref e.status e.val e.flag false) p pkt wm).drainOutside

/-- A request whose predecessor has not been executed is held, once (R148). -/
def HoldRule : Prop :=
  ∀ s pkt p stamp n wm body die, Arrives s pkt p stamp (some n) wm body die → s.homeInc p.home = some stamp →
    s.cached? p.home p.slice p.ref = none → s.queuedAtCounter p.ref = false →
    s.cached? p.home p.slice ⟨p.ref.ident, n⟩ = none → serialLater n wm = false →
    ThenDrained (.coveredRequest pkt) s fun t =>
      t.holds = [p] ∧ t.mem = s.mem ∧ t.packets = s.packets.filter (fun x => !(x.pid == pkt))

/-- A request of an operation that executes at once: the home performs it, keeps its result and answers (R149). -/
def ExecuteRule : Prop :=
  ∀ s pkt p stamp wm body die st v f u, Arrives s pkt p stamp none wm body die → s.homeInc p.home = some stamp →
    s.cached? p.home p.slice p.ref = none → s.queuedAtCounter p.ref = false → s.cacheRoom p.home p.slice = true →
    s.execBody p.ref body die = .answer st v f u → u.holds = [] →
    Next (.coveredRequest pkt) s (taken (u.answer p.home p.slice p.ref st v f) p pkt wm).drainOutside

/-- With no room in the slice's result cache the answer is BUSY and nothing is executed (R149). -/
def BusyRule : Prop :=
  ∀ s pkt p stamp wm body die, Arrives s pkt p stamp none wm body die → s.homeInc p.home = some stamp →
    s.cached? p.home p.slice p.ref = none → s.queuedAtCounter p.ref = false → s.cacheRoom p.home p.slice = false →
    Next (.coveredRequest pkt) s (taken (s.reply p.home p.slice p.ref 0 0 false true) p pkt wm).drainOutside

/-- The answer goes to a requester of this device as a packet, and to another device's over the fabric (R141, R419). -/
def ReplyRule : Prop :=
  ∀ (s : State) home slice (ref : OpRef) status v flag busy,
    (identDev ref.ident = s.plat.devNum → s.reply home slice ref status v flag busy =
      s.sendPacket ref home slice (.answer status v flag busy)) ∧
    (identDev ref.ident ≠ s.plat.devNum → (∀ o ∈ s.covOps, o.ref ≠ ref) → s.reply home slice ref status v flag busy =
      { s with log := s.log ++ [.peerAnswer ref status v flag busy] })

/-- The answer that is kept names the operation, its status, value and flag, and stays until a watermark passes it (R149). -/
def KeptRule : Prop :=
  ∀ (s : State) (home : HomeId) (slice : Nat) (ref : OpRef) (st : Nat) (v : W64) (f : Bool),
    s.cached? home slice ref = none →
    ∃ e, (s.answer home slice ref st v f).cached? home slice ref = some e ∧ e.status = st ∧ e.val = v ∧ e.flag = f ∧ e.retire = none

/-! ### At the requester (R151 to R153) -/

/-- A response packet delivered within its lifetime. -/
def Answered (s : State) (pkt : Nat) (p : Packet) (status : Nat) (v : W64) (f busy : Bool) : Prop :=
  s.packets.find? (fun x => x.pid == pkt) = some p ∧ p.kind = .answer status v f busy ∧ s.time ≤ p.sentAt + packetLife ∧
    s.deliverable p = true

/-- COVERED_RESPONSE to an operation that has its final response already changes nothing but the packets (R152). -/
def LateResponseRule : Prop :=
  ∀ s pkt p status v f busy, Answered s pkt p status v f busy → s.covOps.find? (fun x => x.ref == p.ref) = none →
    Next (.coveredResponse pkt) s (s.dropPacket pkt)

/-- A final response ends the operation with its status, and the slice is tracked (R151, R153). -/
def ResponseRule : Prop :=
  ∀ s pkt p status v f o w q h, Answered s pkt p status v f false → s.covOps.find? (fun x => x.ref == p.ref) = some o →
    o.body = .access q h → s.wg? q.g.wg = some w → w.out = false →
    Next (.coveredResponse pkt) s (((s.dropPacket pkt).endCovered o status v f).track o.ref.ident o.home o.slice).drainOutside

/-- BUSY: it is sent again 8 µs later (R152). -/
def BusyAnswerRule : Prop :=
  ∀ s pkt p status v f o w q h, Answered s pkt p status v f true → s.covOps.find? (fun x => x.ref == p.ref) = some o →
    o.body = .access q h → s.wg? q.g.wg = some w → w.out = false → o.st ≠ .quiet →
    Next (.coveredResponse pkt) s ((s.dropPacket pkt).modCov o.ref fun x =>
      { x with answered := true, due := if x.st == .quiet then x.due else s.time + 8000 })

/-- An outstanding operation of a resident group. -/
def Outstanding (s : State) (ref : OpRef) (o : CovOp) : Prop :=
  s.covOps.find? (fun x => x.ref == ref) = some o ∧ s.covParked o = false

/-- RETRANSMIT_TIMER: the operation is sent again with its own identity, serial and stamp; the interval doubles up to 1 ms (R152). -/
def RetransmitRule : Prop :=
  ∀ s ref o, Outstanding s ref o → o.st ≠ .quiet → o.due ≤ s.time →
    Next (.retransmitTimer ref) s ((s.modCov ref fun x =>
      { x with interval := min 1000000 (2 * o.interval), due := s.time + min 1000000 (2 * o.interval), lastSent := s.time }).transmit o)

/-- OPERATION_TIMEOUT: 100 ms after the first send it is sent no more (R152). -/
def TimeoutRule : Prop :=
  ∀ s ref o, Outstanding s ref o → o.st ≠ .quiet → o.firstSent + 100000000 ≤ s.time →
    Next (.operationTimeout ref) s (s.modCov ref fun x => { x with st := .quiet, due := x.lastSent + 1000000 })

/-- QUIET_EXPIRY: one packet lifetime after its last send it ends: OUTCOME-UNKNOWN when its home restarted, NOT-DONE when only BUSY
came back, UNREACHABLE otherwise (R152, R153, R160). -/
def QuietRule : Prop :=
  ∀ s ref o, Outstanding s ref o → o.st = .quiet → o.lastSent + 1000000 ≤ s.time →
    Next (.quietExpiry ref) s (s.endCovered o (if o.incCause then 0x40 else if o.answered then 0x42 else 0x41) 0 false)

/-- WATERMARK_NOTICE_TIMER: 16 µs after the last response from a slice the group sends it a notice and tracks it no more (R151). -/
def NoticeTimerRule : Prop :=
  ∀ s ident (home : SliceId) t,
    (s.trackedOf ident).find? (fun t => t.home.die == home.die && t.slice == home.slice && t.since + 16000 ≤ s.time) = some t →
    Next (.watermarkNoticeTimer ident home) s
      ((s.sendPacket ⟨ident, 0⟩ t.home t.slice (.notice (s.watermark ident))).setTracked ident
        ((s.trackedOf ident).filter fun x => !(x == t)))

/-- WATERMARK_NOTICE: the slice's results earlier than the watermark retire one packet lifetime later (R149). -/
def NoticeRule : Prop :=
  ∀ s pkt p wm, s.packets.find? (fun x => x.pid == pkt) = some p → p.kind = .notice wm → s.time ≤ p.sentAt + packetLife →
    s.deliverable p = true →
    Next (.watermarkNotice pkt) s
      { s with packets := s.packets.filter fun x => !(x.pid == pkt)
               results := s.results.map fun e =>
                 if e.home == p.home && e.slice == p.slice && e.ref.ident == p.ref.ident && serialLater e.ref.serial wm &&
                     e.retire.isNone then { e with retire := some (s.time + 1000000) } else e }

/-- RESULT_ENTRY_RETIRE: a result past its retirement time leaves the cache (R149). -/
def EntryRetireRule : Prop :=
  ∀ s (home : SliceId) ident serial e t, e ∈ s.results → e.home.die = home.die → e.slice = home.slice → e.ref = ⟨ident, serial⟩ →
    e.retire = some t → t ≤ s.time →
    Then (.resultEntryRetire home ident serial) s fun u => e ∉ u.results ∧
      ∀ x ∈ s.results, x.retire = none → x ∈ u.results

/-- PACKET_AGE_DROP: a packet older than 1 ms is gone (R141). -/
def AgeRule : Prop :=
  ∀ s pkt p, s.packets.find? (fun x => x.pid == pkt) = some p → p.sentAt + 1000000 < s.time →
    Next (.packetAgeDrop pkt) s { s with packets := s.packets.filter fun x => !(x.pid == pkt) }

/-! ### Restarts and incarnations (R154, R155) -/

/-- HOME_RESTART: the home's results and held requests are gone, its incarnation is the next one, 0 left out; memory and counters are
intact (R155, R172). -/
def HomeRestartRule : Prop :=
  ∀ s die n, die < 4 → s.incs[die]? = some n →
    Then (.homeRestart die) s fun t => t.incs[die]? = some (if (n + 1) % 2 ^ 16 = 0 then 1 else (n + 1) % 2 ^ 16) ∧
      (∀ e ∈ t.results, e.home ≠ ⟨s.plat.devNum, die⟩) ∧ (∀ p ∈ t.holds, p.home ≠ ⟨s.plat.devNum, die⟩) ∧
      t.mem = s.mem ∧ t.counters = s.counters

/-- INCARNATION_UPDATE: the die records it, and its outstanding operations to that home with another stamp turn QUIET with the cause
INCARNATION (R153, R155). -/
def IncarnationRule : Prop :=
  ∀ s die (home : HomeId) inc, die < 4 → home.device = s.plat.devNum → s.incs[home.die]? = some inc →
    Then (.incarnationUpdate die home inc) s fun t => t.incOf die home = some inc ∧
      ∀ o ∈ t.covOps, o.die = die → o.home = home → o.stamp ≠ inc → o.st = .quiet

/-- The same of a peer's home that has restarted, with a later incarnation: what this device keeps for that home is gone (R155). -/
def PeerIncarnationRule : Prop :=
  ∀ s die (home : HomeId) inc now, die < 4 → home.device ≠ s.plat.devNum → (s.incOf die home).isSome = true → s.homeInc home = some now →
    0 < inc → inc < 2 ^ 16 → inc ≠ now → serialLater now inc = true →
    Then (.incarnationUpdate die home inc) s fun t => t.incOf die home = some inc ∧ t.homeInc home = some inc ∧
      (∀ e ∈ t.results, e.home ≠ home) ∧ ∀ o ∈ t.covOps, o.die = die → o.home = home → o.stamp ≠ inc → o.st = .quiet

/-- ROUTING_BRING_UP: the route's mask is set, the ports of the mask are up, and every die knows the peer's incarnations (R154, R417). -/
def BringUpRule : Prop :=
  ∀ s peer ports a b c d, (∀ n ∈ [a, b, c, d], 1 ≤ n ∧ n < 2 ^ 16) → peer < 1024 → peer ≠ s.plat.devNum →
    (∀ x ∈ s.contexts, peer ∉ x.awaitPeers) →
    Then (.routingBringUp peer ports [a, b, c, d]) s fun t => (peer, ports % 2 ^ 18) ∈ t.routes ∧
      ∀ die, die < 4 → t.incOf die ⟨peer, 0⟩ = some a ∧ t.incOf die ⟨peer, 1⟩ = some b ∧ t.incOf die ⟨peer, 2⟩ = some c ∧
        t.incOf die ⟨peer, 3⟩ = some d

/-! ### Counters (R161 to R173) -/

/-- After the home has served a request, what waits at the dies of a counter that is LIVE is served. -/
def thenDies (u : State) (word ctx : Nat) : State :=
  if (u.counter? word).any (fun c => c.st == .live) then u.serveDies word ctx else u

/-- COUNTER_GRANT_REQUEST for a die whose need the reserve covers: the grant is the need, or the die's grant size when half the
reserve allows it, and never more than the reserve (R165). `t` is the state in which the counter's line is at hand. -/
def GrantRule : Prop :=
  ∀ s word c die n need a rest t, s.counter? word = some c → c.word = word → c.st = .live → c.round = 0 →
    c.waiting = .grant die n need a :: rest → need ≤ c.h → s.ctrLine c.ctx word die c.cached = (t, true) →
    Next (.counterGrantRequest word) s
      (let sd := ((c.die? die).map (·.sd)).getD (8 * c.g)
       let y := min c.h (max need (min sd (c.h / 2)))
       thenDies ((((t.countCtr word die).modCounter word (·.served)).setH word (c.h - y)).grantOut word die y a) word c.ctx)

/-- A take that waits at the home and fits the reserve succeeds (R173). -/
def HomeTakeRule : Prop :=
  ∀ s word c v b die a rest t, s.counter? word = some c → c.word = word → c.st = .live → c.round = 0 →
    c.waiting = .op .actake v b die a :: rest → v.toNat % 2 ^ 32 ≤ c.h → s.ctrLine c.ctx word die c.cached = (t, true) →
    Next (.counterGrantRequest word) s
      (thenDies ((((t.countCtr word die).setH word (c.h - v.toNat % 2 ^ 32)).modCounter word (·.served)).endForwarded a 0 1 true) word c.ctx)

/-- COUNTER_GRANT reaches the die: its free part grows, the asking core takes what it needs, and the take ends with 1 (R164); a recall
that waits for the grant finds what it has left at the core. -/
def TakeGrantRule : Prop :=
  ∀ s word die w y c a b u, s.takes.find? (fun x => x.word == word && x.die == die && x.granted.isSome) = some w →
    w.granted = some y → s.counter? word = some c → c.st ≠ .poisoned → s.roomDie word die = some a →
    a.roomCore word ⟨die, w.core⟩ = some b →
    let d := b.modCounter word fun c => c.modDie die fun d => { d with f := d.f + y }
    (d.pieceAt w.p).isSome = true → d.refillTake word ⟨die, w.core⟩ w.n w.since = some u →
    Next (.counterGrant word die) s
      (let x := (u.endTake w 0 1 true).modCounter word fun c => if c.round == 2 && (c.core? ⟨die, w.core⟩).isSome then
         { c with recallCores := addNew c.recallCores ⟨die, w.core⟩ } else c
       (x.spillDie word die).serveAt word die c.ctx)

/-- What the core takes of its die: the need, or its grant size when the free part allows it; the take is made from C (R164). -/
def RefillRule : Prop :=
  ∀ (s : State) word (k : CoreId) n since c a d, s.counter? word = some c → c.core? k = some a → c.die? k.die = some d →
    n ≤ a.c + d.f →
    let x := min d.f (max (n - a.c) a.sc)
    ∃ u c', s.refillTake word k n since = some u ∧ u.counter? word = some c' ∧ c'.allowance k + n = a.c + x ∧
      c'.freePart k.die + x = d.f ∧ c'.h = c.h

/-- COUNTER_RECALL of a die that recalls, no grant being on its way there: its free part goes home, its grant size is halved down to 8g
(R165, R166). -/
def RecallRule : Prop :=
  ∀ s word die c d, s.counter? word = some c → c.die? die = some d → die ∈ c.recallDies → s.grantComing word die = false →
    Next (.counterRecall word die none) s
      (((s.modCounter word fun c => { (if (c.die? die).isSome then
            c.modDie die fun d => { d with f := 0, sd := max (8 * c.g) (d.sd / 2) } else c) with
          recallDies := c.recallDies.filter fun x => !(x == die) }).homeward word die d.f none).serveAt word die c.ctx)

/-- The same of a core: its whole amount goes home, its grant size is halved down to g (R165, R170). -/
def RecallCoreRule : Prop :=
  ∀ s word die k c a, s.counter? word = some c → ⟨die, k⟩ ∈ c.recallCores → c.core? ⟨die, k⟩ = some a →
    s.grantComing word die = false →
    Next (.counterRecall word die (some k)) s
      ((s.modCounter word fun c => { (if (c.core? ⟨die, k⟩).isSome then
            c.modCore ⟨die, k⟩ fun a => { a with c := 0, sc := max c.g (a.sc / 2) } else c) with
          recallCores := c.recallCores.filter fun x => !(x == ⟨die, k⟩) }).homeward word die a.c none)

/-- COUNTER_RETURN: an amount on its way from the home's own die arrives: it is added to the reserve, at most 2^63 − 1 (R168). `t` is the
state in which the counter's line is at hand. -/
def ReturnRule : Prop :=
  ∀ s word c n rest t, s.counter? word = some c → c.inflight = ((s.homeOf word).1.die, n, none) :: rest →
    s.ctrLine c.ctx word (s.homeOf word).1.die c.cached = (t, true) →
    Next (.counterReturn word) s
      (((t.modCounter word fun c => { c with inflight := c.inflight.erase ((s.homeOf word).1.die, n, none) }).countCtr word
        (s.homeOf word).1.die).addH word n)

/-- From another die it goes as a covered operation of that die's allowance cache (R142, R169). -/
def ReturnSendRule : Prop :=
  ∀ s word c die n p rest stamp, s.counter? word = some c → c.inflight = (die, n, p) :: rest → die ≠ (s.homeOf word).1.die →
    s.windowOpen (s.cacheIdent c.ctx die) = true → s.incOf die (s.homeOf word).1 = some stamp →
    Next (.counterReturn word) s
      ((s.modCounter word fun c => { c with inflight := c.inflight.erase (die, n, p) }).sendCovered (s.cacheIdent c.ctx die) c.ctx die
        (s.homeOf word).1 (s.homeOf word).2 stamp (.giveBack word n p))

/-- The addition saturates, and says so (R168). -/
def SaturateRule : Prop :=
  ∀ (s : State) (word : Nat) (c : Counter) (n : Nat), s.counter? word = some c →
    ∃ x, (s.addH word n).counter? word = some x ∧ x.h = min (2 ^ 63 - 1) (c.h + n) ∧
      (2 ^ 63 - 1 < c.h + n → x.ovf = true) ∧ (c.h + n ≤ 2 ^ 63 - 1 → x.ovf = c.ovf)

/-- COUNTER_POISONED: the counter is POISONED; every take and give on it ends with 0x48 from now on (R172). -/
def PoisonRule : Prop :=
  ∀ s word c, s.counter? word = some c → c.waiting = [] →
    Then (.counterPoisoned word) s fun t => ∃ x, t.counter? word = some x ∧ x.st = .poisoned ∧ x.cores = [] ∧ x.dies = []

/-- A take of no amount ends with 1 wherever the counter is; one that the core's own allowance covers is served there (R163, R164). -/
def CoreTakeRule : Prop :=
  ∀ (s : State) (w : Workgroup) (g : Group) (h : HomeOp) (word n : Nat) (p : PieceRef) (c : Counter) (a : CoreAllow),
    s.counter? word = some c → c.st = .live → c.core? w.core = some a → n ≤ a.c → s.coreBusy word w.core = false →
    s.ctrTake w g h word n p = .ends 0 1 true (if n = 0 then s else
      s.modCounter word fun c => c.modCore w.core fun a => { a with c := a.c - n })

end Sys2Proof.Claims
end

