-- ==== Sys2Proof/Claims/EvHost.lean ====
section
/-!
DEFINITION. EvHost: what the statements say of the driver, the host, the peers, the links, and the platform.
-/

namespace Sys2Proof.Claims

open Sys2Proof.Machine

/-! ### Contexts (R12, R144, R423) -/

/-- CONTEXT_ENABLE of a context that nothing keeps from it: EN is 1, serial table and transaction descriptor stand at reset, STALLNS
is 0 (R12, R118, R144). -/
def EnableRule : Prop :=
  ∀ s ctx wrapped, ctx < Config.numContexts → s.plat.released = true → (s.ctx ctx).en = false → (s.ctx ctx).awaitSlices = [] →
    (s.ctx ctx).awaitPeers = [] → (s.ctx ctx).disabledAt = none → (∀ o ∈ s.overlays, o.ctx ≠ ctx) →
    Then (.contextEnable ctx wrapped) s fun t =>
      (t.ctx ctx).en = true ∧ (t.ctx ctx).serials = [] ∧ (t.ctx ctx).cTicket = 0 ∧ (t.ctx ctx).cVer = 0 ∧ (t.ctx ctx).nextVer = 1 ∧
        (t.ctx ctx).nextTicket = 1 ∧ (t.ctx ctx).stallNs = 0 ∧ (t.ctx ctx).root = (s.ctx ctx).root ∧ t.mem = s.mem

/-- While a home slice still owes its acknowledgement the write is held (R144). -/
def EnableHeldRule : Prop :=
  ∀ s ctx wrapped, ctx < Config.numContexts → s.plat.released = true → (s.ctx ctx).en = false → (s.ctx ctx).awaitSlices ≠ [] →
    Next (.contextEnable ctx wrapped) s (s.modCtx ctx fun c => { c with heldEn := some { wrapped := wrapped } })

/-- CONTEXT_ENABLE_TAKES_EFFECT: every slice and every peer has acknowledged, and 1 ms has passed since EN went to 0 (R144). -/
def HeldEnableRule : Prop :=
  ∀ s ctx h since, (s.ctx ctx).heldEn = some h → (s.ctx ctx).awaitSlices = [] → (s.ctx ctx).awaitPeers = [] →
    (s.ctx ctx).disabledAt = some since → since + 1000000 ≤ s.time →
    Next (.contextEnableTakesEffect ctx) s (s.enable ctx h.wrapped)

/-- Before that it does not. -/
def HeldEnableEarlyRule : Prop :=
  ∀ s ctx h since, (s.ctx ctx).heldEn = some h → (s.ctx ctx).disabledAt = some since → s.time < since + 1000000 →
    Next (.contextEnableTakesEffect ctx) s s

/-- CONTEXT_DISABLE of a context with work is refused: nothing but a held write of 1 is forgotten (R12, R144; that a launch whose
completion word is not written yet is work is log 47). -/
def DisableBusyRule : Prop :=
  ∀ s ctx, ctx < Config.numContexts → s.plat.released = true → s.hasWork ctx = true →
    Next (.contextDisable ctx) s (s.modCtx ctx fun c => { c with heldEn := none })

/-- Of one without: EN is 0, its translations are gone everywhere, and every slice of this device has to drop its entries (R12, R43,
R144). -/
def DisableRule : Prop :=
  ∀ s ctx, ctx < Config.numContexts → s.plat.released = true → s.hasWork ctx = false → (s.ctx ctx).en = true →
    (∀ c ∈ s.counters, c.ctx ≠ ctx) → (∀ x ∈ s.streams, x.ctx ≠ ctx) →
    Then (.contextDisable ctx) s fun t =>
      (t.ctx ctx).en = false ∧ (t.ctx ctx).disabledAt = some s.time ∧ (t.ctx ctx).spare = [] ∧
        (∀ c ∈ t.cores, (∀ b ∈ c.tb, b.ctx ≠ ctx) ∧ ∀ m ∈ c.misses, m.ctx ≠ ctx) ∧
        (∀ d n, d < 4 → n < Config.slicesPerDie → (⟨d, n⟩ : SliceId) ∈ (t.ctx ctx).awaitSlices) ∧ t.mem = s.mem

/-- DROP_COMMAND at a slice: its results and held requests of the context are gone, and it owes nothing more (R144). -/
def DropRule : Prop :=
  ∀ s ctx (x : SliceId), x ∈ (s.ctx ctx).awaitSlices →
    Then (.dropCommand ctx (.slice x)) s fun t => x ∉ (t.ctx ctx).awaitSlices ∧
      (∀ e ∈ t.results, e.home = ⟨s.plat.devNum, x.die⟩ → e.slice = x.slice → s.identIn ctx e.ref = false)

/-- A peer's drop command: the slices of this device forget what they keep for its context of that number, but for operations that wait
at counters (R144). -/
def PeerDropRule : Prop :=
  ∀ s ctx peer, Then (.dropCommand ctx (.fromPeer peer)) s fun t =>
    (∀ e ∈ t.results, e.home.device = s.plat.devNum → ¬ (identCtx e.ref.ident = ctx ∧ identDev e.ref.ident = peer)) ∧
    (∀ p ∈ t.holds, p.home.device = s.plat.devNum → ¬ (identCtx p.ref.ident = ctx ∧ identDev p.ref.ident = peer)) ∧ t.mem = s.mem

/-- DROP_ACK_TIMEOUT: a peer that is silent for 100 ms loses its route, and is given up until it acknowledges (R144). -/
def DropTimeoutRule : Prop :=
  ∀ s ctx peer since, peer ∈ (s.ctx ctx).awaitPeers → (s.ctx ctx).disabledAt = some since → since + 100000000 ≤ s.time →
    peer ∉ (s.ctx ctx).givenUp →
    Next (.dropAckTimeout ctx peer) s
      (({ s with routes := s.routes.filter fun x => !(x.1 == peer)
                 incTable := s.incTable.filter fun x => !(x.2.1.device == peer) } : State).modCtx ctx fun c =>
        { c with givenUp := addNew c.givenUp peer })

/-! ### Registers (R12, R175, R418, R420) -/

/-- REGISTER_WRITE: RINGBASE ignores writes while EN is 1, and takes bits [51:12] otherwise; FAULTLIMIT takes its 32 bits at any time;
QUOTA of the transaction descriptor too (R12, R118). -/
def RegisterRule : Prop :=
  (∀ s ctx v, ctx < Config.numContexts → s.plat.released = true →
    Next (.registerWrite .ctx ctx 4 v) s (s.modCtx ctx fun c => { c with faultLimit := v.toNat % 2 ^ 32 }) ∧
    Next (.registerWrite .txn ctx 1 v) s (s.modCtx ctx fun c => { c with quota := v.toNat % 2 ^ 32 }) ∧
    ((s.ctx ctx).en = true → Next (.registerWrite .ctx ctx 1 v) s s) ∧
    ((s.ctx ctx).en = false → Next (.registerWrite .ctx ctx 1 v) s
      (s.modCtx ctx fun c => { c with ringBase := v.toNat / 4096 % 2 ^ 40 * 4096 }))) ∧
  (∀ s ctx, Config.numContexts ≤ ctx → ∀ word v, Next (.registerWrite .ctx ctx word v) s s)

/-- An export entry whose V is 1 takes nothing but V (R418). -/
def ExportRule : Prop :=
  ∀ (e : ExportEntry) word v, e.v = true → (e.write word v) = if word = 0 then { e with v := v.getLsbD 0 } else e

/-- TIMEADJ adds to the correction that is slewed in; TIMESET sets the time only while every context is disabled, and otherwise
reports an error; a pulse measures the offset from the nearest second, which half way is the one before by log 31 (R420). -/
def ClockRule : Prop :=
  (∀ s v, Next (.timeadj v) s { s with plat := { s.plat with slew := s.plat.slew + v.toInt } }) ∧
  (∀ s v, (∀ c ∈ s.contexts, c.en = false) → Next (.timeset v) s { s with time := v.toNat }) ∧
  (∀ s v c, c ∈ s.contexts → c.en = true → Next (.timeset v) s { s with plat := { s.plat with tErr := true } }) ∧
  -- a pulse half way between two seconds counts as past the first: log 31
  (∀ s, let off : Int := if s.time % 1000000000 ≤ 500000000 then (s.time % 1000000000 : Nat) else (s.time % 1000000000 : Nat) - 1000000000
    Next (.ppsEdge off) s
      { s with plat := { s.plat with slew := s.plat.slew - off, holdover := false, lastPps := some s.time } }) ∧
  (∀ s, s.plat.lastPps.getD 0 + 2000000000 ≤ s.time → Next .holdover s { s with plat := { s.plat with holdover := true } })

/-! ### Commands (R43, R79, R407, R422, R424, R426) -/

/-- What a command leaves in the command block while it runs. -/
def running (c : CmdBlock) (op ctx : Nat) (result : Nat) : CmdBlock :=
  { c with op := op, ctx := ctx, busy := true, status := 0, result := result }

/-- INVALIDATE_VA_RANGE and INVALIDATE_CONTEXT: no buffer and no non-leaf cache holds a translation of the context that meets the
range; walks of it start again (R43). -/
def InvalidateRule : Prop :=
  ∀ s ctx addr len, s.plat.released = true → s.cmd.busy = false →
    (Then (.invalidateVaRange ctx addr len) s fun t => t.cmd = { running s.cmd 1 ctx 0 with addr := addr, len := len } ∧
      (∀ c ∈ t.cores, ∀ b ∈ c.tb, b.ctx = ctx → rangeMeets addr len b.base (2 ^ levelShift b.level) = false) ∧
      ∀ x ∈ t.walks, x.2.ctx = ctx → x.2.running = false) ∧
    Then (.invalidateContext ctx) s fun t => t.cmd = running s.cmd 2 ctx 0 ∧
      (∀ c ∈ t.cores, ∀ b ∈ c.tb, b.ctx ≠ ctx) ∧ ∀ x ∈ t.walks, x.2.ctx = ctx → x.2.running = false

/-- A command block that is busy starts no other command: STATUS says so (R426). -/
def BusyCommandRule : Prop :=
  ∀ s ctx addr len aux ws req, s.plat.released = true → s.cmd.busy = true →
    let t := { s with cmd := { s.cmd with status := 1 } }
    Next (.invalidateVaRange ctx addr len) s t ∧ Next (.invalidateContext ctx) s t ∧ Next (.freeFrameRange ctx addr len) s t ∧
      Next (.checkpoint ctx addr aux) s t ∧ Next (.debugStop ctx aux) s t ∧ Next (.debugResume ctx aux ws) s t ∧
      Next (.attest ctx addr req) s t

/-- FREE_FRAME_RANGE of whole frames below the reserve that hold no overlay entry and no live counter: they are freed (R79). -/
def FreeRule : Prop :=
  ∀ s ctx addr len, s.plat.released = true → s.cmd.busy = false →
    addr.toNat % 65536 = 0 → len.toNat % 65536 = 0 → 65536 ≤ len.toNat → addr.toNat + len.toNat ≤ Config.reserveBase →
    (∀ c ∈ s.counters, partOf c.word < addr.toNat / 65536 ∨ addr.toNat / 65536 + len.toNat / 65536 ≤ partOf c.word) →
    (∀ o ∈ s.overlays, o.part < addr.toNat / 65536 ∨ addr.toNat / 65536 + len.toNat / 65536 ≤ o.part) →
    Next (.freeFrameRange ctx addr len) s
      (let t := s.freeParts (addr.toNat / 65536) (len.toNat / 65536)
       { t with cmd := { running s.cmd 3 ctx 0 with addr := addr, len := len } })

/-- With a live counter in them the status is 3 and nothing is freed; misaligned, it is 4 (R79). -/
def FreeRefusedRule : Prop :=
  ∀ s ctx addr len, s.plat.released = true → s.cmd.busy = false →
    let t (r : Nat) : State := { s with cmd := { running s.cmd 3 ctx r with addr := addr, len := len } }
    (addr.toNat % 65536 ≠ 0 → Next (.freeFrameRange ctx addr len) s (t 4)) ∧
    (addr.toNat % 65536 = 0 → len.toNat % 65536 = 0 → 65536 ≤ len.toNat → addr.toNat + len.toNat ≤ Config.reserveBase →
      ∀ c, c ∈ s.counters → addr.toNat / 65536 ≤ partOf c.word → partOf c.word < addr.toNat / 65536 + len.toNat / 65536 →
        Next (.freeFrameRange ctx addr len) s (t 3))

/-- CHECKPOINT: the frames' stored bytes go to the host buffer one after the other; the closing record, the cut with the CTICKET of every
named context, the frame list and the digest, is signed; no byte below the host's is changed (R424; which contexts are named and the
layouts in the buffer and the record are log 31). -/
def CheckpointRule : Prop :=
  ∀ s ctx addr aux, s.plat.released = true → s.cmd.busy = false →
    Then (.checkpoint ctx addr aux) s fun t => t.cmd.busy = true ∧ t.cmd.op = 4 ∧ (∀ a, a < 2 ^ 50 → t.mem.read a = s.mem.read a) ∧
      ∃ frames, let cut := (namedContexts ctx aux).map fun c => (c, (s.ctx c).cTicket)
        let bytes := frames.flatMap fun f => (List.range 65536).map fun i => s.storedByte (f * 65536 + i)
        let record := (cut.flatMap fun x => natBytes 8 x.1 ++ natBytes 8 x.2) ++ frames.flatMap (natBytes 8) ++
          natBytes 48 (Config.sha384 bytes)
        t.mem = s.mem.writeBytes (2 ^ 50 + addr.toNat % 2 ^ 50) bytes ∧
        t.log = s.log ++ [.checkpointDone cut frames (Config.sha384 bytes) (Config.sign (Config.sha384 record))]

/-- What a debugger writes to a stopped group: a half of a scalar register, or a register lane, which is full from then on and takes no
landing value any more (R403, R405, R407; that the edits come with the resume is log 54). -/
def DebugWriteRule : Prop :=
  (∀ (g : Group) ws, Wait.debug ∈ g.waits → g.debugged ws = ws.foldl (fun g x => g.poke x.1 x.2) g) ∧
  ∀ (g : Group) v,
    (∀ i, i < 64 → g.poke (0x10100 + 8 * i) v = g.setS i (pair v (hi32 (g.s i))) ∧
      g.poke (0x10104 + 8 * i) v = g.setS i (pair (lo32 (g.s i)) v)) ∧
    ∀ l n, l < g.width → n < g.vregCount → n < 256 →
      (g.poke (0x12000 + 0x1000 * l + 4 * n) v = g.writeV l n v) ∧
      (∀ d ∈ (g.writeV l n v).deferred, d.lane ≠ l ∨ d.reg ≠ n)

/-- DEBUG_STOP names a resident group: it is asked to stop. DEBUG_RESUME: it goes on, interlocked, with what
the debugger wrote (R407; how AUX names the group is log 31, that a context with a stopped group has a debugger is log 3, that the
edits take effect at the resume log 54). -/
def DebugRule : Prop :=
  ∀ s ctx aux ws r, s.plat.released = true → s.cmd.busy = false → s.debugTarget ctx aux = some r →
      Next (.debugStop ctx aux) s
        (let u := (s.modGroup r fun x => { x with dbgReq := some 0 }).modCtx ctx fun c => { c with debugger := true }
         { u with cmd := { running s.cmd 5 ctx 0 with aux := aux } }) ∧
      Next (.debugResume ctx aux ws) s
        (let u := s.modGroup r fun x =>
           { ({ x.debugged ws with waits := (x.debugged ws).waits.filter fun y => !(y == .debug) } : Group).interlock with dbgReq := none }
         { u with cmd := { running s.cmd 6 ctx 0 with aux := aux } })

/-- No such group: status 4 (R407). -/
def DebugNoneRule : Prop :=
  ∀ s ctx aux ws, s.plat.released = true → s.cmd.busy = false → s.debugTarget ctx aux = none →
    Next (.debugStop ctx aux) s { s with cmd := { running s.cmd 5 ctx 4 with aux := aux } } ∧
    Next (.debugResume ctx aux ws) s { s with cmd := { running s.cmd 6 ctx 4 with aux := aux } }

/-- ATTEST: the report carries the nonce of 48 bytes, the measurements of 48 bytes each and the hashes that the named code objects have in
their headers, and every byte of it is signed (R422; the layout of the request and the order in the report are log 31). -/
def AttestRule : Prop :=
  ∀ s ctx addr (req : AttestReq) hs u, s.plat.released = true → s.cmd.busy = false → req.codes.length ≤ 64 →
    State.codeHashes ctx req.codes s = .ok (hs, u) →
    Then (.attest ctx addr req) s fun t => t.cmd = { running s.cmd 7 ctx 0 with addr := addr } ∧
      ∃ body : List (Nat × Nat), t.log = u.log ++ [.attestation (body.map (·.2))
          (Config.sign (Config.sha384 (body.flatMap fun x => natBytes x.1 x.2)))] ∧ (48, req.nonce) ∈ body ∧
        (∀ m ∈ u.plat.measured, (48, m) ∈ body) ∧ ∀ h ∈ hs, (8, h) ∈ body

/-- COMMAND_COMPLETE of a command: DONE with its status, and an interrupt; an invalidation first waits for the accesses that a dropped
entry may have translated, which is taken to map at most the 1 GiB around an address (R43, R426; log 60). -/
def CommandDoneRule : Prop :=
  ∀ s, s.cmd.busy = true →
    (s.cmd.op = 1 → s.accessesLeft s.cmd.ctx (fun va => rangeMeets s.cmd.addr s.cmd.len (va / 2 ^ 30 * 2 ^ 30) (2 ^ 30)) = false) →
    (s.cmd.op = 2 → s.accessesLeft s.cmd.ctx (fun _ => true) = false) →
    Next .commandComplete s
      { s with cmd := { s.cmd with busy := false, status := s.cmd.result }, irqs := s.irqs ++ [.command] }

/-- RECOVERY_IMAGE and FIRMWARE_BOOT while the dies are in reset: an image that is signed and not older than the fused minimum starts
them (R421). -/
def BootRule : Prop :=
  ∀ s (i : FwImage), s.plat.released = false → i.sigOk = true → s.plat.fwMin ≤ i.version →
    (Then (.firmwareBoot i) s fun t => t.plat.released = true ∧ t.plat.bootErr = false ∧
      t.plat.measured = s.plat.measured ++ [Config.sha384 i.bytes]) ∧
    (s.cmd.busy = false →
      Then (.recoveryImage i) s fun t => t.cmd.busy = true ∧ t.cmd.op = 8 ∧ t.cmd.result = 0 ∧ t.plat.released = true ∧
        t.plat.bootErr = false ∧ t.plat.measured = s.plat.measured ++ [Config.sha384 i.bytes])

/-- Another leaves them in reset with BOOTERR (R421). -/
def BootRefusedRule : Prop :=
  ∀ s (i : FwImage), s.plat.released = false → (i.sigOk = false ∨ i.version < s.plat.fwMin) →
    Next (.firmwareBoot i) s { s with plat := { s.plat with bootErr := true } } ∧
    (s.cmd.busy = false → Then (.recoveryImage i) s fun t => t.cmd.busy = true ∧ t.cmd.op = 8 ∧ t.cmd.result = 4 ∧
      t.plat = { s.plat with bootErr := true })

/-- The incarnations that boot gives every die (R154). -/
def BootIncsRule : Prop :=
  ∀ s, s.incs.length = 4 → ∀ d h, d < 4 → h < 4 → (State.fillIncs s).incOf d ⟨s.plat.devNum, h⟩ = s.incs[h]?

/-! ### Isolation (R413) -/

/-- MASTER_FREEZE: the violation is logged, the driver interrupted, and the master is frozen; a workgroup that a frozen engine or slot
has in hand is reported with 0x60 and its launch killed with 0x10. -/
def FreezeRule : Prop :=
  ∀ s, (∀ p, Next (.masterFreeze (.peer p)) s
      { s with log := s.log ++ [.violation (.peer p)], irqs := s.irqs ++ [.frozen (.peer p)], frozenPeers := addNew s.frozenPeers p }) ∧
    (∀ n, Then (.masterFreeze (.vf n)) s fun t => (t.vfs.find? (fun v => v.num == n)).map (·.frozen) = some true ∧ t.mem = s.mem) ∧
    (s.wgs = [] → ∀ c, Then (.masterFreeze (.copyEngine c)) s fun t => (t.core c).copyFrozen = true) ∧
    (s.wgs = [] → ∀ c n, Then (.masterFreeze (.slot c n)) s fun t => n ∈ (t.core c).slotsFrozen) ∧
    ∀ (m : Master) w l, s.wgs = [w] → w.out = false → w.retired = false → s.launch? w.lid = some l →
      let u := ({ s with log := s.log ++ [.violation m], irqs := s.irqs ++ [.frozen m] } : State)
      let gone (u : State) (cause : Nat) : State :=
        (u.sampleTime.2.report l.ctx (recordWords { precise 0x60 cause 7 with time := u.sampleTime.1 } l 0 w.num 0)).failLaunch l.lid 0x10
      (∀ c, m = .copyEngine c → w.core = c → (∃ g ∈ w.groups, ∃ x ∈ g.chans, x.jobs ≠ []) →
        Next (.masterFreeze m) s (gone (u.modCore c fun k => { k with copyFrozen := true }) 3)) ∧
      (∀ c n, m = .slot c n → w.core = c → (∃ g ∈ w.groups, g.slot = n) →
        Next (.masterFreeze m) s (gone (u.modCore c fun k => { k with slotsFrozen := addNew k.slotsFrozen n }) 4))

/-- Each reset ends its master's freeze: function-level reset, peer link reset, engine reset and slot reset (R413). -/
def UnfreezeRule : Prop :=
  ∀ s, (∀ n, Then (.functionLevelReset n) s fun t => ∀ v ∈ t.vfs, v.num = n → v.frozen = false) ∧
    (∀ p, Next (.peerLinkReset p) s { s with frozenPeers := s.frozenPeers.filter fun x => !(x == p) }) ∧
    (∀ c, (s.core c).copyFrozen = true → Next (.engineReset c) s (s.modCore c fun k => { k with copyFrozen := false })) ∧
    (∀ c n, n ∈ (s.core c).slotsFrozen → Then (.slotReset c n) s fun t => n ∉ (t.core c).slotsFrozen)

/-! ### Accesses from outside (R109, R415, R418, R423) -/

/-- HOST_ACCESS of a frozen function, or beyond the 64 functions, is answered as unsupported and does nothing else; one outside its
function's tenant set freezes the function (R413, R415; what the windows of a function hold is log 31). -/
def HostRefusedRule : Prop :=
  (∀ s vf a, (64 ≤ vf ∨ ((s.vfs.find? (fun v => v.num == vf)).map (·.frozen)) = some true) →
    Next (.hostAccess vf a) s { s with log := s.log ++ [.unsupported] }) ∧
  ∀ s vf v block index word, vf < 64 → s.vfs.find? (fun v => v.num == vf) = some v → v.frozen = false → s.plat.released = true →
    (block = .ctx ∨ block = .txn ∨ block = .ring) → index ∉ v.tenants →
    ∀ a, (a = .regRead block index word ∨ ∃ x, a = .regWrite block index word x) →
      Next (.hostAccess vf a) s ((s.freeze (.vf vf)).note .unsupported)

/-- One that its function admits is performed at the addresses that the context's tables give, after those of its function before it (log
48: a source's accesses wait in one queue); a read of a register of a context of its tenant set answers with its word, and a write takes
effect (R109, R415; that the aperture begins at virtual address 0, and what the windows of a function hold, is log 31). -/
def HostRule : Prop :=
  ∀ s vf v, vf < 64 → s.vfs.find? (fun v => v.num == vf) = some v → v.frozen = false → s.plat.released = true →
    (∀ (a : ExtAccess) pas t, a.addr + extLen a.kind ≤ 2 ^ 36 → v.apctx ∈ v.tenants → (s.ctx v.apctx).en = true →
      hostKind a.kind = true → State.aperture v.apctx a.addr (extWrites a.kind) (extLen a.kind) s = .ok (pas, t) →
      Next (.hostAccess vf (.aperture a)) s
        (t.extAccess { src := .vf vf, ctx := some v.apctx, pas := pas, kind := a.kind, head := none })) ∧
    ∀ index word, index < Config.numContexts → index ∈ v.tenants →
      Next (.hostAccess vf (.regRead .ctx index word)) s
        { s with log := s.log ++ [.readReply (natBytes 8 ((s.ctx index).word word).toNat)] } ∧
      ∀ x, Next (.hostAccess vf (.regWrite .ctx index word x)) s (s.writeCtx index word x)

/-- A peer's access that no export entry admits, or above local memory, freezes the peer, which is told; a frozen peer's is dropped (R413,
R418). -/
def PeerRefusedRule : Prop :=
  ∀ s peer seq (a : ExtAccess), s.plat.released = true →
    (peer ∈ s.frozenPeers → Next (.peerRequest peer (.access seq a)) s s) ∧
    (peer ∉ s.frozenPeers → s.admitted peer a = false →
      Next (.peerRequest peer (.access seq a)) s
        { s with log := s.log ++ [.violation (.peer peer), .refusedPeer peer], irqs := s.irqs ++ [.frozen (.peer peer)]
                 frozenPeers := addNew s.frozenPeers peer })

/-- PEER_REQUEST: one that an export entry admits is performed, after those of its peer before it; a posted write that has come before is
a copy, and is discarded; a covered one goes to its home slice with its identity, and a notice too (R109, R139, R151, R417, R419). -/
def PeerRule : Prop :=
  ∀ s peer (a : ExtAccess), s.plat.released = true → peer ∉ s.frozenPeers →
    let x (h : Option CovHead) : ExtWait :=
      { src := .peer peer, ctx := none, pas := (List.range (extLen a.kind)).map (a.addr + ·), kind := a.kind, head := h }
    (s.exports.any (fun e => e.admits peer a) = true → a.addr + extLen a.kind ≤ Config.localBytes →
      Next (.peerRequest peer (.access none a)) s (s.extAccess (x none)) ∧
      (∀ n, s.peerSeq peer ≤ n → Next (.peerRequest peer (.access (some n) a)) s
        (({ s with peerSeqs := s.peerSeqs.filter (fun y => !(y.1 == peer)) ++ [(peer, n + 1)] } : State).extAccess (x none))) ∧
      (∀ n, n < s.peerSeq peer → Next (.peerRequest peer (.access (some n) a)) s s) ∧
      ∀ h, Next (.peerRequest peer (.covered h a)) s (s.extAccess (x (some h)))) ∧
    ∀ ident wm (home : SliceId), Next (.peerRequest peer (.notice ident wm home)) s
      (s.sendPacket ⟨ident, 0⟩ ⟨s.plat.devNum, home.die⟩ home.slice (.notice wm))

/-- An access from outside with none before it in its queue that need not wait is performed at once, and a read is answered; one that
must wait stays (R109; the queue is log 48). -/
def ExtAccessRule : Prop :=
  ∀ (s : State) (x : ExtWait), s.extQueue = [] → x.head = none →
    (∀ st answer flag t, ({ s with extQueue := [x] } : State).extDo x = .done st answer flag t → t.extQueue = [x] →
      s.extAccess x = { (if answer = [] then t else { t with log := t.log ++ [.readReply answer] }) with extQueue := [] }) ∧
    ∀ t, ({ s with extQueue := [x] } : State).extDo x = .wait t → s.extAccess x = t

/-- What an admitted write does where nothing is in its way: its bytes stand where they were written, and no other byte moves. -/
def ExtWriteRule : Prop :=
  ∀ s pa (b : Byte) src, MemOk s → s.parts = [] → s.overlays = [] → s.counters = [] → s.units = [] → s.leafWalks = [] →
    s.rawUnits = [] → s.unitKeys = [] → s.wgs = [] → s.regions = [] → s.regionInvals = [] → s.extQueue = [] → src ≠ .cxlMem → pa < Config.reserveBase →
    let t := s.extAccess { src := src, ctx := none, pas := [pa], kind := .write [b], head := none }
    t.mem.read pa = b ∧ ∀ x, x ≠ pa → t.mem.read x = s.mem.read x

/-- CXL_MEM_ACCESS above local memory is unsupported; a read answers with the bytes as they are stored (R423). -/
def CxlRule : Prop :=
  ∀ s (a : ExtAccess), s.plat.released = true →
    (Config.reserveBase < a.addr + extLen a.kind → Next (.cxlMemAccess a) s { s with log := s.log ++ [.unsupported] }) ∧
    (∀ n, a.kind = .read n → 0 < n → a.addr + n ≤ Config.reserveBase → s.overlays = [] → s.extQueue = [] → s.early = [] →
      Then (.cxlMemAccess a) s fun t => t.mem = s.mem ∧
        t.log = s.log ++ [.readReply ((List.range n).map fun i => s.storedByte (a.addr + i))])

/-! ### Links (R416, R417) -/

/-- LINK_PORT_FAILURE of a port that is up: it is down; no packet of this device's own homes is lost. -/
def PortFailureRule : Prop :=
  ∀ s port, s.ports.any (fun p => p.num == port && p.up) = true →
    Then (.linkPortFailure (.port port)) s fun t => (∀ p ∈ t.ports, p.num = port → p.up = false) ∧
      (∀ p ∈ s.packets, p.home.device = s.plat.devNum → (∀ q ∈ s.packets, q.pid = p.pid → q = p) → p ∈ t.packets) ∧ t.mem = s.mem

/-- A path of the mesh that fails over loses or doubles packets of this device's own homes only (R141; the event is the model's, log
66). -/
def MeshFailureRule : Prop :=
  ∀ s, Then (.linkPortFailure .mesh) s fun t => t.ports = s.ports ∧ t.mem = s.mem ∧
    ∀ p ∈ s.packets, p.home.device ≠ s.plat.devNum → (∀ q ∈ s.packets, q.pid = p.pid → q = p) → p ∈ t.packets

/-- FLIT_REPLAY: every flit is delivered once all the same; the replay is counted. -/
def ReplayRule : Prop :=
  ∀ s port, Next (.flitReplay port) s
    { s with ports := s.ports.map fun p => if p.num == port && p.up then { p with replays := p.replays + 1 } else p }

/-- LINK_FLOW_CONTROL: stop at 16 free buffers of a virtual lane, go at 32, and between them as it was (R416). -/
def FlowRule : Prop :=
  ∀ s port vl free, vl < 4 →
    Then (.linkFlowControl port vl free) s fun t =>
      t.ports.length = s.ports.length ∧
      (free ≤ 16 → ∀ p ∈ t.ports, p.num = port → p.up = true → vl ∈ p.stop) ∧
      (32 ≤ free → ∀ p ∈ t.ports, p.num = port → p.up = true → vl ∉ p.stop) ∧
      (16 < free → free < 32 → t.ports = s.ports)

/-! ### Platform (R155, R199, R421, R427) -/

/-- DEVICE_RESET after a partition restarts every home and leaves memory and counters (R155). -/
def PartitionRule : Prop :=
  ∀ s, s.incs.length = 4 → Then (.deviceReset true) s fun t => t.mem = s.mem ∧ t.counters = s.counters ∧
    t.incs = s.incs.map (fun n => if (n + 1) % 2 ^ 16 = 0 then 1 else (n + 1) % 2 ^ 16) ∧
    ∀ e ∈ t.results, e.home.device = s.plat.devNum → 4 ≤ e.home.die

/-- DEVICE_RESET of the device: every context, stream and launch is at its reset value; that the incarnations count on is log 32
(R155). -/
def ResetRule : Prop :=
  ∀ s, Then (.deviceReset false) s fun t => t.contexts = [] ∧ t.streams = [] ∧ t.launches = [] ∧ t.wgs = [] ∧ t.covOps = [] ∧
    t.results = [] ∧ t.plat.released = false ∧ t.incs = s.incs.map (fun n => if (n + 1) % 2 ^ 16 = 0 then 1 else (n + 1) % 2 ^ 16)

/-- POWER_GATING and THERMAL_LIMIT: the level of gating has 16 values, and rises while the power is above the cap; at 95 °C it is raised,
at 110 °C every launch is killed with 0x11 and the dies halt (R199, R427). -/
def ThermalRule : Prop :=
  (∀ s level power, power % 2 ^ 32 ≤ s.plat.pcap ∨ min 15 (s.plat.gate + 1) ≤ level → Next (.powerGating level power) s
    { s with plat := { s.plat with gate := min 15 level, power := power % 2 ^ 32 } }) ∧
  (∀ s level power, s.plat.pcap < power % 2 ^ 32 → level < min 15 (s.plat.gate + 1) → Next (.powerGating level power) s s) ∧
  (∀ s c, c < 95 → Next (.thermalLimit c) s { s with plat := { s.plat with celsius := c } }) ∧
  (∀ s c, 95 ≤ c → c < 110 → Next (.thermalLimit c) s
    { s with plat := { s.plat with celsius := c, gate := min 15 (s.plat.gate + 1) } }) ∧
  (∀ s c, 110 ≤ c → s.launches = [] → Next (.thermalLimit c) s { s with plat := { s.plat with celsius := c, halted := true } }) ∧
  (∀ s c, 110 ≤ c → Next (.thermalLimit c) s
    (let t := s.launches.foldl (fun t l => t.failLaunch l.lid 0x11) { s with plat := { s.plat with celsius := c } }
     { t with plat := { t.plat with halted := true } })) ∧
  ∀ (s : State) l, s.launches = [l] → s.wgs = [] → l.phase = .queued ∨ l.phase = .running ∨ l.phase = .ended →
    (s.failLaunch l.lid 0x11).launches = [{ l with phase := .aborting, status := some 0x11 }] ∧
      ∀ o ∈ (s.failLaunch l.lid 0x11).overlays, o.lid = l.lid → o.discarded = true

end Sys2Proof.Claims
end

