-- ==== Sys2Proof/Claims/Machine.lean ====
section
/-!
DEFINITION. Machine: what the statements say of the step, of fetching, of what a source delivers, of bundles of several moves, of
memory, and of what lone moves leave alone.
-/

namespace Sys2Proof.Claims

open Sys2Proof.Machine

/-! ### The step (log 1) -/

/-- When the bytes at the leader's program counter are the bundle of one move whose word decodes to an instruction, and it is the
turn of issue, the step is the execution of that instruction in the state after the step's nanosecond and the fetch, whenever the
instruction issues there. Groups that co-issue the bundle make it in the same step, in ascending group entry (R192, R359; log 68), and
where there are none the step is the execution alone. -/
def StepIssues : Prop :=
  ∀ (s t : State) (w : Workgroup) (g : Group) (rest : List (Workgroup × Group)) (l : Launch) (who : Who) (word : W32) (i : Instr)
    (u : State),
    s.agenda = [] → s.clock % 2 = 0 → firstTry (phaseTries (s.pass 1)) (s.pass 1) = none →
    (s.pass 1).order = (w, g) :: rest → (s.pass 1).wg? w.wid = some w → (s.pass 1).group? (refOf w g) = some g →
    (s.pass 1).launchOf? (refOf w g) = some l → (s.pass 1).who? (refOf w g) = some who → (s.pass 1).candidate w g = true →
    stopHere w g = none → g.pad = 0 →
    (s.pass 1).fetch who l g.pc = .bundle (loneBundle word) (loneWords word) (4 * (loneWords word).length) t →
    decodeMove word = .ok i → Leads t w g l who → issueLone t w g word = .done u →
    exec i t = .next u ∧
      (let mates := beside trigTable (loneBundle word) (loneWords word) (4 * (loneWords word).length) t ((s.pass 1).mates w g)
         [(g.col, g.col + g.width)]
       (mates = [] → step s = exec i t) ∧
       (mates ≠ [] → step s = .next (coIssue trigTable (loneBundle word) (loneWords word) (4 * (loneWords word).length)
         (sortBy (fun (y : Workgroup × Group) => y.2.entry) ((w, g) :: mates)) t))) ∧
      ((s.pass 1).mates w g = [] → step s = exec i t)

/-- With an agenda, the step is the execution of its first entry in the state in which that entry's time has passed. -/
def StepAgenda : Prop :=
  ∀ (s : State) (x : Sched) (rest : List Sched), s.agenda = x :: rest →
    step s = exec x.ev (({ s with agenda := rest } : State).pass x.dt)

/-! ### Fetch (R211) -/

/-- A word of the text whose page is in the buffers, whose line is not in the code cache, and whose fill does not wait for a commit:
the little-endian word of memory, once the leaf shows A; no byte of memory changes but for that. -/
def FetchWordRule : Prop :=
  ∀ (s : State) (w : Who) (va pa : Nat) (c : OrdKind) (tp m : Bool) (e : Option TbEntry) (k : Nat) (u : State),
    s.translate w 0 va 4 .fetch = .ok (.phys pa c tp m) e → pa % 128 = 4 * k → k < 32 →
    let t := s.touch w e false
    (∀ x ∈ (t.core w.core).code, x.line ≠ pa / 128) → t.fillRead w.core w.ctx (pa / 128 * 128) m = (u, true) →
    ∃ got v, fetchWords w va 1 none s = .ok [w32 (bytesNat (t.readPhys none w.ctx pa 4))] got v ∧ v.mem = t.mem

/-! ### What a source delivers (R214 to R216) -/

/-- What a move with these fields, this destination and this value of its extension words reads in lane l. -/
def reads (g : Group) (m : Mv) (dest : BitVec 12) (ext : W64) (l : Nat) : LaneVal :=
  srcLane g { bus := 0, word := mvWord m dest, ext := ext, guard := 0, rep := false } 0 l

/-- A SRC field of a register: bank, P, index (R214). -/
def regSrc (bank : BitVec 2) (p : Bool) (i : BitVec 7) : BitVec 13 := (0 : BitVec 2) ++ bank ++ (0 : BitVec 1) ++ BitVec.ofBool p ++ i
/-- A SRC field of a result port: unit, r or rb, P (R214). -/
def portSrc (unit : BitVec 5) (rb p : Bool) : BitVec 13 :=
  (1 : BitVec 2) ++ unit ++ (0 : BitVec 1) ++ BitVec.ofBool rb ++ BitVec.ofBool p ++ (0 : BitVec 3)
/-- A SRC field of an extension word: index, kind (R214, R215). -/
def extSrc (i kind : BitVec 2) : BitVec 13 := (3 : BitVec 2) ++ i ++ kind ++ (0 : BitVec 7)

/-- Does the destination take 32 bits of an immediate: is it a vector register? -/
def toVector (dest : BitVec 12) : Bool := dest.toNat < 256

/-- Registers, the result ports of the fixed-latency units and of sy, and immediates (R214, R215, R331); a register read that finds an
uncorrectable error delivers 0 and poison (R408). -/
def SourceRule : Prop :=
  ∀ (g : Group) (m : Mv) (dest : BitVec 12) (ext : W64) (l : Nat),
    (∃ d, decodeDest dest = .ok d) → l < 64 →
    (∀ (b : BitVec 1) (i : BitVec 7), m.s = regSrc ((0 : BitVec 1) ++ b) false i →
      let bad := g.vBad l (128 * b.toNat + i.toNat)
      reads g m dest ext l =
        ⟨if bad = true then 0 else w64 (g.v l (128 * b.toNat + i.toNat)).toNat, g.vFull l (128 * b.toNat + i.toNat), bad⟩) ∧
    (∀ (b : BitVec 1) (i : BitVec 7), m.s = regSrc ((0 : BitVec 1) ++ b) true i →
      let bad := g.vBad l (128 * b.toNat + i.toNat) || g.vBad l (128 * b.toNat + i.toNat + 1)
      reads g m dest ext l =
        ⟨if bad = true then 0
         else w64 ((g.v l (128 * b.toNat + i.toNat)).toNat + 2 ^ 32 * (g.v l (128 * b.toNat + i.toNat + 1)).toNat),
         g.vFull l (128 * b.toNat + i.toNat) && g.vFull l (128 * b.toNat + i.toNat + 1), bad⟩) ∧
    (∀ (p : Bool) (i : BitVec 7), m.s = regSrc 2 p i → i.toNat < 80 →
      let x := if i.toNat < 64 then g.s i.toNat else g.k (i.toNat - 64)
      let bad := if i.toNat < 64 then g.sbad.contains i.toNat else g.kbad.contains (i.toNat - 64)
      reads g m dest ext l = if bad = true then ⟨0, true, true⟩ else .of (if p then x else w64 (x.toNat % 2 ^ 32))) ∧
    (∀ (u : BitVec 5) (rb p : Bool), m.s = portSrc u rb p → (4 ≤ u.toNat ∧ u.toNat ≤ 0x0B) ∨ u.toNat = 0x12 ∨ u.toNat = 0x13 →
      reads g m dest ext l =
        .of (if p then g.res l u.toNat rb else w64 ((g.res l u.toNat rb).toNat % 2 ^ 32))) ∧
    (∀ i : BitVec 11, m.s = (2 : BitVec 2) ++ i →
      reads g m dest ext l = .of (if toVector dest then w64 (i.toInt % 2 ^ 32).toNat else w64 (i.toInt % 2 ^ 64).toNat)) ∧
    (∀ i, m.s = extSrc i 0 →
      reads g m dest ext l =
        .of (if toVector dest then w64 (ext.toNat % 2 ^ 32) else w64 ((lo32 ext).toInt % 2 ^ 64).toNat)) ∧
    (∀ i, m.s = extSrc i 1 → reads g m dest ext l = .of (w64 (ext.toNat % 2 ^ 32))) ∧
    (∀ i, m.s = extSrc i 3 → reads g m dest ext l = .of ext)

/-- Queued ports deliver their head entry, and the unqueued variable-latency ports, am.rb among them, what landed last; a lane that has
not landed is empty (R206, R307). -/
def PortRule : Prop :=
  ∀ (g : Group) (m : Mv) (dest : BitVec 12) (ext : W64) (l : Nat) (p : Bool),
    (∀ u q, (u, q) ∈ [((0x0C : BitVec 5), RPort.ld), (0x0E, .q0), (0x10, .am)] → m.s = portSrc u false p →
      (∀ e rest, g.entries q = e :: rest →
        let v := e.vals[l]?.getD 0
        reads g m dest ext l = ⟨if p then v else w64 (v.toNat % 2 ^ 32), e.full.getLsbD l, e.poison.getLsbD l⟩) ∧
      (g.entries q = [] → (reads g m dest ext l).full = false)) ∧
    (∀ u full, (u, full) ∈ [((0x0D : BitVec 5), g.cpFull), (0x0F, g.mxFull), (0x11, g.xeFull)] → m.s = portSrc u false p →
      let v := g.res l u.toNat false
      reads g m dest ext l = ⟨if p then v else w64 (v.toNat % 2 ^ 32), full.getLsbD l, false⟩) ∧
    (m.s = portSrc 0x10 true p →
      let v := g.res l 0x10 true
      reads g m dest ext l = ⟨if p then v else w64 (v.toNat % 2 ^ 32), g.amrbFull.getLsbD l, false⟩)

/-- A cross-lane word (R216). -/
def crossWord (fillV : BitVec 10) (fill : BitVec 2) (arg : BitVec 8) (p : Bool) (mode : BitVec 3) (reg : BitVec 8) : W64 :=
  (0 : BitVec 32) ++ fillV ++ fill ++ arg ++ BitVec.ofBool p ++ mode ++ reg

/-- A register or a pair of a lane; 0 where its read finds an uncorrectable error (R408). -/
def regOf (g : Group) (l n : Nat) (p : Bool) : W64 :=
  if g.vBad l n = true ∨ p = true ∧ g.vBad l (n + 1) = true then 0
  else w64 ((g.v l n).toNat + (if p then 2 ^ 32 * (g.v l (n + 1)).toNat else 0))

/-- The lane that is read, as R216 computes it. -/
def crossTarget (g : Group) (arg : BitVec 8) (mode : BitVec 3) (l : Nat) : Int :=
  match mode.toNat with
  | 0 => (g.v l arg.toNat).toNat
  | 1 => Nat.xor l arg.toNat
  | 2 => ((l + arg.toNat) % g.width : Nat)
  | 3 => l - arg.toNat
  | 4 => l + arg.toNat
  | _ => arg.toNat

/-- A cross-lane read takes its register from the lane it selects, and the fill where that lane is outside the group (R216). -/
def CrossRule : Prop :=
  ∀ (g : Group) (m : Mv) (dest : BitVec 12) (fillV : BitVec 10) (fill : BitVec 2) (arg : BitVec 8) (p : Bool) (mode : BitVec 3)
    (reg : BitVec 8) (i : BitVec 2) (l : Nat), m.s = extSrc i 2 → mode.toNat ≤ 5 → (mode ≠ 0 → arg.toNat < 64) → 0 < g.width →
    (mode = 0 → g.vBad l arg.toNat = false) →
    let j := crossTarget g arg mode l
    (reads g m dest (crossWord fillV fill arg p mode reg) l).val =
      if j < 0 ∨ g.width ≤ j then
        match fill.toNat with
        | 0 => 0
        | 1 => if p then w64 (2 ^ 64 - 1) else w64 (2 ^ 32 - 1)
        | 2 => regOf g l reg.toNat p
        | _ => if p then w64 (fillV.toInt % 2 ^ 64).toNat else w64 (fillV.toInt % 2 ^ 32).toNat
      else regOf g j.toNat reg.toNat p

/-! ### Results become visible (R208) -/

/-- The group after n issues of its own in which nothing is triggered. -/
def issues : Nat → Group → Group
  | 0, g => g
  | n + 1, g => issues n g.advance

/-- A result staged with latency n + 1 is read from its port from the (n + 1)th issue on, in its lanes; at every issue before, and in
every other lane, the port reads as it did (R208). -/
def VisibleRule : Prop :=
  ∀ (g : Group) (u n : Nat) (lanes : Mask) (vals : List W64) (old : Bool) (l : Nat),
    u ∈ [4, 5, 6, 7, 8, 9, 0x0A, 0x0B, 0x11, 0x12, 0x13] → g.staged = [{ unit := u, rem := n + 1, lanes := lanes, r := some vals, rb := none, old := old }] →
    (∀ x ∈ g.lanes, x.res.length = 19) → l < g.width →
    (∀ k, k ≤ n → (issues k g).res l u false = g.res l u false) ∧
      (issues (n + 1) g).res l u false = (if lanes.getLsbD l then vals[l]?.getD 0 else g.res l u false) ∧
      (∀ k, (issues k g).res l u true = g.res l u true) ∧ ∀ k v rb, v ≠ u →
        (issues k g).res l v rb = g.res l v rb

/-! ### All sources are read before any destination is written (R221) -/

/-- A move between vector registers of the lower bank, with no guard. -/
def copyMove (from_ : BitVec 7) : Mv := { g := false, k := 0, n := false, h := false, e := false, s := regSrc 0 false from_ }

/-- The bundle that exchanges two vector registers: bus 0 moves b to a, bus 1 moves a to b. -/
def swapBundle (a b : BitVec 7) : Bundle where
  header := { present := 3, extn := 0, pad := 0, clrhold := false, region := 0 }
  moves := [(0, mvWord (copyMove b) ((0 : BitVec 5) ++ a)), (1, mvWord (copyMove a) ((0 : BitVec 5) ++ b))]
  ext := []

/-- A bundle that exchanges two registers does: both sources are read before either destination is written. -/
def SwapRule : Prop :=
  ∀ s r w g l who (a b : BitVec 7) ws t, Issues s r w g l who → s.mates w g = [] → g.handler = false → g.loop.active = false → g.latches = noLatches →
    g.target = none → regOpen g.check = false → psn g.check = false →
    s.fetch who l g.pc = .bundle (swapBundle a b) ws 12 t → t.group? r = some g →
    a ≠ b → a.toNat < g.vregCount → b.toNat < g.vregCount →
    (∀ k, k < g.width → ∃ x, g.lane? k = some x ∧ a.toNat < x.vregs.length ∧ a.toNat < x.vfull.length ∧ b.toNat < x.vregs.length ∧
      b.toNat < x.vfull.length ∧ g.vFull k a.toNat = true ∧ g.vFull k b.toNat = true ∧ g.vBad k a.toNat = false ∧
      g.vBad k b.toNat = false) →
    ∃ u x, Next (.bundleIssue r) s u ∧ u.group? r = some x ∧
      ∀ k, k < g.width →
        x.v k a.toNat = (if g.k0.getLsbD k then g.v k b.toNat else g.v k a.toNat) ∧
        x.v k b.toNat = if g.k0.getLsbD k then g.v k a.toNat else g.v k b.toNat

/-! ### Memory (log 4) -/

/-- A write is read back, leaves every other byte alone, and keeps the canonical form; so does zeroing a range. -/
def MemoryRule : Prop :=
  ∀ (m : Memory), m.wf = true →
    (∀ a b, (m.write a b).wf = true ∧ ∀ x, (m.write a b).read x = if x = a then b else m.read x) ∧
    (∀ a bs, (m.writeBytes a bs).wf = true ∧
      ∀ x, (m.writeBytes a bs).read x = if a ≤ x ∧ x < a + bs.length then bs[x - a]?.getD 0 else m.read x) ∧
    (∀ a n v, v < 256 ^ n → (m.writeNat a n v).readNat a n = v) ∧
    (∀ a len, (m.zero a len).wf = true ∧ ∀ x, (m.zero a len).read x = if a ≤ x ∧ x < a + len then 0 else m.read x)

/-- Equal contents are equal data: two canonical memories that read alike are one. -/
def CanonicalRule : Prop :=
  ∀ m n : Memory, m.wf = true → n.wf = true → (∀ a, m.read a = n.read a) → m = n

/-- A write of committed state through physical addresses: each byte stands where R122 puts it, and no other byte moves, where no data unit
of them is held as CXL.mem or another key left it, which would be stored anew (R423). -/
def PhysWriteRule : Prop :=
  ∀ (s : State) (ctx pa : Nat) (bs : List Byte), MemOk s → pa + bs.length ≤ Config.reserveBase →
    (∀ i j, i < bs.length → j < bs.length → s.bytePlace none (pa + i) = s.bytePlace none (pa + j) → i = j) →
    (∀ i, i < bs.length → s.sealedFor ctx (s.bytePlace none (pa + i) / 128) = false) →
    MemOk (s.writePhys none ctx pa bs) ∧
    (∀ i, i < bs.length → (s.writePhys none ctx pa bs).mem.read (s.bytePlace none (pa + i)) = bs[i]?.getD 0) ∧
    ∀ a, (∀ i, i < bs.length → a ≠ s.bytePlace none (pa + i)) → (s.writePhys none ctx pa bs).mem.read a = s.mem.read a

/-! ### Atomics and loads at their home (R301, R306) -/

/-- The value at the location after an atomic, and the flag, of an operation of `size` bytes on old value m (R306). -/
def atomNew (o : AmOp) (size : Nat) (m t b : W64) : Nat × Bool :=
  let mm := m.toNat % 256 ^ size
  let tt := t.toNat % 256 ^ size
  match o with
  | .swap => (tt, true)
  | .cas => if mm = b.toNat % 256 ^ size then (tt, true) else (mm, false)
  | .add | .radd => ((mm + tt) % 256 ^ size, true)
  | .band => (Nat.land mm tt, true)
  | .bor => (Nat.lor mm tt, true)
  | .bxor => (Nat.xor mm tt, true)
  | .min => (if i32 m ≤ i32 t then mm else tt, true)
  | .max | .rmax => (if i32 t ≤ i32 m then mm else tt, true)
  | .fadd | .rfadd => (roundCode .fp32 .rne false 0 ((f32 (lo32 m)).add .rne (f32 (lo32 t))), true)
  | .acinit | .actake | .acgive | .acread | .acpeek | .acfree => (mm, false)

/-- The widths that R306 gives the operations. -/
def atomSize (o : AmOp) (size : Nat) : Prop := size = 4 ∨ size = 8 ∧ o ∈ [AmOp.swap, .cas, .add, .radd]

/-- Every atomic computes what R306 says. -/
def AtomRule : Prop :=
  ∀ (o : AmOp) (size : Nat) (m t b : W64), o.counter = false → atomSize o size →
    amResult o size m t b = (w64 (atomNew o size m t b).1, (atomNew o size m t b).2)

/-- HOME_SLICE_ACCESS of an atomic at a scratchpad bank: the new value is written where the flag is 1, and the old value and the flag
come back (R54, R306). -/
def ScratchAtomRule : Prop :=
  ∀ s r id lane piece w g l e o p wid off x a, Performable s r .am id lane piece w g l e o p → e.op = .atomic a →
    a.counter = false → atomSize a p.len → p.target = .scratch wid off → s.wg? wid = some x →
    let m := x.scratch.readNat off p.len
    let n := atomNew a p.len (w64 m) o.t o.b
    Next (.homeSliceAccess r .am id lane piece) s
      ((((if n.2 then s.modWg wid fun y =>
          { y with scratch := y.scratch.writeNat off p.len n.1
                   scratchBad := y.scratchBad.filter fun k => !(off ≤ 8 * k && 8 * k + 8 ≤ off + p.len) } else s).noteEarly r e o p).finishPiece
        (pieceRef r .am id lane piece) 0 (w64 m) n.2 false).drainOutside)

/-- The same at this device's memory, where no serial covers it; `t` is the state in which Charon, the caches and the overlay have let
it through. -/
def MemAtomRule : Prop :=
  ∀ s r id lane piece w g l e o p pa k tp c a t, Performable s r .am id lane piece w g l e o p → e.op = .atomic a →
    a.counter = false → atomSize a p.len → p.target = .phys pa k tp c → p.off = 0 → s.isCovered w.core.die pa tp false = false →
    s.beforeWrite (homeOpOf w l e o p pa k tp c) 0 = .ok t →
    let u := if overlayOf l tp = none ∧ paClass pa = 0 then t.noteWrite (partOf pa) else t
    let m := w64 (bytesNat (u.readPhys (overlayOf l tp) w.ctx pa p.len))
    let n := atomNew a p.len m o.t o.b
    Next (.homeSliceAccess r .am id lane piece) s
      ((((if n.2 then u.writePhys (overlayOf l tp) w.ctx pa (natBytes p.len n.1) else u).noteEarly r e o p).finishPiece
        (pieceRef r .am id lane piece) 0 m n.2 false).drainOutside)

/-- HOME_SLICE_ACCESS of a load of this device's memory: it returns the bytes that R122 gives it, or 0 with poison from a line with an
uncorrectable error (R301, R408); `t` is the state in which the caches have answered. -/
def MemLoadRule : Prop :=
  ∀ s r q id lane piece w g l e o p pa k tp c signed arrived t, Performable s r q id lane piece w g l e o p → e.op = .load signed →
    p.target = .phys pa k tp c → paClass pa = 0 → s.readHeld (overlayOf l tp) pa = false →
    (if s.linePending pa then CacheRes.done true s
      else if c then s.cacheRead (s.cacheReq w.core w.ctx (overlayOf l tp) pa 0 false)
      else s.homeAccess (s.cacheReq w.core w.ctx (overlayOf l tp) pa 0 false) false false) = .done arrived t →
    let bad := s.badLines.contains (lineOf (if paUsable pa then s.bytePlace (overlayOf l tp) pa else pa))
    Next (.homeSliceAccess r q id lane piece) s
      (((if arrived then t.countAccess (partOf pa) w.core.die false else t).finishPiece (pieceRef r q id lane piece) 0
        (if bad then 0 else w64 (bytesNat (s.readPhys (overlayOf l tp) w.ctx pa p.len))) false bad).drainOutside)

/-! ### What a lone move leaves alone -/

/-- A workgroup but for its groups. -/
def wgRest (w : Workgroup) : Workgroup := { w with groups := [] }
/-- A core but for its answered misses and reported faults. -/
def coreRest (c : Core) : Core := { c with misses := [], fw := [] }

/-- Two states differ in nothing but one group, and in what a core keeps of misses and faults. -/
structure SameBut (s t : State) (r : GRef) : Prop where
  rest : { t with wgs := [], cores := [] } = { s with wgs := [], cores := [] }
  cores : ∀ c, coreRest (t.core c) = coreRest (s.core c)
  wgs : t.wgs.map wgRest = s.wgs.map wgRest
  others : ∀ q, q ≠ r → t.group? q = s.group? q
  bytes : ∀ a, t.mem.read a = s.mem.read a

/-- The registers, guards, operand ports, stacks, loop and buffers of a group are those of another. -/
structure SameRegs (g x : Group) : Prop where
  sregs : x.sregs = g.sregs
  kregs : x.kregs = g.kregs
  vregs : ∀ k n, x.v k n = g.v k n ∧ x.vFull k n = g.vFull k n
  opnd : ∀ k u p, x.opnd k u p = g.opnd k u p
  mj : x.mj = g.mj
  ras : x.ras = g.ras
  loop : x.loop = g.loop
  phase : x.phase.map (·.1) = g.phase.map (·.1)
  shapes : x.shapes = g.shapes
  chans : x.chans = g.chans
  handler : x.handler = g.handler
  lastRec : x.lastRec = g.lastRec

/-- Units whose triggers compute in the lanes of their group and nowhere else: a0 to p0, and bf (R225). -/
def fixedUnit (dest : BitVec 12) : Bool :=
  (4 ≤ dest.toNat / 128 && dest.toNat / 128 ≤ 0x0B || dest.toNat / 128 == 0x13) && 4 ≤ dest.toNat % 128

/-- A division whose divisors may be 0 while DIVTRAP is set. -/
def mayTrapDivide (f : Fire) : Prop := f.divTrap = true ∧ (f.dest = 0x30A ∨ f.dest = 0x30B)

/-- FRAME of the fixed-latency triggers: the state but for the group is as it was, and of the group every register, guard, operand
port, stack and loop; of the check-interval register only what reading a poisoned source notes (R408). -/
def LaneFrame : Prop :=
  ∀ (i : Instr) (m : Mv) (dest : BitVec 12), i.mv? = some m → i.dest? = some dest → fixedUnit dest = true →
    ∀ s w g l who t, Ready s m dest w g l who → ¬mayTrapDivide ⟨s, m, dest, w, g, l, who⟩ → exec i s = .next t →
      SameBut s t (refOf w g) ∧ ∃ x, t.group? (refOf w g) = some x ∧ SameRegs g x ∧ x.check = (loneMoved g m dest).check

/-- FRAME of a move into a register or an operand port: the state but for the group is as it was, and of the group all but the register
file that is written. -/
def MoveFrame : Prop :=
  ∀ (i : Instr) (m : Mv) (dest : BitVec 12), i.mv? = some m → i.dest? = some dest →
    (dest.toNat < 3 * 128 ∨ 4 * 128 ≤ dest.toNat ∧ dest.toNat % 128 < 4) →
    ∀ s w g l who t, Ready s m dest w g l who → exec i s = .next t →
      SameBut s t (refOf w g) ∧ ∃ x, t.group? (refOf w g) = some x ∧
        (2 ≤ dest.toNat / 128 → ∀ k n, x.v k n = g.v k n ∧ x.vFull k n = g.vFull k n) ∧
        (∀ n, dest.toNat ≠ 256 + n → x.s n = g.s n) ∧ (∀ n, dest.toNat ≠ 320 + n → x.k n = g.k n) ∧
        (dest.toNat < 3 * 128 → ∀ k u p, x.opnd k u p = g.opnd k u p) ∧
        x.mj = g.mj ∧ x.ras = g.ras ∧ x.loop = g.loop ∧ x.shapes = g.shapes ∧ x.chans = g.chans ∧ x.handler = g.handler ∧
        x.lastRec = g.lastRec

/-- Every leaf that the lanes used shows its A bit, and M for a write (R37). -/
def marked (f : Fire) (es : Nat → List (Option TbEntry)) (write : Bool) : Prop :=
  ∀ k ∈ f.applied, ∀ e, some e ∈ es k → e.leaf &&& (if write then 0x6000 else 0x2000) = if write then 0x6000 else 0x2000

/-- A trigger that queues an access makes no access yet: of memory nothing but A and M bits of the leaves that it used can change
(R37), and of the rest of the state nothing but the group's own engine queues and result ports and the core's buffers. -/
def queuesOnly (f : Fire) (es : Nat → List (Option TbEntry)) (write : Bool) (t : State) : Prop :=
  t.mem = (f.start.touchAll f.who (f.applied.flatMap es) write).mem ∧
    (marked f es write → ∀ a, t.mem.read a = f.s.mem.read a) ∧ t.wgs.map wgRest = f.s.wgs.map wgRest ∧
    t.counters = f.s.counters ∧ t.overlays = f.s.overlays ∧ (∀ q, q ≠ f.ref → t.group? q = f.s.group? q) ∧
    ∃ x, t.group? f.ref = some x ∧ x.sregs = f.g.sregs ∧ x.kregs = f.g.kregs ∧
      (∀ k n, x.v k n = f.g.v k n ∧ x.vFull k n = f.g.vFull k n) ∧ (∀ k u p, x.opnd k u p = f.g.opnd k u p) ∧
      x.mj = f.g.mj ∧ x.ras = f.g.ras ∧ x.loop = f.g.loop

/-- The loads, the stores and the am triggers, each with its destination code and the size of its access. -/
def loadForms (m : Mv) : List (Instr × BitVec 12 × Nat) :=
  [(.ldL8 m, 0x604, 1), (.ldL8n m, 0x605, 1), (.ldL16 m, 0x606, 2), (.ldL16n m, 0x607, 2), (.ldL32 m, 0x608, 4), (.ldL64 m, 0x609, 8)]
def storeForms (m : Mv) : List (Instr × BitVec 12 × Nat) :=
  [(.ldS8 m, 0x60A, 1), (.ldS16 m, 0x60B, 2), (.ldS32 m, 0x60C, 4), (.ldS64 m, 0x60D, 8)]
def amForms (m : Mv) : List (Instr × BitVec 12 × AmOp × Nat) :=
  [(.amSwap m, 0x804, .swap, 4), (.amSwap64 m, 0x805, .swap, 8), (.amCas m, 0x806, .cas, 4), (.amCas64 m, 0x807, .cas, 8),
   (.amAdd m, 0x808, .add, 4), (.amAdd64 m, 0x809, .add, 8), (.amAnd m, 0x80A, .band, 4), (.amOr m, 0x80B, .bor, 4),
   (.amXor m, 0x80C, .bxor, 4), (.amMin m, 0x80D, .min, 4), (.amMax m, 0x80E, .max, 4), (.amFadd m, 0x80F, .fadd, 4),
   (.amRadd m, 0x810, .radd, 4), (.amRadd64 m, 0x811, .radd, 8), (.amRfadd m, 0x812, .rfadd, 4), (.amRmax m, 0x813, .rmax, 4),
   (.amAcinit m, 0x814, .acinit, 8), (.amActake m, 0x815, .actake, 8), (.amAcgive m, 0x816, .acgive, 8),
   (.amAcread m, 0x817, .acread, 8), (.amAcpeek m, 0x818, .acpeek, 8), (.amAcfree m, 0x819, .acfree, 8)]

/-- FRAME of the loads, the stores, and the atomic and counter triggers. -/
def QueueFrame : Prop :=
  ∀ (f : Fire) (t : State) (i : Instr) (ps : Nat → List Piece) (es : Nat → List (Option TbEntry)),
    Ready f.s f.m f.dest f.w f.g f.l f.who → exec i f.s = .next t →
    (∀ size, (i, f.dest, size) ∈ loadForms f.m →
      f.passes f.ldAddr size .load (fun k => (f.op 2 k).getLsbD 3) ps es → queuesOnly f es false t) ∧
    (∀ size, (i, f.dest, size) ∈ storeForms f.m →
      f.passes f.ldAddr size .store (fun k => (f.op 2 k).getLsbD 3) ps es → queuesOnly f es true t) ∧
    ∀ o size, (i, f.dest, o, size) ∈ amForms f.m → f.amPasses o size ps es → queuesOnly f es o.acc.writes t

/-- FRAME of HOME_SLICE_ACCESS of a store, whether it is performed, waits or ends with an error. To a scratchpad bank: every byte of it
outside the stored ones, every other scratchpad and all of memory stay. To memory that no serial covers: every byte outside the places
of the stored ones stays; their places are those that R122 gives committed state, in host and peer memory the addresses themselves, and
for a write of an attempt the frame of its entry. The units there are held under the context's own key (R423), and no access from
outside waits that the same step would perform. -/
def StoreFrame : Prop :=
  (∀ s r q id lane piece w g l e o p wid off x t, Performable s r q id lane piece w g l e o p → e.op = .store →
    p.target = .scratch wid off → s.wg? wid = some x → s.extQueue = [] → exec (.homeSliceAccess r q id lane piece) s = .next t →
    t.mem = s.mem ∧ (∃ y, t.wg? wid = some y ∧ ∀ a, a < off ∨ off + p.len ≤ a → y.scratch.read a = x.scratch.read a) ∧
      ∀ n, n ≠ wid → (t.wg? n).map (·.scratch) = (s.wg? n).map (·.scratch)) ∧
  (∀ s r q id lane piece w g l e o p pa k tp c t, Performable s r q id lane piece w g l e o p → e.op = .store →
    p.target = .phys pa k tp c → s.isCovered w.core.die pa tp true = false → overlayOf l tp = none → s.extQueue = [] → MemOk s →
    let place (i : Nat) : Nat := if paUsable (pa + i) then s.bytePlace none (pa + i) else pa + i
    (∀ i, i < p.len → s.sealedFor w.ctx (place i / 128) = false) →
    exec (.homeSliceAccess r q id lane piece) s = .next t →
    ∀ a, (∀ i, i < p.len → a ≠ place i) → t.mem.read a = s.mem.read a) ∧
  ∀ s r q id lane piece w g l e o p pa k tp c lid x f t, Performable s r q id lane piece w g l e o p → e.op = .store →
    p.target = .phys pa k tp c → s.isCovered w.core.die pa tp true = false → overlayOf l tp = some lid → s.extQueue = [] → MemOk s →
    pa + p.len ≤ Config.reserveBase → pa % 65536 + p.len ≤ 65536 → s.ownEntry? lid pa = some x → x.frame = some f →
    let place (i : Nat) : Nat := f + (pa + i) % 65536
    (∀ i, i < p.len → s.sealedFor w.ctx (place i / 128) = false) →
    exec (.homeSliceAccess r q id lane piece) s = .next t →
    ∀ a, (∀ i, i < p.len → a ≠ place i) → t.mem.read a = s.mem.read a

/-- The fields of an unguarded move word with this source. -/
def plainMv (src : BitVec 13) : Mv := { g := false, k := 0, n := false, h := false, e := false, s := src }

/-- The move words that the spec spells out in its examples, and the moves it assembles them from: in the order of the
chapters on bundles, lane units, memory ports, control (R337) and the matrix engine. -/
def manualWords : List (W32 × Instr) :=
  [(0x00B08387, .f0Fma (plainMv 0xB08)), (0x00003380, .moveOperand 7 0 (plainMv 3)), (0x01800381, .moveOperand 7 1 (plainMv 0x1800)),
    (0x809C000C, .moveVector 0 12 { plainMv 0x9C0 with g := true }),
    (0xAC485284, .aAdd 1 { plainMv 0x485 with g := true, k := 2, n := true, h := true }),
    (0x00080980, .moveOperand 0x13 0 (plainMv 0x080)), (0x00082981, .moveOperand 0x13 1 (plainMv 0x082)),
    (0x00084982, .moveOperand 0x13 2 (plainMv 0x084)), (0x00086986, .bfFft4e (plainMv 0x086)), (0x00086987, .bfFft4o (plainMv 0x086)),
    (0x00CC8008, .moveVector 0 8 (plainMv 0xCC8)), (0x00CD800C, .moveVector 0 12 (plainMv 0xCD8))] ++
  [(0x00488800, .moveOperand 0x10 0 (plainMv 0x488)), (0x00004801, .moveOperand 0x10 1 (plainMv 4)),
    (0x01003802, .moveOperand 0x10 2 (plainMv 0x1003)), (0x00005806, .amCas (plainMv 5)), (0x01044908, .syMark (plainMv 0x1044)),
    (0x00000500, .moveOperand 0x0A 0 (plainMv 0)), (0x01003506, .c0Lt (plainMv 0x1003)), (0x00A88141, .moveScalarGuard 65 (plainMv 0xA88)),
    (0x91034905, .syBr { plainMv 0x1034 with g := true, k := 1 }), (0x01014002, .moveVector 0 2 (plainMv 0x1014)),
    (0x01000909, .syJoin (plainMv 0x1000)), (0x0100091A, .syEnd (plainMv 0x1000)), (0x01800780, .moveOperand 0x0F 0 (plainMv 0x1800)),
    (0x01003784, .mxCfg (plainMv 0x1003))]

/-- The ports that the maps of R228 to R240 and the table of R225 list, unit by unit from 0x04 to 0x13: operand ports, and the
first and last trigger. -/
def portMap : List (List Nat × Nat × Nat) :=
  [([0, 1], 0x04, 0x22), ([0, 1], 0x04, 0x22), ([0, 1], 0x04, 0x0B), ([0, 1, 3], 0x04, 0x23), ([0, 1, 3], 0x04, 0x23), ([0], 0x04, 0x11),
    ([0], 0x04, 0x13), ([0], 0x04, 0x0D), ([0, 1, 2], 0x04, 0x10), ([0, 1, 2, 3], 0x04, 0x0B), ([0], 0x04, 0x09), ([0], 0x04, 0x0B),
    ([0, 1, 2], 0x04, 0x19), ([0, 1], 0x04, 0x09), ([0, 1], 0x04, 0x20), ([0, 1, 2], 0x04, 0x09)]

/-- A port of unit `u` that the maps do not list (R227); ld has its 0x30 beside the run (R234). -/
def unassigned (u port : Nat) : Bool :=
  match portMap[u - 4]? with
  | none => true
  | some (ops, lo, hi) => !(ops.contains port || (lo ≤ port && port ≤ hi) || (u == 0x0C && port == 0x30))

end Sys2Proof.Claims
end

