-- ==== Sys2Proof/Claims/Faults.lean ====
section
/-!
DEFINITION. Faults: what the statements say of the operands on which a lone trigger traps instead of having its effect: control
traps (R332), matrix-issue traps (R380), the divide error (R275), misalignment and the hole (R14, R299, R300); and of division and
seeding where they do not trap.
-/

namespace Sys2Proof.Claims

open Sys2Proof.Machine

/-- A trigger that traps in the lowest lane where its move applies. -/
def TrapsAt (mk : Mv → Instr) (dest : BitVec 12) (bad : Fire → Nat → Prop) (trap : TrapInfo) : Prop :=
  ∀ k, Traps mk dest (fun f => f.first = some k ∧ bad f k) fun _ => trap

/-! ### Control traps (R332) -/

/-- Cause 0x06: a target that is not a multiple of 4 or lies beyond the text. The rules give no order between this check and those of the
stacks: that the target is checked first is the model's reading (log 37, DEDUCED). -/
def BadTargetRule : Prop :=
  let bad (f : Fire) (k : Nat) : Prop := ¬f.validTarget (lo32 (f.t k))
  TrapsAt .syJmp (sy 0x04) bad (precise 0x09 0x06 0) ∧ TrapsAt .syBr (sy 0x05) bad (precise 0x09 0x06 0) ∧
    TrapsAt .syMark (sy 0x08) bad (precise 0x09 0x06 0) ∧
    ∀ o ls rest, Traps .syCall (sy 0x06)
      (fun f => callTargets f.moved (f.trigIn 0x12 0x06) = (o, ls) :: rest ∧ (¬f.validTarget o ∨ ∃ x ∈ rest, ¬f.validTarget x.1))
      fun _ => precise 0x09 0x06 0

/-- Causes 0x01, 0x02, 0x04 and 0x05: the mark-join stack is full or empty, the return stack is empty, or an entry is of the other
stack's. -/
def StackTrapRule : Prop :=
  TrapsAt .syBr (sy 0x05) (fun f k => f.validTarget (lo32 (f.t k)) ∧ f.lanes ≠ f.g.k0 ∧ 32 ≤ f.g.mj.length) (precise 0x09 0x01 0) ∧
  TrapsAt .syMark (sy 0x08) (fun f k => f.validTarget (lo32 (f.t k)) ∧ 32 ≤ f.g.mj.length) (precise 0x09 0x01 0) ∧
  TrapsAt .syJoin (sy 0x09) (fun f _ => f.g.mj = []) (precise 0x09 0x02 0) ∧
  TrapsAt .syJoin (sy 0x09) (fun f _ => ∃ e rest, f.g.mj = e :: rest ∧ (e.kind = .callJoin ∨ e.kind = .callPend))
    (precise 0x09 0x05 0) ∧
  TrapsAt .syRet (sy 0x07) (fun f _ => f.g.ras = [] ∧ f.g.spilled = 0) (precise 0x09 0x04 0) ∧
  TrapsAt .syRet (sy 0x07) (fun f _ => ∃ e rest, f.g.ras = e :: rest ∧ e.depth ≠ f.g.mj.length) (precise 0x09 0x05 0)

/-- Causes 0x01 and 0x03 of a call to valid targets: its serial entries would take the mark-join stack above 32, or a full return stack
has no room left in its spill area (R338, R339). -/
def CallTrapRule : Prop :=
  ∀ o ls rest,
    let calls (f : Fire) : Prop :=
      callTargets f.moved (f.trigIn 0x12 0x06) = (o, ls) :: rest ∧ f.validTarget o ∧ ∀ x ∈ rest, f.validTarget x.1
    let uniform (f : Fire) : Prop := f.lanes = f.g.k0 ∧ rest = []
    Traps .syCall (sy 0x06) (fun f => calls f ∧ ¬uniform f ∧ 32 < f.g.mj.length + 1 + rest.length) (fun _ => precise 0x09 0x01 0) ∧
    Traps .syCall (sy 0x06)
      (fun f => calls f ∧ (uniform f ∨ f.g.mj.length + 1 + rest.length ≤ 32) ∧ 16 ≤ f.g.ras.length ∧ 1024 < f.g.spilled + 8)
      fun _ => precise 0x09 0x03 0

/-- Cause 0x07: the operands of a loop, and a loop while one is active, whatever its operands. -/
def LoopTrapRule : Prop :=
  TrapsAt .syLoop (sy 0x0A) (fun f k => ¬f.loopOk k) (precise 0x09 0x07 0) ∧
  ∀ s m w g l who, Heads s w g l who → g.loop.active = true → loneCheck g l m (sy 0x0A) = .go →
    (⟨s, m, sy 0x0A, w, g, l, who⟩ : Fire).first ≠ none →
    exec (.syLoop m) s =
      .next (((s.raise (refOf w g) (precise 0x09 0x07 0) (l.textOffset g.pc)).clearMisses who).clearFw who none)

/-- Cause 0x08: a bundle that is not illegal by itself, starts inside the body of an active loop, and ends beyond it. The trap names no
bus. -/
def StraddleRule : Prop :=
  ∀ (i : Instr) (m : Mv) (d : BitVec 12), i.mv? = some m → i.dest? = some d → ∀ s w g l who, Heads s w g l who → g.handler = false →
    g.loop.active = true → bundleError g.advance (loneBundle (mvWord m d)) = none →
    g.loop.s0 ≤ (l.textOffset g.pc).toNat → (l.textOffset g.pc).toNat < g.loop.s0 + g.loop.len →
    g.loop.s0 + g.loop.len < (l.textOffset g.pc).toNat + loneLen m d →
    exec i s = .next (((s.raise (refOf w g) (precise 0x09 0x08 7) (l.textOffset g.pc)).clearMisses who).clearFw who none)

/-- Cause 0x0C: an rfe in the handler whose frame has other stack depths than the group, or no valid resume address; the handler's trap
is the second error of a double fault (R397, R399). -/
def RfeFrameRule : Prop :=
  ∀ s m w g l who pa u,
    let f : Fire := ⟨s, m, sy 0x1D, w, g, l, who⟩
    let word9 : W64 := w64 (bytesNat (u.ownLoad f.ref w.ctx (pa + 8 * 9) 8))
    Leading s w g l who → g.handler = true → loneCheck g l m (sy 0x1D) = .go → f.first ≠ none →
    f.start.reachArea (f.trigIn 0x12 0x1D) 0x80 = .at_ pa u →
    (word9.toNat / 2 ^ 36 % 2 ^ 6 ≠ g.mj.length ∨ word9.toNat / 2 ^ 42 % 2 ^ 11 ≠ g.rasAll ∨ ¬f.validTarget (lo32 word9)) →
    exec (.syRfe m) s =
      .next (((s.raise f.ref (precise 0x09 0x0C 0) (l.textOffset g.pc)).clearMisses who).clearFw who none)

/-- A barrier number beyond the workgroup's or the gang's barriers, or a cluster barrier without a gang. -/
def Fire.noBar (f : Fire) (cluster : Bool) (n : Nat) : Prop := ∀ b, f.start.barAt f.ref cluster = some b → (f.start.bars b)[n]? = none

/-- Cause 0x09 for each barrier trigger, for an arrival count out of range, and cause 0x0A for a barrier where a group waits. -/
def BarrierTrapRule : Prop :=
  (∀ mk port cluster, (mk, port, cluster) ∈
      [((.syBar : Mv → Instr), (0x0C : BitVec 7), false), (.syBarar, 0x0D, false), (.syBarinit, 0x0F, false), (.syBarinv, 0x10, false),
       (.syCbar, 0x11, true), (.syCbarar, 0x12, true), (.syCbarinit, 0x13, true), (.syCbarinv, 0x14, true)] →
    TrapsAt mk (sy port) (fun f k => f.noBar cluster ((f.t k).toNat % 32)) (precise 0x09 0x09 0)) ∧
  TrapsAt .syBarwt (sy 0x0E) (fun f k => f.noBar ((f.t k).getLsbD 5) ((f.t k).toNat % 32)) (precise 0x09 0x09 0) ∧
  ∀ mk port cluster, (mk, port, cluster) ∈ [((.syBarinit : Mv → Instr), (0x0F : BitVec 7), false), (.syCbarinit, 0x13, true)] →
    (∀ b x, TrapsAt mk (sy port)
      (fun f k => f.bar cluster ((f.t k).toNat % 32) b x ∧
        ((f.op 0 k).toNat % 65536 = 0 ∨ (if cluster then 384 else 16) < (f.op 0 k).toNat % 65536))
      (precise 0x09 0x09 0)) ∧
    ∀ b x, TrapsAt mk (sy port)
      (fun f k => f.bar cluster ((f.t k).toNat % 32) b x ∧ 0 < (f.op 0 k).toNat % 65536 ∧
        (f.op 0 k).toNat % 65536 ≤ (if cluster then 384 else 16) ∧ f.start.barWaited b cluster ((f.t k).toNat % 32) = true)
      (precise 0x09 0x0A 0)

/-! ### Matrix-issue traps (R380) -/

/-- The causes of the matrix-issue trap: no accumulator owned, a configuration word out of range, a format that does not exist, too many
steps, a bank that is not owned, a nest that is faulted. -/
def MatrixTrapRule : Prop :=
  (∀ mk port, (mk, port) ∈
      [((.mxCfg : Mv → Instr), (0x04 : BitVec 7)), (.mxFmt, 0x05), (.mxGo, 0x06), (.mxWait, 0x07), (.mxPoll, 0x08), (.mxStat, 0x09),
       (.mxBank, 0x0A), (.mxReset, 0x0B)] →
    ∀ x, TrapsAt mk (trig 0x0F port) (fun f _ => f.start.wg? f.ref.wg = some x ∧ x.accumBanks = []) (precise 0x0A 0x01 0)) ∧
  (∀ x, TrapsAt .mxCfg (trig 0x0F 0x04) (fun f k => f.owner x ∧ (n32 (f.t k) = 0 ∨ 50 < n32 (f.t k))) (precise 0x0A 0x02 0)) ∧
  (∀ x j, TrapsAt .mxGo (trig 0x0F 0x06)
    (fun f _ => f.owner x ∧ x.nest.openSlot = some j ∧ formatOk (x.nest.slots[j]?.getD (NSlot.zero .free)).words = false)
    (precise 0x0A 0x03 0)) ∧
  (∀ x j, TrapsAt .mxGo (trig 0x0F 0x06)
    (fun f _ => f.owner x ∧ x.nest.openSlot = some j ∧ formatOk (x.nest.slots[j]?.getD (NSlot.zero .free)).words = true ∧
      1048576 < stepCount (x.nest.slots[j]?.getD (NSlot.zero .free)).words) (precise 0x0A 0x04 0)) ∧
  (∀ x, TrapsAt .mxBank (trig 0x0F 0x0A) (fun f k => f.owner x ∧ x.accumBanks.length ≤ (f.t k).toNat % 2) (precise 0x0A 0x05 0)) ∧
  ∀ x j, TrapsAt .mxGo (trig 0x0F 0x06)
    (fun f _ => f.owner x ∧ x.nest.openSlot = some j ∧ formatOk (x.nest.slots[j]?.getD (NSlot.zero .free)).words = true ∧
      stepCount (x.nest.slots[j]?.getD (NSlot.zero .free)).words ≤ 1048576 ∧ x.nest.faulted = true) (precise 0x0A 0x06 0)

/-! ### Division (R275) and seeding (R258, R283) -/

/-- Is the divisor of some lane where the move applies zero? -/
abbrev Fire.zeroDivisor (f : Fire) : Prop := ∃ k ∈ f.applied, n32 (f.t k) = 0

/-- A division completes unless DIVTRAP is set and a divisor is zero (R275). -/
def DivideRule (mk : Mv → Instr) (dest : BitVec 12) (rule : LaneRule) : Prop :=
  Fires mk dest (fun f => f.divTrap = false ∨ ¬f.zeroDivisor) (fun f => f.with (f.staged 10 (f.outs rule)))

/-- With DIVTRAP set and a zero divisor it takes the divide-error trap, which names the lanes with a zero divisor (R275). -/
def DivideTrapRule (mk : Mv → Instr) (dest : BitVec 12) : Prop :=
  ∀ k, Traps mk dest
    (fun f => f.divTrap = true ∧ (f.applied.find? fun j => n32 (f.t j) == 0) = some k)
    fun f => { precise 0x08 0 0 with
      lane := k, lanes := maskOf f.g.width fun j => f.applied.contains j && n32 (f.t j) == 0 }

/-- seed sets the generator of each lane where it applies, and delivers nothing: S := t + (j + 1) × 0x9E37_79B9_7F4A_7C15, with j the
lane's number in its workgroup (R258, R283). -/
def SeedRule : Prop :=
  Fires .x0Seed (trig 0x09 0x11) always fun f => f.with fun g =>
    { g with lanes := (g.lanes.zip (List.range g.width)).map fun (x, k) =>
        if f.lanes.getLsbD k then
          { x with gen := w64i ((f.t k).toNat + (f.g.gi * f.g.width + k + 1) * 0x9E3779B97F4A7C15) }
        else x }

/-! ### Access traps of ld and am (R299, R300) -/

/-- The hole: bits above the 56 of an address, the regions 0xF0 to 0xFB, the code region beyond its window, and the fixed windows that R15
does not name (R14, R15, R297). -/
abbrev inHole (a : W64) : Prop :=
  let top := a.toNat / 2 ^ 48
  2 ^ 56 ≤ a.toNat ∨ (0xF0 ≤ top ∧ top ≤ 0xFB) ∨ (top = 0xFC ∧ a.toNat / 2 ^ 40 % 2 ^ 8 ≠ 0) ∨
    (top = 0xFF ∧ 3 ≤ a.toNat / 2 ^ 44 % 2 ^ 4)

/-- Misaligned whatever the page: a strict access, or one through a fixed window, that is not naturally aligned; in the private lane view
an access that leaves its 4 bytes, or one of 8 bytes that is not a multiple of 8 (R23, R299, R300). -/
abbrev misaligned (strict : Bool) (size : Nat) (a : W64) : Prop :=
  let top := a.toNat / 2 ^ 48
  ((strict = true ∨ top = 0xFF) ∧ a.toNat % size ≠ 0) ∨
    (top = 0xFE ∧ a.toNat / 2 ^ 47 % 2 = 0 ∧ if size = 8 then a.toNat % 8 ≠ 0 else 4 < a.toNat % 4 + size)

/-- A window that no program access may use: the private linear region and the accumulator window (R14, R17). -/
abbrev forbidden (size : Nat) (a : W64) : Prop :=
  a.toNat % size = 0 ∧ (a.toNat / 2 ^ 48 = 0xFD ∨ (a.toNat / 2 ^ 48 = 0xFF ∧ a.toNat / 2 ^ 44 % 2 ^ 4 = 2))

/-- What a lane's address alone makes of its access, in the order of R300: the trap's code and cause. -/
def addressTrap (strict : Bool) (size : Nat) (a : W64) : Option (Nat × Nat) :=
  if inHole a then some (0x07, fcHole)
  else if misaligned strict size a then some (0x06, 0)
  else if forbidden size a then some (0x07, fcWindowKind)
  else none

/-- The trap of an access whose lowest failing lane is k: it names that lane, its address, and the lanes that fail alike (R394). -/
def Fire.accessTrap (f : Fire) (k : Nat) (a : Nat → W64) (fail : Nat → Option (Nat × Nat)) (c : Nat × Nat) : TrapInfo :=
  { precise c.1 c.2 0 with
    lane := k, lanes := maskOf f.g.width fun j => f.applied.contains j && fail j == some c, addr := a k }

/-- An access some of whose lanes fail by their addresses, whatever the pages, while the others pass their checks: the bundle takes the
trap of the lowest lane that fails (R300). -/
def AddressTraps (mk : Mv → Instr) (dest : BitVec 12) (size : Nat) (strict : Fire → Nat → Bool) (addr : Fire → Nat → W64)
    (check : Fire → Nat → Chk) : Prop :=
  let fail (f : Fire) (j : Nat) : Option (Nat × Nat) := addressTrap (strict f j) size (addr f j)
  ∀ k c, Traps mk dest
    (fun f => (f.applied.find? fun j => (fail f j).isSome) = some k ∧ fail f k = some c ∧
      ∀ j ∈ f.applied, fail f j = none → ∃ ps es, check f j = .ok ps es)
    fun f => f.accessTrap k (addr f) (fail f) c

/-- An ld access, strict with MARK = 1. -/
def LdTrapRule (mk : Mv → Instr) (port : BitVec 7) (size : Nat) (acc : Acc) : Prop :=
  AddressTraps mk (trig 0x0C port) size (fun f j => (f.op 2 j).getLsbD 3) Fire.ldAddr
    fun f j => f.start.checkLane f.who j (f.ldAddr j) size acc ((f.op 2 j).getLsbD 3)

/-- An am access, which is strict always. -/
def AmTrapRule (mk : Mv → Instr) (port : BitVec 7) (size : Nat) (o : AmOp) : Prop :=
  AddressTraps mk (trig 0x10 port) size (fun _ _ => true) (fun f => f.op 0) fun f j => f.start.checkAm f.who o size j (f.op 0 j)

/-! ### Check points (R410, R412) -/

/-- A precise trap of a group that holds no poison is taken at its bundle. -/
def RaiseRule : Prop :=
  ∀ (s : State) (r : GRef) (t : TrapInfo) (pc : W32) (g : Group) (l : Launch) (u : State), s.group? r = some g → s.launchOf? r = some l → psn g.check = false →
    s.takeTrap r { t with pc := pc } pc = some u → s.raise r t pc = u

/-- With poison and no open region its workgroup is terminated, with the report 0x40. -/
def PoisonEndRule : Prop :=
  ∀ (s : State) (r : GRef) (t : TrapInfo) (pc : W32) (g : Group) (l : Launch), s.group? r = some g → s.launchOf? r = some l → psn g.check = true → g.handler = false → regOpen g.check = false →
    s.raise r t pc = s.sampleTime.2.terminate r { precise 0x40 1 7 with pc := pc, time := s.sampleTime.1 } pc

/-- With poison in an open region that has been retried fewer than two times, and whose stacks reach their recorded depths, the region
state is restored. -/
def RetryRule : Prop :=
  ∀ (s : State) (r : GRef) (t : TrapInfo) (pc : W32) (g : Group) (l : Launch) (x : Region), s.group? r = some g → s.launchOf? r = some l → psn g.check = true → g.handler = false →
    regOpen g.check = true → g.region = some x → retriesOf g.check ≠ 2 → x.mjDepth ≤ g.mj.length → x.rasDepth ≤ g.rasAll →
    s.raise r t pc = s.sampleTime.2.setGroup r (g.restoreRegion x l.textBase)

/-- After two retries the workgroup is terminated, with the report 0x52 that names the region. -/
def GiveUpRule : Prop :=
  ∀ (s : State) (r : GRef) (t : TrapInfo) (pc : W32) (g : Group) (l : Launch) (x : Region), s.group? r = some g → s.launchOf? r = some l → psn g.check = true → g.handler = false →
    regOpen g.check = true → g.region = some x → retriesOf g.check = 2 →
    s.raise r t pc = s.sampleTime.2.terminate r
      { precise 0x52 1 7 with pc := pc, time := s.sampleTime.1, addr := zx x.pc } pc

/-- Restoring the region state: each recorded item has its recorded value, what lies above the recorded depths is gone, RETRIES counts,
PSN and SIGBAD are 0, REENTRY is 1; registers and operand ports keep their values (R410, R412). -/
def RestoreRegionRule : Prop :=
  ∀ (g : Group) (x : Region) (tb : W64), x.mjDepth ≤ g.mj.length → x.rasDepth ≤ g.rasAll → retriesOf g.check < 2 →
    let h := g.restoreRegion x tb
    h.pc = tb + zx x.pc ∧ h.kregs = x.k ∧ h.loop = x.loop ∧ h.latches = x.latches ∧ h.mj = g.mj.drop (g.mj.length - x.mjDepth) ∧
      h.rasAll = x.rasDepth ∧ h.segCount = x.segCount ∧ h.segSig = x.segSig ∧ retriesOf h.check = retriesOf g.check + 1 ∧
      psn h.check = false ∧ h.check.getLsbD 1 = false ∧ reentry h.check = true ∧ h.il = true ∧ h.sregs = g.sregs ∧
      (∀ k n, h.v k n = g.v k n ∧ h.vFull k n = g.vFull k n) ∧ (∀ k u p, h.opnd k u p = g.opnd k u p) ∧
      ∀ k, (h.lane? k).map (·.gen) = (g.lane? k).map (·.regionGen)

end Sys2Proof.Claims
end

