-- ==== Sys2Proof/Certificates/Slice0/Obligations.lean ====
section
/-!
DEFINITION. Obligations: the statements. Their parts are named in Claims/: Lane, Move, Units, Control, Moves, Faults, Machine for
the instructions that have an encoding, EvCore, EvDevice, EvRemote, EvHost for the device's own steps.
-/

open Sys2Proof Sys2Proof.Machine

/-- For every well-formed encoded instruction i with word w, at every value of every field its encoding admits, decodeMove w is i. (R213,
R214, R225, R226) -/
def Obligations.DecodeReadsEncode : Prop :=
  ∀ (i : Instr) (w : W32), i.wf = true → encode i = some w → decodeMove w = .ok i

/-- For every 32-bit word w that decodes to an instruction i, i is well formed and its word is w: each word has one meaning, and no bit of
it is dropped. (R213, R214) -/
def Obligations.EncodeReadsDecode : Prop :=
  ∀ (w : W32) (i : Instr), decodeMove w = .ok i → i.wf = true ∧ encode i = some w

/-- Twenty-six move words that the spec spells out in its examples, triggers of seven units and moves into registers and operand ports,
decode to the instructions it assembles them from. (R213, R214, R225, R295, R337, R265) -/
def Obligations.WordsOfTheManual : Prop :=
  ∀ x ∈ Claims.manualWords, (decodeMove x.1).toOption = some x.2

/-- A move word whose destination has a reserved unit is refused with cause 0x01, one with an unassigned port of a unit with cause 0x02,
and k0 and scalar ports 80 to 127 with cause 0x03, whatever its other fields. (R224, R205, R213, R226) -/
def Obligations.ReservedDestinationsRefused : Prop :=
  ∀ (m : Mv) (d : BitVec 12),
    (d.toNat / 128 = 3 ∨ 0x14 ≤ d.toNat / 128 → decodeMove (mvWord m d) = .error .reservedUnit) ∧
    (∀ u, 4 ≤ u → u ≤ 0x13 → d.toNat / 128 = u → Claims.unassigned u (d.toNat % 128) = true →
      decodeMove (mvWord m d) = .error .unassignedPort) ∧
    (d.toNat / 128 = 2 → d.toNat % 128 = 64 ∨ 80 ≤ d.toNat % 128 → decodeMove (mvWord m d) = .error .badRegDest)

/-- A step runs the instruction that the bytes at the program counter decode to, and then the groups that co-issue its bundle (R192, R211,
R221). Whose turn it is, and that a step takes a nanosecond, is the model's choice (log 1). -/
def Obligations.StepRunsTheDecodedInstruction : Prop :=
  Claims.StepIssues

/-- A step takes the head of the agenda (the model's way of letting the device act, log 1), and a fetch reads little-endian words of memory
(R58, R211). -/
def Obligations.StepAndFetch : Prop :=
  Claims.StepAgenda ∧ Claims.FetchWordRule

/-- What reset leaves. The values are those of the reset columns of R12, R118 and R175; that a byte nothing has written reads 0 is the
model's choice (log 4), and the other reset values are in log entry 3. -/
def Obligations.ResetState : Prop :=
  let s := State.reset
  (∀ c, (s.ctx c).en = false ∧ (s.ctx c).root = 0 ∧ (s.ctx c).ringBase = 0 ∧ (s.ctx c).ringSize = 0 ∧ (s.ctx c).lowWater = 0 ∧
    (s.ctx c).prod = 0 ∧ (s.ctx c).cons = 0 ∧ (s.ctx c).stallNs = 0 ∧ (s.ctx c).cTicket = 0 ∧ (s.ctx c).cVer = 0 ∧
    (s.ctx c).quota = 0 ∧ (s.ctx c).used = 0 ∧ (s.ctx c).nextVer = 1 ∧ (s.ctx c).nextTicket = 1 ∧ (s.ctx c).aborts = 0 ∧
    (s.ctx c).commits = 0) ∧
  (∀ n, (s.strm n).en = false ∧ (s.strm n).st = .idle ∧ (s.strm n).rdIdx = 0) ∧
  s.plat.released = false ∧ s.launches = [] ∧ s.wgs = [] ∧ s.cores = [] ∧ s.l2 = [] ∧ s.regions = [] ∧ s.overlays = [] ∧
  s.packets = [] ∧ s.results = [] ∧ s.counters = [] ∧ s.exports = [] ∧ s.routes = [] ∧ ∀ a, s.mem.read a = 0

/-- For every state whose local memory is canonical, if step answers a next state, its memory is canonical: addresses rise strictly and no
listed byte is 0. (R5, R35, R91) -/
def Obligations.MemoryStaysCanonical : Prop :=
  Kept MemOk

/-- Local memory has its canonical form at reset. (R5, R35) -/
def Obligations.ResetMemoryCanonical : Prop :=
  MemOk State.reset

/-- For every canonical memory: after a write of one byte, of a run of bytes or of a number, and after zeroing a range, every address reads
as it should and the form is kept; two canonical memories that read alike are equal. A write of committed state below the reserve, with no
unit left by CXL.mem among its units, puts each byte at the place that R122 resolves its address to and changes no other byte. (R5, R91,
R115, R122) -/
def Obligations.MemoryReadsBack : Prop :=
  Claims.MemoryRule ∧ Claims.CanonicalRule ∧ Claims.PhysWriteRule

/-- Vector registers and pairs, scalar and guard registers, fixed-latency result ports, short immediates and the immediate kinds of an
extension word deliver the values of R214 and R215, at the width R214 gives; queued ports deliver their head entry, and a lane that has not
landed is empty; for each of the six modes a cross-lane read delivers REG of lane j of the group, and the selected fill where j lies
outside it; a vector register whose read finds an uncorrectable error delivers 0 and poison. (R203, R204, R206, R214, R215, R216, R408) -/
def Obligations.SourcesDeliver : Prop :=
  Claims.SourceRule ∧ Claims.PortRule ∧ Claims.CrossRule

/-- A bundle that moves b to a and a to b, issued by any group that leads its slot and has no others issue beside it, exchanges the two
registers in the active lanes and leaves them in the others. (R221, R204) -/
def Obligations.SourcesReadBeforeWrites : Prop :=
  Claims.SwapRule

/-- A result staged n + 1 issues before it is due reads as the port's previous value at every issue before, and as the result from that
issue on, in its lanes only; no other port changes. (R208) -/
def Obligations.ResultsBecomeVisible : Prop :=
  Claims.VisibleRule

/-- For both banks and every index: the move completes; where it applies the register receives the low half and, for a 64-bit move, the
next one the high half; a popped lane that has not landed leaves it empty until its landing; every other register of every lane keeps its
value and full bit. (R204, R207) -/
def Obligations.VectorMoves : Prop :=
  Claims.VectorRule

/-- A scalar register receives the value of the lowest lane where the move applies and keeps its value when there is none; a guard register
k1 to k15 receives a bit per lane; an operand port receives the value in the lanes where the move applies; nothing else of the group
changes beyond the pop of the source. (R203, R204, R205) -/
def Obligations.ScalarGuardAndOperandMoves : Prop :=
  Claims.ScalarRule ∧ Claims.GuardRule ∧ Claims.OperandRule

/-- A move whose source is a queued port takes its head entry away, notes consumed poison, gives the operation's place in its engine queue
back, and for am sets am.rb; a source of another kind pops nothing, and notes the lanes in which a register read finds an uncorrectable
error. (R206, R210, R304, R408) -/
def Obligations.SourcesPop : Prop :=
  ∀ f : Claims.Fire, Claims.PopRuleOf f

/-- For every encoded instruction: when steps 1 to 3 of R221 find a trap, exec answers the state in which that trap is raised and nothing
of the bundle has happened; when they find a wait, exec answers the same state. A vector destination at or beyond the declared count has
cause 0x03, and an x0 trigger too early cause 0x08. (R221, R222, R224, R201, R281) -/
def Obligations.BundlesRefused : Prop :=
  (∀ (i : Instr) (m : Mv) (d : BitVec 12), i.mv? = some m → i.dest? = some d → ∀ s w g l who, Leads s w g l who →
    (∀ t, loneCheck g l m d = .trap t →
      exec i s = .next (((s.raise (refOf w g) t (l.textOffset g.pc)).clearMisses who).clearFw who none)) ∧
    (loneCheck g l m d = .wait → exec i s = .next s)) ∧
  Claims.beyondCount ∧ Claims.x0TooSoon

/-- Whenever exec of a trigger of a fixed-latency unit answers a next state (and it is no division that traps), every byte of memory, every
other group and all the rest of the state are unchanged, and of the group every register, guard, operand port, stack and loop; of the
check-interval register only what the pop of a poisoned source notes. Of a move into a register or operand port, every register but the
destination stays, and all the rest likewise. (R203, R204, R221, R267) -/
def Obligations.LaneUnitsAndMovesFrame : Prop :=
  Claims.LaneFrame ∧ Claims.MoveFrame

/-- add, sub, addc, subb, adds, subs, addsn, subsn, add64, sub64 and pass complete on both units and stage, with latency 1, what R270 says
in each lane where the move applies. (R270) -/
def Obligations.IntegerArithmetic : Prop :=
  Claims.OnA .aAdd 0x04 Claims.addRule ∧ Claims.OnA .aSub 0x05 Claims.subRule ∧ Claims.OnA .aAddc 0x06 Claims.addcRule ∧
  Claims.OnA .aSubb 0x07 Claims.subbRule ∧ Claims.OnA .aAdds 0x08 Claims.addsRule ∧ Claims.OnA .aSubs 0x09 Claims.subsRule ∧
  Claims.OnA .aAddsn 0x0A Claims.addsnRule ∧ Claims.OnA .aSubsn 0x0B Claims.subsnRule ∧ Claims.OnA .aAdd64 0x20 Claims.add64Rule ∧
  Claims.OnA .aSub64 0x21 Claims.sub64Rule ∧ Claims.OnA .aPass 0x22 Claims.passRule

/-- The triggers of R271 to R273 complete on both units and stage, with latency 1, what those rules say in each lane where the move
applies. (R271, R272, R273) -/
def Obligations.IntegerLogic : Prop :=
  Claims.OnA .aAnd 0x0C Claims.andRule ∧ Claims.OnA .aOr 0x0D Claims.orRule ∧ Claims.OnA .aXor 0x0E Claims.xorRule ∧
  Claims.OnA .aAndn 0x0F Claims.andnRule ∧ Claims.OnA .aShl 0x10 Claims.shlRule ∧ Claims.OnA .aShr 0x11 Claims.shrRule ∧
  Claims.OnA .aSar 0x12 Claims.sarRule ∧ Claims.OnA .aRol 0x13 Claims.rolRule ∧ Claims.OnA .aMin 0x14 Claims.minRule ∧
  Claims.OnA .aMax 0x15 Claims.maxRule ∧ Claims.OnA .aMinn 0x16 Claims.minnRule ∧ Claims.OnA .aMaxn 0x17 Claims.maxnRule ∧
  Claims.OnA .aAbs 0x18 Claims.absRule ∧ Claims.OnA .aNeg 0x19 Claims.negRule ∧ Claims.OnA .aClz 0x1A Claims.clzRule ∧
  Claims.OnA .aPopc 0x1B Claims.popcRule ∧ Claims.OnA .aBrev 0x1C Claims.brevRule ∧ Claims.OnA .aSel 0x1D Claims.selRule ∧
  Claims.OnA .aBext 0x1E Claims.bextRule ∧ Claims.OnA .aBins 0x1F Claims.binsRule

/-- mul, mulhi, mulhin, mulw, mad and lea complete and stage, with latency 3, what R274 says in each lane where the move applies; rb is
left alone. (R274) -/
def Obligations.MultiplyAndAddress : Prop :=
  Claims.LaneUnit .m0Mul (Claims.trig 0x06 0x04) 3 Claims.mulRule ∧
  Claims.LaneUnit .m0Mulhi (Claims.trig 0x06 0x05) 3 Claims.mulhiRule ∧
  Claims.LaneUnit .m0Mulhin (Claims.trig 0x06 0x06) 3 Claims.mulhinRule ∧
  Claims.LaneUnit .m0Mulw (Claims.trig 0x06 0x07) 3 Claims.mulwRule ∧ Claims.LaneUnit .m0Mad (Claims.trig 0x06 0x08) 3 Claims.madRule ∧
  Claims.LaneUnit .m0Lea (Claims.trig 0x06 0x09) 3 Claims.leaRule

/-- div and divn complete, unless DIVTRAP is set and a divisor is zero, and stage quotient and remainder, 0xFFFF_FFFF and the dividend for
a zero divisor. (R275) -/
def Obligations.Division : Prop :=
  Claims.DivideRule .m0Div (Claims.trig 0x06 0x0A) Claims.divRule ∧ Claims.DivideRule .m0Divn (Claims.trig 0x06 0x0B) Claims.divnRule

/-- add, sub, mul, fma, fms, fnma, min, max, abs, neg and csgn complete on both units and stage, with latency 4, the exact value of R276
rounded once under the rounding-control word, or the code that R277 gives. (R255, R256, R276, R277) -/
def Obligations.FloatArithmetic : Prop :=
  Claims.OnF .f0Add .f1Add 0x04 Claims.faddRule ∧ Claims.OnF .f0Sub .f1Sub 0x05 Claims.fsubRule ∧
  Claims.OnF .f0Mul .f1Mul 0x06 Claims.fmulRule ∧ Claims.OnF .f0Fma .f1Fma 0x07 Claims.ffmaRule ∧
  Claims.OnF .f0Fms .f1Fms 0x08 Claims.ffmsRule ∧ Claims.OnF .f0Fnma .f1Fnma 0x09 Claims.ffnmaRule ∧
  Claims.OnF .f0Min .f1Min 0x0A Claims.fminRule ∧ Claims.OnF .f0Max .f1Max 0x0B Claims.fmaxRule ∧
  Claims.OnF .f0Abs .f1Abs 0x0C Claims.fabsRule ∧ Claims.OnF .f0Neg .f1Neg 0x0D Claims.fnegRule ∧
  Claims.OnF .f0Csgn .f1Csgn 0x0E Claims.fcsgnRule

/-- The triggers of R278 to R280 complete on both units and stage, with latency 4, what those rules say, with FLUSHH on 16-bit codes and a
draw of the lane's generator exactly where stochastic rounding makes one. (R257, R258, R260, R261, R262, R278, R279, R280) -/
def Obligations.FloatConversions : Prop :=
  Claims.OnF .f0Floor .f1Floor 0x0F Claims.ffloorRule ∧ Claims.OnF .f0Ceil .f1Ceil 0x10 Claims.fceilRule ∧
  Claims.OnF .f0Trunc .f1Trunc 0x11 Claims.ftruncRule ∧ Claims.OnF .f0Rint .f1Rint 0x12 Claims.frintRule ∧
  Claims.OnF .f0Cvtif .f1Cvtif 0x13 Claims.cvtifRule ∧ Claims.OnF .f0Cvtnf .f1Cvtnf 0x14 Claims.cvtnfRule ∧
  Claims.OnF .f0Cvtfi .f1Cvtfi 0x15 Claims.cvtfiRule ∧ Claims.OnF .f0Cvtfn .f1Cvtfn 0x16 Claims.cvtfnRule ∧
  Claims.OnF .f0Cvth .f1Cvth 0x17 Claims.cvthRule ∧ Claims.OnF .f0Cvtb .f1Cvtb 0x18 Claims.cvtbRule ∧
  Claims.OnF .f0Cvte4 .f1Cvte4 0x19 Claims.cvte4Rule ∧ Claims.OnF .f0Cvte5 .f1Cvte5 0x1A Claims.cvte5Rule ∧
  Claims.OnF .f0Cvtf4 .f1Cvtf4 0x1B Claims.cvtf4Rule ∧ Claims.OnF .f0Cvthf .f1Cvthf 0x1C Claims.cvthfRule ∧
  Claims.OnF .f0Cvtbf .f1Cvtbf 0x1D Claims.cvtbfRule ∧ Claims.OnF .f0Cvte4f .f1Cvte4f 0x1E Claims.cvte4fRule ∧
  Claims.OnF .f0Cvte5f .f1Cvte5f 0x1F Claims.cvte5fRule ∧ Claims.OnF .f0Cvtf4f .f1Cvtf4f 0x20 Claims.cvtf4fRule ∧
  Claims.OnF .f0Hadd2 .f1Hadd2 0x21 Claims.hadd2Rule ∧ Claims.OnF .f0Hfma2 .f1Hfma2 0x22 Claims.hfma2Rule ∧
  Claims.OnF .f0Bfma2 .f1Bfma2 0x23 Claims.bfma2Rule

/-- The thirteen triggers of x0 that deliver a result complete and stage it with latency 12, the functions of R282 rounded once to nearest
even from the value that the model computes for them (log 17); seed sets the generators of the lanes where it applies. -/
def Obligations.SpecialFunctions : Prop :=
  Claims.LaneUnit .x0Rcp (Claims.trig 0x09 0x04) 12 (Claims.rnRule fnRcp) ∧
  Claims.LaneUnit .x0Rsqrt (Claims.trig 0x09 0x05) 12 (Claims.rnRule fnRsqrt) ∧
  Claims.LaneUnit .x0Sqrt (Claims.trig 0x09 0x06) 12 (Claims.rnRule fnSqrt) ∧
  Claims.LaneUnit .x0Exp2 (Claims.trig 0x09 0x07) 12 (Claims.rnRule fnExp2) ∧
  Claims.LaneUnit .x0Log2 (Claims.trig 0x09 0x08) 12 (Claims.rnRule fnLog2) ∧
  Claims.LaneUnit .x0Sinpi (Claims.trig 0x09 0x09) 12 (Claims.rnRule fnSinpi) ∧
  Claims.LaneUnit .x0Cospi (Claims.trig 0x09 0x0A) 12 (Claims.rnRule fnCospi) ∧
  Claims.LaneUnit .x0Tanh (Claims.trig 0x09 0x0B) 12 (Claims.rnRule fnTanh) ∧
  Claims.LaneUnit .x0Sigm (Claims.trig 0x09 0x0C) 12 (Claims.rnRule fnSigm) ∧
  Claims.LaneUnit .x0Gelu (Claims.trig 0x09 0x0D) 12 (Claims.rnRule fnGelu) ∧
  Claims.LaneUnit .x0Fdiv (Claims.trig 0x09 0x0E) 12 Claims.fdivRule ∧
  Claims.LaneUnit .x0Twid (Claims.trig 0x09 0x0F) 12 Claims.twidRule ∧
  Claims.LaneUnit .x0Rnd (Claims.trig 0x09 0x10) 12 Claims.rndNextRule ∧ Claims.SeedRule

/-- The sixteen compares complete and stage, with latency 1, 1 or 0 as R284 to R286 say, in each lane where the move applies. (R284, R285,
R286) -/
def Obligations.Compares : Prop :=
  Claims.LaneUnit .c0Eq (Claims.trig 0x0A 0x04) 1 Claims.eqRule ∧ Claims.LaneUnit .c0Ne (Claims.trig 0x0A 0x05) 1 Claims.neRule ∧
  Claims.LaneUnit .c0Lt (Claims.trig 0x0A 0x06) 1 Claims.ltRule ∧ Claims.LaneUnit .c0Le (Claims.trig 0x0A 0x07) 1 Claims.leRule ∧
  Claims.LaneUnit .c0Ltn (Claims.trig 0x0A 0x08) 1 Claims.ltnRule ∧ Claims.LaneUnit .c0Len (Claims.trig 0x0A 0x09) 1 Claims.lenRule ∧
  Claims.LaneUnit .c0Feq (Claims.trig 0x0A 0x0A) 1 Claims.feqRule ∧ Claims.LaneUnit .c0Fne (Claims.trig 0x0A 0x0B) 1 Claims.fneRule ∧
  Claims.LaneUnit .c0Flt (Claims.trig 0x0A 0x0C) 1 Claims.fltRule ∧ Claims.LaneUnit .c0Fle (Claims.trig 0x0A 0x0D) 1 Claims.fleRule ∧
  Claims.LaneUnit .c0Fun (Claims.trig 0x0A 0x0E) 1 Claims.funRule ∧ Claims.LaneUnit .c0Fcls (Claims.trig 0x0A 0x0F) 1 Claims.fclsRule ∧
  Claims.LaneUnit .c0Btst (Claims.trig 0x0A 0x10) 1 Claims.btstRule ∧
  Claims.LaneUnit .c0Eq64 (Claims.trig 0x0A 0x11) 1 Claims.eq64Rule ∧
  Claims.LaneUnit .c0Lt64 (Claims.trig 0x0A 0x12) 1 Claims.lt64Rule ∧
  Claims.LaneUnit .c0Ltn64 (Claims.trig 0x0A 0x13) 1 Claims.ltn64Rule

/-- The ten triggers of p0 complete and stage, with latency 2, in each participating lane what R287 to R290 say of the participating lanes;
the other lanes keep their r. (R288, R289, R290) -/
def Obligations.PermuteAndReduce : Prop :=
  Claims.GroupOp .p0Idx (Claims.trig 0x0B 0x04) Claims.idxRule ∧ Claims.GroupOp .p0Scan (Claims.trig 0x0B 0x05) Claims.scanRule ∧
  Claims.GroupOp .p0Scanf (Claims.trig 0x0B 0x06) Claims.scanfRule ∧
  Claims.GroupOp .p0Redadd (Claims.trig 0x0B 0x07) Claims.redaddRule ∧
  Claims.GroupOp .p0Redmax (Claims.trig 0x0B 0x08) Claims.redmaxRule ∧
  Claims.GroupOp .p0Redmin (Claims.trig 0x0B 0x09) Claims.redminRule ∧
  Claims.GroupOp .p0Ballot (Claims.trig 0x0B 0x0A) Claims.ballotRule ∧ Claims.GroupOp .p0Popl (Claims.trig 0x0B 0x0B) Claims.poplRule ∧
  Claims.GroupOp .p0Pack8 (Claims.trig 0x0B 0x0C) Claims.pack8Rule ∧ Claims.GroupOp .p0Unpk8 (Claims.trig 0x0B 0x0D) Claims.unpk8Rule

/-- dit2, dif2, fft4e, fft4o, cmul and cmulc complete and stage, with latency 5, the components of R292 to R295, each operation rounded
once in the order given. (R292, R293, R294) -/
def Obligations.Butterflies : Prop :=
  Claims.LaneUnit .bfDit2 (Claims.trig 0x13 0x04) 5 Claims.dit2Rule ∧
  Claims.LaneUnit .bfDif2 (Claims.trig 0x13 0x05) 5 Claims.dif2Rule ∧
  Claims.LaneUnit .bfFft4e (Claims.trig 0x13 0x06) 5 Claims.fft4eRule ∧
  Claims.LaneUnit .bfFft4o (Claims.trig 0x13 0x07) 5 Claims.fft4oRule ∧
  Claims.LaneUnit .bfCmul (Claims.trig 0x13 0x08) 5 Claims.cmulRule ∧
  Claims.LaneUnit .bfCmulc (Claims.trig 0x13 0x09) 5 Claims.cmulcRule

/-- Every load, store, fence and pgstate whose lanes pass the checks completes: it enters its engine queue with one operation a lane at the
address of R297, and those that return a value push an entry of ld.r whose lanes are empty until they land. (R78, R87, R297, R301, R302,
R305) -/
def Obligations.LoadsStoresFences : Prop :=
  Claims.LoadRule .ldL8 0x04 1 true ∧ Claims.LoadRule .ldL8n 0x05 1 false ∧ Claims.LoadRule .ldL16 0x06 2 true ∧
  Claims.LoadRule .ldL16n 0x07 2 false ∧ Claims.LoadRule .ldL32 0x08 4 false ∧ Claims.LoadRule .ldL64 0x09 8 false ∧
  Claims.StoreRule .ldS8 0x0A 1 ∧ Claims.StoreRule .ldS16 0x0B 2 ∧ Claims.StoreRule .ldS32 0x0C 4 ∧ Claims.StoreRule .ldS64 0x0D 8 ∧
  Claims.FenceRule .ldFeacq 0x0E .acq ∧ Claims.FenceRule .ldFerel 0x0F .rel ∧ Claims.FenceRule .ldFefull 0x10 .full ∧
  Claims.PgstateRule

/-- Every am trigger whose lanes pass the checks completes: it enters the am queue with its data, expected value or grain and scope a lane;
the returning ones push an entry of am.r, reductions and acgive push none. (R306, R307, R309) -/
def Obligations.AtomicsAndCounterTriggers : Prop :=
  Claims.AmRule .amSwap 0x04 .swap 4 true ∧ Claims.AmRule .amSwap64 0x05 .swap 8 true ∧ Claims.AmRule .amCas 0x06 .cas 4 true ∧
  Claims.AmRule .amCas64 0x07 .cas 8 true ∧ Claims.AmRule .amAdd 0x08 .add 4 true ∧ Claims.AmRule .amAdd64 0x09 .add 8 true ∧
  Claims.AmRule .amAnd 0x0A .band 4 true ∧ Claims.AmRule .amOr 0x0B .bor 4 true ∧ Claims.AmRule .amXor 0x0C .bxor 4 true ∧
  Claims.AmRule .amMin 0x0D .min 4 true ∧ Claims.AmRule .amMax 0x0E .max 4 true ∧ Claims.AmRule .amFadd 0x0F .fadd 4 true ∧
  Claims.AmRule .amRadd 0x10 .radd 4 false ∧ Claims.AmRule .amRadd64 0x11 .radd 8 false ∧ Claims.AmRule .amRfadd 0x12 .rfadd 4 false ∧
  Claims.AmRule .amRmax 0x13 .rmax 4 false ∧ Claims.AmRule .amAcinit 0x14 .acinit 8 true ∧
  Claims.AmRule .amActake 0x15 .actake 8 true ∧ Claims.AmRule .amAcgive 0x16 .acgive 8 false ∧
  Claims.AmRule .amAcread 0x17 .acread 8 true ∧ Claims.AmRule .amAcpeek 0x18 .acpeek 8 true ∧
  Claims.AmRule .amAcfree 0x19 .acfree 8 true

/-- A trigger that queues an access makes none yet: every byte of memory and of every scratchpad is as it was (but for A and M bits of
leaves it used, R37), and every register, operand port, stack and loop of the group, and every other group. HOME_SLICE_ACCESS of a store to
a scratchpad leaves every byte outside the stored ones and every byte of memory; of a store to local memory, every byte of memory outside
the places of the stored bytes. (R37, R54, R61, R301, R302, R307) -/
def Obligations.QueuedAccessesFrame : Prop :=
  Claims.QueueFrame ∧ Claims.StoreFrame

/-- What an access does at its home. That accesses which conflict and are not ordered mark their contexts, whose reads then give any value
at all, is the model's form of the programs that R94 gives no meaning (log 29). -/
def Obligations.AccessesAtTheirHome : Prop :=
  Claims.AtomRule ∧ Claims.ScratchStoreRule ∧ Claims.ScratchLoadRule ∧ Claims.ScratchAtomRule ∧ Claims.MemStoreRule ∧
  Claims.MemLoadRule ∧ Claims.MemAtomRule ∧ Claims.RaceRule ∧ Claims.RacedLoadRule

/-- RESULT_LANDS fills the lane of a load's entry with the value extended as R301 says, of an atomic's with value and flag, and an unqueued
port, a write pointer as it stands when it lands; STORE_PERFORMED takes a store whose lanes are all performed out of the store queue.
(R206, R207, R301, R302, R316) -/
def Obligations.ResultsLand : Prop :=
  Claims.LoadLandsRule ∧ Claims.AmLandsRule ∧ Claims.VarLandsRule ∧ Claims.WptrLandsRule ∧ Claims.StorePerformedRule

/-- A copy that is aligned and of matching classes joins its channel in each lane where it applies; shape writes its slot; seal closes the
batch and delivers its number; wait holds its group; wptr delivers a write pointer; bar adds expected bytes to a barrier. (R310, R311,
R314, R315, R316, R317) -/
def Obligations.CopyTriggers : Prop :=
  Claims.CopyRule .cpG2s 0x04 .g2s ∧ Claims.CopyRule .cpS2g 0x05 .s2g ∧ Claims.CopyRule .cpS2s 0x06 .s2s ∧ Claims.ShapeRule ∧
  Claims.SealRule ∧ Claims.CpWaitRule ∧ Claims.WptrRule ∧ Claims.CpBarRule

/-- push, pop, trypush, trypop, qinit and qinval enter the q0 queue in order; push and pop hold their group until they are performed; pop,
trypush and trypop push an entry of q0.r, at once full with ST 01 when they apply to no lane. (R320, R321, R322, R323) -/
def Obligations.QueueTriggers : Prop :=
  Claims.PushRule ∧ Claims.PopRule .q0Pop 0x05 .pop true ∧ Claims.PopRule .q0Trypush 0x06 .trypush false ∧
  Claims.PopRule .q0Trypop 0x07 .trypop false ∧ Claims.QinitRule ∧ Claims.QinvalRule

/-- cfg and fmt write a word of the OPEN slot; go seals a valid command with the next sequence number; wait, bank and reset hold their
group; poll and stat deliver the status and the fault record. (R375, R376, R377, R378, R379) -/
def Obligations.MatrixTriggers : Prop :=
  Claims.CfgRule ∧ Claims.FmtRule ∧ Claims.GoRule ∧ Claims.MxWaitRule ∧ Claims.PollRule ∧ Claims.StatRule ∧ Claims.BankRule ∧
  Claims.MxResetRule

/-- open of a valid mask waits for its cores and an invalid one starts a broken phase, or waits while a phase of the core is on; send
drives the core's wires; sel samples the wires of the phase cycle that lies the delay back; close ends the phase for its core; idle reads
the flags and clr clears them. (R324, R325, R327, R328, R329) -/
def Obligations.ExchangeTriggers : Prop :=
  Claims.OpenRule ∧ Claims.BrokenOpenRule ∧ Claims.SendRule ∧ Claims.SelRule ∧ Claims.CloseRule ∧ Claims.IdleRule ∧ Claims.ClrRule

/-- jmp, br, mark, join, call and ret complete with the targets, stack entries and active masks of R334 to R339; where no lane applies they
do nothing. (R333, R334, R335, R337, R338, R339) -/
def Obligations.TransfersAndStacks : Prop :=
  Claims.JmpRule ∧ Claims.BrRule ∧ Claims.MarkRule ∧ Claims.JoinRule ∧ Claims.CallRule ∧ Claims.CallSerialRule ∧ Claims.CallNoneRule ∧
  Claims.RetRule ∧ Claims.RetSerialRule

/-- An invalid target, a full or empty stack, a full spill area, an entry of the wrong kind or depth, a malformed or nested loop, a bundle
that straddles the end of a loop body, a barrier number or count out of range and a barrier that is waited at raise the control trap with
the cause of R332, with no effect of the bundle; rfe outside a handler, or with an inconsistent frame, likewise. That a target is checked
before the stacks is the model's reading (log 37). Every cause of the matrix-issue trap is taken where R380 says, and with DIVTRAP and a
zero divisor div and divn take the divide-error trap, which names the lanes. (R275, R332, R338, R339, R340, R344, R345, R380, R397, R399)
-/
def Obligations.ControlTraps : Prop :=
  Claims.BadTargetRule ∧ Claims.StackTrapRule ∧ Claims.LoopTrapRule ∧ Claims.CallTrapRule ∧ Claims.StraddleRule ∧
  Claims.BarrierTrapRule ∧ Claims.RfeTrapRule ∧ Claims.RfeFrameRule ∧ Claims.MatrixTrapRule ∧
  Claims.DivideTrapRule .m0Div (Claims.trig 0x06 0x0A) ∧ Claims.DivideTrapRule .m0Divn (Claims.trig 0x06 0x0B)

/-- Of an ld or am access each lane whose address alone makes it fail fails as R300 orders it: in the hole with HOLE, not aligned where it
must be with the misalignment trap, through the private linear region or the accumulator window with WINDOW-KIND. When the other lanes pass
their checks, the bundle takes the trap of the lowest failing lane, with its address and the lanes that fail alike. (R14, R15, R17, R23,
R299, R300, R394) -/
def Obligations.AccessTraps : Prop :=
  Claims.LdTrapRule .ldL8 0x04 1 .load ∧ Claims.LdTrapRule .ldL8n 0x05 1 .load ∧ Claims.LdTrapRule .ldL16 0x06 2 .load ∧
  Claims.LdTrapRule .ldL16n 0x07 2 .load ∧ Claims.LdTrapRule .ldL32 0x08 4 .load ∧ Claims.LdTrapRule .ldL64 0x09 8 .load ∧
  Claims.LdTrapRule .ldS8 0x0A 1 .store ∧ Claims.LdTrapRule .ldS16 0x0B 2 .store ∧ Claims.LdTrapRule .ldS32 0x0C 4 .store ∧
  Claims.LdTrapRule .ldS64 0x0D 8 .store ∧ Claims.AmTrapRule .amSwap 0x04 4 .swap ∧ Claims.AmTrapRule .amSwap64 0x05 8 .swap ∧
  Claims.AmTrapRule .amCas 0x06 4 .cas ∧ Claims.AmTrapRule .amCas64 0x07 8 .cas ∧ Claims.AmTrapRule .amAdd 0x08 4 .add ∧
  Claims.AmTrapRule .amAdd64 0x09 8 .add ∧ Claims.AmTrapRule .amAnd 0x0A 4 .band ∧ Claims.AmTrapRule .amOr 0x0B 4 .bor ∧
  Claims.AmTrapRule .amXor 0x0C 4 .bxor ∧ Claims.AmTrapRule .amMin 0x0D 4 .min ∧ Claims.AmTrapRule .amMax 0x0E 4 .max ∧
  Claims.AmTrapRule .amFadd 0x0F 4 .fadd ∧ Claims.AmTrapRule .amRadd 0x10 4 .radd ∧ Claims.AmTrapRule .amRadd64 0x11 8 .radd ∧
  Claims.AmTrapRule .amRfadd 0x12 4 .rfadd ∧ Claims.AmTrapRule .amRmax 0x13 4 .rmax ∧ Claims.AmTrapRule .amAcinit 0x14 8 .acinit ∧
  Claims.AmTrapRule .amActake 0x15 8 .actake ∧ Claims.AmTrapRule .amAcgive 0x16 8 .acgive ∧
  Claims.AmTrapRule .amAcread 0x17 8 .acread ∧ Claims.AmTrapRule .amAcpeek 0x18 8 .acpeek ∧ Claims.AmTrapRule .amAcfree 0x19 8 .acfree

/-- loop starts its first issue or skips its body; brk leaves the loop at the end of the iteration, and does nothing outside one; wait
waits on its word; time samples the time stamp; chkerr, gstat and trec deliver their words; icinv and yield wait; dbg asks the debugger.
(R340, R341, R342, R348, R349, R351, R355, R356, R202, R398, R343) -/
def Obligations.LoopsAndStatus : Prop :=
  Claims.LoopRule ∧ Claims.BrkRule ∧ Claims.WaitRule ∧ Claims.TimeRule ∧ Claims.ChkerrRule ∧ Claims.IcinvRule ∧ Claims.GstatRule ∧
  Claims.YieldRule ∧ Claims.TrecRule ∧ Claims.DbgRule

/-- bar, barar, cbar and cbarar wait for their arrival to be performed, or answer INVAL at once at an invalid barrier; barwt waits for the
phase; barinit and cbarinit set a barrier up; barinv and cbarinv complete every wait at it. (R344, R345, R346) -/
def Obligations.Barriers : Prop :=
  Claims.ArriveRule .syBar 0x0C false true ∧ Claims.ArriveRule .syBarar 0x0D false false ∧ Claims.ArriveRule .syCbar 0x11 true true ∧
  Claims.ArriveRule .syCbarar 0x12 true false ∧ Claims.BarwtRule ∧ Claims.BarinitRule .syBarinit 0x0F false ∧
  Claims.BarinitRule .syCbarinit 0x13 true ∧ Claims.BarinvRule .syBarinv 0x10 false ∧ Claims.BarinvRule .syCbarinv 0x14 true

/-- end stops the group with its latches empty; segchk with the right count and signature starts a new segment and raises SEGOK; trap takes
the explicit trap behind its bundle; rfe restores s0 to s7, k0 and the latches from the frame and goes to the resume address. (R350, R352,
R354, R396, R397, R409) -/
def Obligations.EndsChecksAndReturns : Prop :=
  Claims.EndRule ∧ Claims.SegchkRule ∧ Claims.TrapRule ∧ Claims.RfeRule

/-- A trap of a group outside its handler whose area is reached writes frame and record to the group area and enters the handler with the
record in s0 to s7, HANDLER 1, empty latches and interlocked mode, or, with EN = 0, ends the workgroup; in its handler it is a double
fault. IMPRECISE_TRAP_DELIVERY and HELD_TRAP_DELIVERY take the oldest trap at a boundary, and report one of a group that has ended; a fetch
that faults takes the fetch trap; with poison the check point of the group comes first. (R211, R391, R394, R395, R396, R398, R399, R400) -/
def Obligations.TrapEntry : Prop :=
  Claims.EntryRule ∧ Claims.NoHandlerRule ∧ Claims.DoubleRule ∧ Claims.ImpreciseRule ∧ Claims.ImpreciseEndedRule ∧ Claims.HeldRule ∧
  Claims.EntryCheckRule ∧ Claims.FetchTrapRule

/-- A bundle with a precise trap is a check point: without poison the trap is taken; with poison outside a region the workgroup ends with
0x40; inside one the region state is restored while RETRIES is below 2, and with RETRIES = 2 the workgroup ends with 0x52. Restoring gives
every recorded item its value and leaves the registers. (R410, R412, R409) -/
def Obligations.CheckPoints : Prop :=
  Claims.RaiseRule ∧ Claims.PoisonEndRule ∧ Claims.RetryRule ∧ Claims.GiveUpRule ∧ Claims.RestoreRegionRule

/-- BUNDLE_ISSUE executes the bundle of the leader of a slot, and of a group that co-issues it, the two in ascending group entry (log 68).
PAD_ISSUE executes an empty bundle: with empty hold latches it completes with one pad less, behind the last of them with the bundle's
target, sequence or end check, and a group that stops there is stopped. CANDIDATE_PROMOTION marks a candidate that has waited 48 cycles;
YIELD_EXPIRY, FETCH_REDIRECTION_END, TRAP_ENTRY_COMPLETE, GROWTH_COMPLETE, ICINV_COMPLETE and WAIT_TIMEOUT end their wait and change
nothing else. (R192, R194, R211, R219, R221, R335, R343, R348, R355, R356) -/
def Obligations.IssueSteps : Prop :=
  Claims.BundleIssueRule ∧ Claims.CoIssueRule ∧ Claims.PadIssueRule ∧ Claims.EmptyPadRule ∧ Claims.PadStopRule ∧ Claims.PromotionRule ∧
  Claims.YieldExpiryRule ∧ Claims.EndsWait .fetchRedirectionEnd (· == .redirect) ∧
  Claims.EndsWait .trapEntryComplete (· == .trapEntry) ∧ Claims.EndsWait .growthComplete (· == .growth) ∧ Claims.IcinvCompleteRule ∧
  Claims.WaitTimeoutRule

/-- L1_WRITEBACK_GRANT, L1_SNOOP and CXL_CACHE_SNOOP, REGION_INVALIDATION with its acknowledgement, and REGION_MERGE change exactly the
lines and directory entries that R57 and R62 to R65 say. (R57, R62, R64, R65) -/
def Obligations.CacheSteps : Prop :=
  Claims.VictimRule ∧ Claims.SnoopRule ∧ Claims.CxlSnoopRule ∧ Claims.RegionInvalidationRule ∧ Claims.RegionAckRule ∧
  Claims.RegionMergeRule

/-- PAGE_WALK_START starts a walk of the context whose turn it is, after reset that of context 0 first (log 71); PAGE_WALK_COMPLETE answers
every request inside the leaf it finds, or keeps the fault's code for the accesses that missed the page; NOT_RESIDENT_RESOLVED puts the
leaf in the stub's place; FAULTLIMIT_EXPIRY lets the access fail; POOL_RING_PROD_WRITE moves the producer index and lets cores resume. That
the stall and the limit of the core's next fault begin anew when one is over is the model's reading (log 59). (R41, R42, R44, R45, R46,
R47) -/
def Obligations.WalkSteps : Prop :=
  Claims.WalkStartRule ∧ Claims.WalkLeafRule ∧ Claims.WalkFaultRule ∧ Claims.ResidentRule ∧ Claims.FaultlimitRule ∧ Claims.PoolProdRule

/-- COPY_ELEMENT moves one element or ends the workgroup on an uncorrectable error; COPY_PHOBOS_TAKEOVER hands the rest to Phobos, and the
stall of the core's next fault begins (log 59); QUEUE_OP_PERFORMED brings the oldest operation to its queue; PHASE_OPEN_COMPLETE starts a
phase for all its cores together, a broken one for its core alone, and PHASE_TIMEOUT breaks one; BARRIER_ARRIVAL_PERFORMED counts an
arrival. (R105, R311, R315, R322, R324, R328, R346) -/
def Obligations.UnitSteps : Prop :=
  Claims.CopyElementRule ∧ Claims.CopyUeRule ∧ Claims.TakeoverRule ∧ Claims.QueueArrivesRule ∧ Claims.PhaseOpenRule ∧
  Claims.BrokenPhaseRule ∧ Claims.PhaseTimeoutRule ∧ Claims.ArrivalRule

/-- MX_COMMAND_START takes up the oldest command of the core when what its group did before is performed; MX_STEP gives each element of the
step's window its exact sum, rounded once, drains the rows where the step calls for it, or stops the command with the fault of its
operands; MX_COMMAND_COMPLETE frees its slot and starts the next command; MX_OVERTIME stops one that has run 2^22 cycles since the engine
took it up (log 70) with a fault, whose SUB 4 is the model's (log 36); MX_BANK_ZEROED clears a bank. (R104, R360, R371, R372, R373, R377,
R379, R384, R385, R388) -/
def Obligations.MatrixSteps : Prop :=
  Claims.MxStartRule ∧ Claims.MxStepRule ∧ Claims.StepValueRule ∧ Claims.DrainRowRule ∧ Claims.MxStepFaultRule ∧
  Claims.MxCompleteRule ∧ Claims.MxOvertimeRule ∧ Claims.BankZeroedRule

/-- EPOCH_END counts an epoch and clears every count; REPLICA_FILL_COMPLETE makes a copy usable; MIGRATION_EXCHANGE_COMPLETE swaps two
homes; COLLAPSE_REQUEST, COLLAPSE_INVALIDATION and COLLAPSE_ACK make a part SINGLE again; UNIT_MERGE merges a quiet split unit. (R69, R70,
R71, R73, R74) -/
def Obligations.CharonSteps : Prop :=
  Claims.EpochRule ∧ Claims.FillRule ∧ Claims.ExchangeRule ∧ Claims.CollapseRequestRule ∧ Claims.CollapseInvalidationRule ∧
  Claims.CollapseAckRule ∧ Claims.MergeRule

/-- STREAM_ENABLE, STREAM_RESUME, STREAM_SKIP and WRITE_INDEX_ADVANCE change a stream as R175, R176 and R181 say: the record at the read
index becomes the head, or the stream halts with the number of the first check of R177 to R181 that fails (log 71: what counts as behind
for STALE). A stream whose read waits for Phobos goes on once the page is there; LAUNCH_START starts the head record or an attempt that is
queued again, under the version that is next; ARMED_FIRE fires on its comparison, with CONSUME by a store of the device's own;
DEPENDENCE_ABORT ends a record with 0x20. (R119, R127, R135, R136, R175, R176, R177, R178, R179, R180, R181, R184) -/
def Obligations.StreamAndLaunchSteps : Prop :=
  Claims.DisableStreamRule ∧ Claims.EnableStreamRule ∧ Claims.ResumeRule ∧ Claims.SkipRule ∧ Claims.AdvanceRule ∧ Claims.StartRule ∧
  Claims.StartedRule ∧ Claims.RestartRule ∧ Claims.FireRule ∧ Claims.FireConsumeRule ∧ Claims.StreamPageRule ∧ Claims.DependenceRule ∧
  Claims.RingRule ∧ Claims.HeadRule ∧ Claims.RefusalNumbers ∧ Claims.RecordRule ∧ Claims.HeaderRule ∧ Claims.ShapeModeRule ∧
  Claims.ArgsRule

/-- WORKGROUP_CREATE places the next workgroup with the registers of R190; WORKGROUP_RETIRE and LAUNCH_COMPLETE end it and its launch;
GANG_RESERVATION_TIMEOUT, TIME_SLICE_EXPIRY and DRIVER_PREEMPT ask workgroups to go or kill launches; WORKGROUP_SAVE and WORKGROUP_RESTORE
take one out, its image written, and bring it back as it was saved, each group at its new place; what has left a core gives its misses and
faults back; from a save on its launch waits for a core, first come first served (log 67). (R186, R188, R189, R190, R191, R193, R195, R196,
R197, R401, R402) -/
def Obligations.WorkgroupSteps : Prop :=
  Claims.CreateRule ∧ Claims.NewGroupRule ∧ Claims.ReservationRule ∧ Claims.RetireRule ∧ Claims.CompleteRule ∧ Claims.SliceRule ∧
  Claims.DriverPreemptRule ∧ Claims.SaveRule ∧ Claims.ImageRule ∧ Claims.RestoreRule ∧ Claims.QuitCoreRule ∧ Claims.SaveWaitsRule ∧
  Claims.PutBackRule ∧ Claims.ReadBackRule

/-- ATTEMPT_END, TICKET_TAKE (tickets in the order in which attempts end), COMMIT, COMMIT_PREPARE, PREPARE_ACK, COMMIT_RELEASE and
COMPLETION_WORD_WRITE take an attempt in ticket order to its publication and completion word, which waits for its page where that is not
resident (log 46: from the first try); CAPACITY_STALL_RELEASE and TXSTALL_EXPIRY end a stall, the latter with an abort where no frame has
come free; FOLD folds an entry: the bytes that its mask names go to their places in the base page, and every other byte of memory stays;
ATTEMPT_ABORT discards an attempt and queues it again while retries are left. -/
def Obligations.TransactionSteps : Prop :=
  Claims.AttemptEndRule ∧ Claims.TicketRule ∧ Claims.CommitRule ∧ Claims.PrepareRule ∧ Claims.PublishRule ∧ Claims.ReleaseRule ∧
  Claims.CompletionRule ∧ Claims.CompletionPageRule ∧ Claims.StallReleaseRule ∧ Claims.TxstallRule ∧ Claims.TxstallFrameRule ∧
  Claims.FoldRule ∧ Claims.FoldFrameRule ∧ Claims.FoldBytesRule ∧ Claims.TicketWaitsRule ∧ Claims.AbortRule ∧ Claims.AbortNtxnRule

/-- COVERED_REQUEST executes a request once and repeats a kept answer, and the answer to a peer's request leaves for it; COVERED_RESPONSE
ends an operation once; the timers retransmit, give up and end it; notices retire results; old packets are dropped; HOME_RESTART,
INCARNATION_UPDATE and ROUTING_BRING_UP keep the incarnations. (R141, R149, R151, R152, R153, R154, R155) -/
def Obligations.CoveredOperationsSteps : Prop :=
  Claims.RepeatRule ∧ Claims.ExecuteRule ∧ Claims.KeptRule ∧ Claims.ResponseRule ∧ Claims.ReplyRule ∧ Claims.BusyAnswerRule ∧
  Claims.RetransmitRule ∧ Claims.TimeoutRule ∧ Claims.QuietRule ∧ Claims.NoticeTimerRule ∧ Claims.NoticeRule ∧ Claims.EntryRetireRule ∧
  Claims.AgeRule ∧ Claims.HomeRestartRule ∧ Claims.IncarnationRule ∧ Claims.PeerIncarnationRule ∧ Claims.BringUpRule

/-- COUNTER_GRANT_REQUEST grants from the reserve or performs a take at the home; COUNTER_GRANT hands a grant to the asking core;
COUNTER_RECALL sends an allowance home and halves its grant size; COUNTER_RETURN adds it to the reserve, saturating at 2^63 − 1;
COUNTER_POISONED poisons; a take that the core's allowance covers is served there. (R163, R164, R165, R166, R168, R172, R173) -/
def Obligations.CounterSteps : Prop :=
  Claims.GrantRule ∧ Claims.HomeTakeRule ∧ Claims.TakeGrantRule ∧ Claims.RefillRule ∧ Claims.RecallRule ∧ Claims.RecallCoreRule ∧
  Claims.ReturnRule ∧ Claims.ReturnSendRule ∧ Claims.SaturateRule ∧ Claims.PoisonRule ∧ Claims.CoreTakeRule

/-- CONTEXT_ENABLE and CONTEXT_DISABLE take effect as R12 and R144 say; DROP_COMMAND and DROP_ACK_TIMEOUT end what a slice or peer owes,
and a peer's drop command what this device's slices keep of it; REGISTER_WRITE takes the fields that may be written; export entries are
locked while V is 1; TIMEADJ, TIMESET, PPS_EDGE and HOLDOVER keep the clock; a pulse half way between two seconds belongs to the one before
(log 31). (R12, R43, R118, R144, R418, R420) -/
def Obligations.ContextAndRegisterSteps : Prop :=
  Claims.EnableRule ∧ Claims.HeldEnableRule ∧ Claims.DisableRule ∧ Claims.DropRule ∧ Claims.PeerDropRule ∧ Claims.DropTimeoutRule ∧
  Claims.RegisterRule ∧ Claims.ExportRule ∧ Claims.ClockRule

/-- INVALIDATE_VA_RANGE, INVALIDATE_CONTEXT, FREE_FRAME_RANGE, CHECKPOINT, DEBUG_STOP, DEBUG_RESUME and ATTEST run while the block is free;
COMMAND_COMPLETE ends one; FIRMWARE_BOOT and RECOVERY_IMAGE start the dies with a signed image that is not too old. That a context with a
stopped group has a debugger is log 3, that its edits take effect at the resume log 54, how AUX names a group and how host buffers, records
and reports are laid out log 31. (R43, R79, R154, R407, R421, R422, R424, R426) -/
def Obligations.CommandSteps : Prop :=
  Claims.InvalidateRule ∧ Claims.FreeRule ∧ Claims.CheckpointRule ∧ Claims.DebugRule ∧ Claims.DebugWriteRule ∧ Claims.AttestRule ∧
  Claims.CommandDoneRule ∧ Claims.BootRule ∧ Claims.BootIncsRule

/-- MASTER_FREEZE freezes and reports, and each reset unfreezes its master; HOST_ACCESS, PEER_REQUEST and CXL_MEM_ACCESS are performed when
admitted, each source's in order; LINK_PORT_FAILURE, FLIT_REPLAY and LINK_FLOW_CONTROL change their ports; DEVICE_RESET, POWER_GATING and
THERMAL_LIMIT do what R155, R199 and R427 say. What a function's windows hold and where its aperture begins is log 31, the queue of
accesses from outside log 48, that incarnations count on at a device reset log 32. (R109, R155, R199, R413, R415, R416, R418, R423, R427)
-/
def Obligations.IsolationAndPlatformSteps : Prop :=
  Claims.FreezeRule ∧ Claims.UnfreezeRule ∧ Claims.HostRule ∧ Claims.PeerRule ∧ Claims.ExtWriteRule ∧ Claims.ExtAccessRule ∧
  Claims.CxlRule ∧ Claims.PortFailureRule ∧ Claims.MeshFailureRule ∧ Claims.ReplayRule ∧ Claims.FlowRule ∧ Claims.PartitionRule ∧
  Claims.ResetRule ∧ Claims.ThermalRule

/-- Steps that are refused, wait, come too early or fail, and what they leave: an epoch's end before its time; a stream that is not halted;
an armed record whose comparison fails; a save or restore whose image fails; a commit that waits, conflicts or meets an uncorrectable error
of an overlay frame; an abort behind older tickets; a completion word whose page is absent; contexts whose enable or disable is not
possible yet; commands while the block is busy or for what is not there; an image that may not boot; host and peer accesses that are not
admitted, or that their owner refuses; covered requests that are stale, malformed, held or find no room, and responses that come late. That
an error of an overlay frame is found at the attempt's next step is log 27, what a function's windows hold log 31, which launches are a
context's work log 47. -/
def Obligations.StepsRefusedOrHeld : Prop :=
  Claims.EpochEarlyRule ∧ Claims.NotHaltedRule ∧ Claims.NotFiredRule ∧ Claims.SaveStopsRule ∧ Claims.RestoreFailsRule ∧
  Claims.CommitWaitsRule ∧ Claims.ConflictRule ∧ Claims.FrameErrorRule ∧ Claims.AbortWaitsRule ∧ Claims.CompletionWaitsRule ∧
  Claims.EnableHeldRule ∧ Claims.HeldEnableEarlyRule ∧ Claims.DisableBusyRule ∧ Claims.BusyCommandRule ∧ Claims.FreeRefusedRule ∧
  Claims.DebugNoneRule ∧ Claims.BootRefusedRule ∧ Claims.HostRefusedRule ∧ Claims.PeerRefusedRule ∧ Claims.RefusedAccessRule ∧
  Claims.StaleRequestRule ∧ Claims.ReservedRequestRule ∧ Claims.HoldRule ∧ Claims.BusyRule ∧ Claims.LateResponseRule
end

