-- ==== Sys2Proof/Laws/Exec.lean ====
section
/-!
SUPPORT. Exec: what exec of an instruction with an encoding is: the issue of its move, alone on bus 0.
-/

namespace Sys2Proof.Machine

/-- Every instruction with an encoding is the issue of a bundle of that one move. -/
theorem exec_of_move (i : Instr) (m : Mv) (d : BitVec 12) (s : State) (hm : i.mv? = some m) (hd : i.dest? = some d) :
    exec i s = issueOne d m s := by
  cases i <;> cases hm <;> cases hd <;> rfl

/-- The step takes the head of the agenda. -/
theorem step_cons (s : State) (x : Sched) (rest : List Sched) (h : s.agenda = x :: rest) :
    step s = exec x.ev (({ s with agenda := rest } : State).pass x.dt) := by
  unfold step
  rw [h]

/-- With nothing on the agenda the default schedule's step runs. -/
theorem step_nil (s : State) (h : s.agenda = []) : step s = autoStep s := by
  unfold step
  rw [h]

end Sys2Proof.Machine
end

