-- ==== Sys2Proof/Laws/State.lean ====
section
/-!
SUPPORT. State: finding a part of the state after a part of it has changed.
-/

namespace Sys2Proof.Machine

/-! ### Lists -/

theorem upd_upd {α : Type} (p : α → Bool) (f h : α → α) (hp : ∀ x, p x = true → p (f x) = true) (l : List α) :
    upd p h (upd p f l) = upd p (fun x => h (f x)) l := by
  simp only [upd, List.map_map]
  refine List.map_congr_left fun x _ => ?_
  by_cases hx : p x = true <;> simp [hx, hp x, Function.comp]

theorem find?_upd {α : Type} (p : α → Bool) (f : α → α) (hp : ∀ x, p x = true → p (f x) = true) (l : List α) :
    (upd p f l).find? p = (l.find? p).map f := by
  induction l with
  | nil => rfl
  | cons x xs ih =>
    unfold upd at ih ⊢
    by_cases hx : p x = true
    · simp [hx, hp]
    · simp [hx, ih]

theorem find?_upd_ne {α : Type} (p q : α → Bool) (f : α → α) (hq : ∀ x, q (f x) = q x) (h : ∀ x, q x = true → p x = false)
    (l : List α) : (upd p f l).find? q = l.find? q := by
  induction l with
  | nil => rfl
  | cons x xs ih =>
    unfold upd at ih ⊢
    by_cases hx : q x = true
    · have := h x hx
      simp [this, hx]
    · by_cases hpx : p x = true <;> simp [hpx, hq, hx, ih]

/-! ### Groups -/

theorem modWg_modWg (s : State) (wid : Nat) (f h : Workgroup → Workgroup) (hf : ∀ w, (f w).wid = w.wid) :
    (s.modWg wid f).modWg wid h = s.modWg wid fun w => h (f w) := by
  have hw := upd_upd (fun w : Workgroup => w.wid == wid) f h (fun w hw => by simpa [hf] using hw) s.wgs
  exact congrArg (fun ws => ({ s with wgs := ws } : State)) hw

theorem wg_modGroup_modGroup (w : Workgroup) (gi : Nat) (f h : Group → Group) (hf : ∀ x : Group, x.gi = gi → (f x).gi = gi) :
    (w.modGroup gi f).modGroup gi h = w.modGroup gi fun x => h (f x) := by
  have hw := upd_upd (fun x : Group => x.gi == gi) f h (fun x hx => by simpa using hf x (by simpa using hx)) w.groups
  exact congrArg (fun gs => ({ w with groups := gs } : Workgroup)) hw

theorem modGroup_modGroup (s : State) (r : GRef) (f h : Group → Group) (hf : ∀ x : Group, x.gi = r.gi → (f x).gi = r.gi) :
    (s.modGroup r f).modGroup r h = s.modGroup r fun x => h (f x) := by
  unfold State.modGroup
  rw [modWg_modWg s r.wg (fun w => w.modGroup r.gi f) _ (fun _ => rfl)]
  congr 1
  funext w
  exact wg_modGroup_modGroup w r.gi f h hf

/-- A group that is replaced twice is replaced by the second. -/
theorem modGroup_setGroup (s : State) (r : GRef) (a : Group) (h : Group → Group) (ha : a.gi = r.gi) :
    (s.setGroup r a).modGroup r h = s.setGroup r (h a) := by
  unfold State.setGroup
  rw [modGroup_modGroup _ _ _ _ (fun _ _ => ha)]

theorem wg?_modWg (s : State) (wid : Nat) (f : Workgroup → Workgroup) (hf : ∀ w, (f w).wid = w.wid) :
    (s.modWg wid f).wg? wid = (s.wg? wid).map f :=
  find?_upd _ f (fun w h => by simpa [hf] using h) _

theorem wg_group?_modGroup (w : Workgroup) (gi : Nat) (f : Group → Group) (hf : ∀ x : Group, x.gi = gi → (f x).gi = gi) :
    (w.modGroup gi f).group? gi = (w.group? gi).map f :=
  find?_upd _ f (fun x hx => by simpa using hf x (by simpa using hx)) _

theorem group?_modGroup (s : State) (r : GRef) (f : Group → Group) (hf : ∀ x : Group, x.gi = r.gi → (f x).gi = r.gi) :
    (s.modGroup r f).group? r = (s.group? r).map f := by
  unfold State.group? State.modGroup
  rw [wg?_modWg s r.wg (fun w => w.modGroup r.gi f) (fun _ => rfl)]
  cases s.wg? r.wg with
  | none => rfl
  | some w => exact wg_group?_modGroup w r.gi f hf

theorem group?_setGroup (s : State) (r : GRef) (a g : Group) (hg : s.group? r = some g) (ha : a.gi = r.gi) :
    (s.setGroup r a).group? r = some a := by
  unfold State.setGroup
  rw [group?_modGroup _ _ _ (fun _ _ => ha), hg]
  rfl

/-- A change of a group leaves every part of the state but the workgroups. -/
theorem modGroup_keeps {β : Type} (p : State → β) (hp : ∀ s ws, p { s with wgs := ws } = p s) (s : State) (r : GRef)
    (f : Group → Group) : p (s.modGroup r f) = p s := hp _ _

end Sys2Proof.Machine
end

