-- ==== Sys2Proof/Laws/Fields.lean ====
section
/-!
SUPPORT. Fields: what each change of a part of the state leaves of every other field.
-/

namespace Sys2Proof.Machine

/-! ### modWg -/

@[simp] theorem State.modWg_agenda (s : State) (wid : Nat) (f : Workgroup → Workgroup) : (s.modWg wid f).agenda = s.agenda := rfl
@[simp] theorem State.modWg_time (s : State) (wid : Nat) (f : Workgroup → Workgroup) : (s.modWg wid f).time = s.time := rfl
@[simp] theorem State.modWg_clock (s : State) (wid : Nat) (f : Workgroup → Workgroup) : (s.modWg wid f).clock = s.clock := rfl
@[simp] theorem State.modWg_clocked (s : State) (wid : Nat) (f : Workgroup → Workgroup) : (s.modWg wid f).clocked = s.clocked := rfl
@[simp] theorem State.modWg_draws (s : State) (wid : Nat) (f : Workgroup → Workgroup) : (s.modWg wid f).draws = s.draws := rfl
@[simp] theorem State.modWg_plat (s : State) (wid : Nat) (f : Workgroup → Workgroup) : (s.modWg wid f).plat = s.plat := rfl
@[simp] theorem State.modWg_cmd (s : State) (wid : Nat) (f : Workgroup → Workgroup) : (s.modWg wid f).cmd = s.cmd := rfl
@[simp] theorem State.modWg_irqs (s : State) (wid : Nat) (f : Workgroup → Workgroup) : (s.modWg wid f).irqs = s.irqs := rfl
@[simp] theorem State.modWg_log (s : State) (wid : Nat) (f : Workgroup → Workgroup) : (s.modWg wid f).log = s.log := rfl
@[simp] theorem State.modWg_reports (s : State) (wid : Nat) (f : Workgroup → Workgroup) : (s.modWg wid f).reports = s.reports := rfl
@[simp] theorem State.modWg_mem (s : State) (wid : Nat) (f : Workgroup → Workgroup) : (s.modWg wid f).mem = s.mem := rfl
@[simp] theorem State.modWg_badLines (s : State) (wid : Nat) (f : Workgroup → Workgroup) : (s.modWg wid f).badLines = s.badLines := rfl
@[simp] theorem State.modWg_refusing (s : State) (wid : Nat) (f : Workgroup → Workgroup) : (s.modWg wid f).refusing = s.refusing := rfl
@[simp] theorem State.modWg_rawUnits (s : State) (wid : Nat) (f : Workgroup → Workgroup) : (s.modWg wid f).rawUnits = s.rawUnits := rfl
@[simp] theorem State.modWg_unitKeys (s : State) (wid : Nat) (f : Workgroup → Workgroup) : (s.modWg wid f).unitKeys = s.unitKeys := rfl
@[simp] theorem State.modWg_contexts (s : State) (wid : Nat) (f : Workgroup → Workgroup) : (s.modWg wid f).contexts = s.contexts := rfl
@[simp] theorem State.modWg_streams (s : State) (wid : Nat) (f : Workgroup → Workgroup) : (s.modWg wid f).streams = s.streams := rfl
@[simp] theorem State.modWg_launches (s : State) (wid : Nat) (f : Workgroup → Workgroup) : (s.modWg wid f).launches = s.launches := rfl
@[simp] theorem State.modWg_nextLid (s : State) (wid : Nat) (f : Workgroup → Workgroup) : (s.modWg wid f).nextLid = s.nextLid := rfl
@[simp] theorem State.modWg_nextWid (s : State) (wid : Nat) (f : Workgroup → Workgroup) : (s.modWg wid f).nextWid = s.nextWid := rfl
@[simp] theorem State.modWg_gangs (s : State) (wid : Nat) (f : Workgroup → Workgroup) : (s.modWg wid f).gangs = s.gangs := rfl
@[simp] theorem State.modWg_phases (s : State) (wid : Nat) (f : Workgroup → Workgroup) : (s.modWg wid f).phases = s.phases := rfl
@[simp] theorem State.modWg_nextPid (s : State) (wid : Nat) (f : Workgroup → Workgroup) : (s.modWg wid f).nextPid = s.nextPid := rfl
@[simp] theorem State.modWg_cores (s : State) (wid : Nat) (f : Workgroup → Workgroup) : (s.modWg wid f).cores = s.cores := rfl
@[simp] theorem State.modWg_walks (s : State) (wid : Nat) (f : Workgroup → Workgroup) : (s.modWg wid f).walks = s.walks := rfl
@[simp] theorem State.modWg_nonLeaf (s : State) (wid : Nat) (f : Workgroup → Workgroup) : (s.modWg wid f).nonLeaf = s.nonLeaf := rfl
@[simp] theorem State.modWg_lastWalkCtx (s : State) (wid : Nat) (f : Workgroup → Workgroup) : (s.modWg wid f).lastWalkCtx = s.lastWalkCtx := rfl
@[simp] theorem State.modWg_l2 (s : State) (wid : Nat) (f : Workgroup → Workgroup) : (s.modWg wid f).l2 = s.l2 := rfl
@[simp] theorem State.modWg_selectors (s : State) (wid : Nat) (f : Workgroup → Workgroup) : (s.modWg wid f).selectors = s.selectors := rfl
@[simp] theorem State.modWg_regions (s : State) (wid : Nat) (f : Workgroup → Workgroup) : (s.modWg wid f).regions = s.regions := rfl
@[simp] theorem State.modWg_regionInvals (s : State) (wid : Nat) (f : Workgroup → Workgroup) : (s.modWg wid f).regionInvals = s.regionInvals := rfl
@[simp] theorem State.modWg_parts (s : State) (wid : Nat) (f : Workgroup → Workgroup) : (s.modWg wid f).parts = s.parts := rfl
@[simp] theorem State.modWg_units (s : State) (wid : Nat) (f : Workgroup → Workgroup) : (s.modWg wid f).units = s.units := rfl
@[simp] theorem State.modWg_leafWalks (s : State) (wid : Nat) (f : Workgroup → Workgroup) : (s.modWg wid f).leafWalks = s.leafWalks := rfl
@[simp] theorem State.modWg_frees (s : State) (wid : Nat) (f : Workgroup → Workgroup) : (s.modWg wid f).frees = s.frees := rfl
@[simp] theorem State.modWg_epoch (s : State) (wid : Nat) (f : Workgroup → Workgroup) : (s.modWg wid f).epoch = s.epoch := rfl
@[simp] theorem State.modWg_walkCount (s : State) (wid : Nat) (f : Workgroup → Workgroup) : (s.modWg wid f).walkCount = s.walkCount := rfl
@[simp] theorem State.modWg_reserveUsed (s : State) (wid : Nat) (f : Workgroup → Workgroup) : (s.modWg wid f).reserveUsed = s.reserveUsed := rfl
@[simp] theorem State.modWg_overlays (s : State) (wid : Nat) (f : Workgroup → Workgroup) : (s.modWg wid f).overlays = s.overlays := rfl
@[simp] theorem State.modWg_stalls (s : State) (wid : Nat) (f : Workgroup → Workgroup) : (s.modWg wid f).stalls = s.stalls := rfl
@[simp] theorem State.modWg_early (s : State) (wid : Nat) (f : Workgroup → Workgroup) : (s.modWg wid f).early = s.early := rfl
@[simp] theorem State.modWg_covOps (s : State) (wid : Nat) (f : Workgroup → Workgroup) : (s.modWg wid f).covOps = s.covOps := rfl
@[simp] theorem State.modWg_packets (s : State) (wid : Nat) (f : Workgroup → Workgroup) : (s.modWg wid f).packets = s.packets := rfl
@[simp] theorem State.modWg_nextPkt (s : State) (wid : Nat) (f : Workgroup → Workgroup) : (s.modWg wid f).nextPkt = s.nextPkt := rfl
@[simp] theorem State.modWg_results (s : State) (wid : Nat) (f : Workgroup → Workgroup) : (s.modWg wid f).results = s.results := rfl
@[simp] theorem State.modWg_holds (s : State) (wid : Nat) (f : Workgroup → Workgroup) : (s.modWg wid f).holds = s.holds := rfl
@[simp] theorem State.modWg_dieTracked (s : State) (wid : Nat) (f : Workgroup → Workgroup) : (s.modWg wid f).dieTracked = s.dieTracked := rfl
@[simp] theorem State.modWg_incs (s : State) (wid : Nat) (f : Workgroup → Workgroup) : (s.modWg wid f).incs = s.incs := rfl
@[simp] theorem State.modWg_incTable (s : State) (wid : Nat) (f : Workgroup → Workgroup) : (s.modWg wid f).incTable = s.incTable := rfl
@[simp] theorem State.modWg_peerIncs (s : State) (wid : Nat) (f : Workgroup → Workgroup) : (s.modWg wid f).peerIncs = s.peerIncs := rfl
@[simp] theorem State.modWg_counters (s : State) (wid : Nat) (f : Workgroup → Workgroup) : (s.modWg wid f).counters = s.counters := rfl
@[simp] theorem State.modWg_takes (s : State) (wid : Nat) (f : Workgroup → Workgroup) : (s.modWg wid f).takes = s.takes := rfl
@[simp] theorem State.modWg_peerOps (s : State) (wid : Nat) (f : Workgroup → Workgroup) : (s.modWg wid f).peerOps = s.peerOps := rfl
@[simp] theorem State.modWg_peerSeqs (s : State) (wid : Nat) (f : Workgroup → Workgroup) : (s.modWg wid f).peerSeqs = s.peerSeqs := rfl
@[simp] theorem State.modWg_vfs (s : State) (wid : Nat) (f : Workgroup → Workgroup) : (s.modWg wid f).vfs = s.vfs := rfl
@[simp] theorem State.modWg_ports (s : State) (wid : Nat) (f : Workgroup → Workgroup) : (s.modWg wid f).ports = s.ports := rfl
@[simp] theorem State.modWg_routes (s : State) (wid : Nat) (f : Workgroup → Workgroup) : (s.modWg wid f).routes = s.routes := rfl
@[simp] theorem State.modWg_exports (s : State) (wid : Nat) (f : Workgroup → Workgroup) : (s.modWg wid f).exports = s.exports := rfl
@[simp] theorem State.modWg_frozenPeers (s : State) (wid : Nat) (f : Workgroup → Workgroup) : (s.modWg wid f).frozenPeers = s.frozenPeers := rfl
@[simp] theorem State.modWg_extQueue (s : State) (wid : Nat) (f : Workgroup → Workgroup) : (s.modWg wid f).extQueue = s.extQueue := rfl
@[simp] theorem State.modWg_goCount (s : State) (wid : Nat) (f : Workgroup → Workgroup) : (s.modWg wid f).goCount = s.goCount := rfl

/-! ### modGroup -/

@[simp] theorem State.modGroup_agenda (s : State) (r : GRef) (f : Group → Group) : (s.modGroup r f).agenda = s.agenda := rfl
@[simp] theorem State.modGroup_time (s : State) (r : GRef) (f : Group → Group) : (s.modGroup r f).time = s.time := rfl
@[simp] theorem State.modGroup_clock (s : State) (r : GRef) (f : Group → Group) : (s.modGroup r f).clock = s.clock := rfl
@[simp] theorem State.modGroup_clocked (s : State) (r : GRef) (f : Group → Group) : (s.modGroup r f).clocked = s.clocked := rfl
@[simp] theorem State.modGroup_draws (s : State) (r : GRef) (f : Group → Group) : (s.modGroup r f).draws = s.draws := rfl
@[simp] theorem State.modGroup_plat (s : State) (r : GRef) (f : Group → Group) : (s.modGroup r f).plat = s.plat := rfl
@[simp] theorem State.modGroup_cmd (s : State) (r : GRef) (f : Group → Group) : (s.modGroup r f).cmd = s.cmd := rfl
@[simp] theorem State.modGroup_irqs (s : State) (r : GRef) (f : Group → Group) : (s.modGroup r f).irqs = s.irqs := rfl
@[simp] theorem State.modGroup_log (s : State) (r : GRef) (f : Group → Group) : (s.modGroup r f).log = s.log := rfl
@[simp] theorem State.modGroup_reports (s : State) (r : GRef) (f : Group → Group) : (s.modGroup r f).reports = s.reports := rfl
@[simp] theorem State.modGroup_mem (s : State) (r : GRef) (f : Group → Group) : (s.modGroup r f).mem = s.mem := rfl
@[simp] theorem State.modGroup_badLines (s : State) (r : GRef) (f : Group → Group) : (s.modGroup r f).badLines = s.badLines := rfl
@[simp] theorem State.modGroup_refusing (s : State) (r : GRef) (f : Group → Group) : (s.modGroup r f).refusing = s.refusing := rfl
@[simp] theorem State.modGroup_rawUnits (s : State) (r : GRef) (f : Group → Group) : (s.modGroup r f).rawUnits = s.rawUnits := rfl
@[simp] theorem State.modGroup_unitKeys (s : State) (r : GRef) (f : Group → Group) : (s.modGroup r f).unitKeys = s.unitKeys := rfl
@[simp] theorem State.modGroup_contexts (s : State) (r : GRef) (f : Group → Group) : (s.modGroup r f).contexts = s.contexts := rfl
@[simp] theorem State.modGroup_streams (s : State) (r : GRef) (f : Group → Group) : (s.modGroup r f).streams = s.streams := rfl
@[simp] theorem State.modGroup_launches (s : State) (r : GRef) (f : Group → Group) : (s.modGroup r f).launches = s.launches := rfl
@[simp] theorem State.modGroup_nextLid (s : State) (r : GRef) (f : Group → Group) : (s.modGroup r f).nextLid = s.nextLid := rfl
@[simp] theorem State.modGroup_nextWid (s : State) (r : GRef) (f : Group → Group) : (s.modGroup r f).nextWid = s.nextWid := rfl
@[simp] theorem State.modGroup_gangs (s : State) (r : GRef) (f : Group → Group) : (s.modGroup r f).gangs = s.gangs := rfl
@[simp] theorem State.modGroup_phases (s : State) (r : GRef) (f : Group → Group) : (s.modGroup r f).phases = s.phases := rfl
@[simp] theorem State.modGroup_nextPid (s : State) (r : GRef) (f : Group → Group) : (s.modGroup r f).nextPid = s.nextPid := rfl
@[simp] theorem State.modGroup_cores (s : State) (r : GRef) (f : Group → Group) : (s.modGroup r f).cores = s.cores := rfl
@[simp] theorem State.modGroup_walks (s : State) (r : GRef) (f : Group → Group) : (s.modGroup r f).walks = s.walks := rfl
@[simp] theorem State.modGroup_nonLeaf (s : State) (r : GRef) (f : Group → Group) : (s.modGroup r f).nonLeaf = s.nonLeaf := rfl
@[simp] theorem State.modGroup_lastWalkCtx (s : State) (r : GRef) (f : Group → Group) : (s.modGroup r f).lastWalkCtx = s.lastWalkCtx := rfl
@[simp] theorem State.modGroup_l2 (s : State) (r : GRef) (f : Group → Group) : (s.modGroup r f).l2 = s.l2 := rfl
@[simp] theorem State.modGroup_selectors (s : State) (r : GRef) (f : Group → Group) : (s.modGroup r f).selectors = s.selectors := rfl
@[simp] theorem State.modGroup_regions (s : State) (r : GRef) (f : Group → Group) : (s.modGroup r f).regions = s.regions := rfl
@[simp] theorem State.modGroup_regionInvals (s : State) (r : GRef) (f : Group → Group) : (s.modGroup r f).regionInvals = s.regionInvals := rfl
@[simp] theorem State.modGroup_parts (s : State) (r : GRef) (f : Group → Group) : (s.modGroup r f).parts = s.parts := rfl
@[simp] theorem State.modGroup_units (s : State) (r : GRef) (f : Group → Group) : (s.modGroup r f).units = s.units := rfl
@[simp] theorem State.modGroup_leafWalks (s : State) (r : GRef) (f : Group → Group) : (s.modGroup r f).leafWalks = s.leafWalks := rfl
@[simp] theorem State.modGroup_frees (s : State) (r : GRef) (f : Group → Group) : (s.modGroup r f).frees = s.frees := rfl
@[simp] theorem State.modGroup_epoch (s : State) (r : GRef) (f : Group → Group) : (s.modGroup r f).epoch = s.epoch := rfl
@[simp] theorem State.modGroup_walkCount (s : State) (r : GRef) (f : Group → Group) : (s.modGroup r f).walkCount = s.walkCount := rfl
@[simp] theorem State.modGroup_reserveUsed (s : State) (r : GRef) (f : Group → Group) : (s.modGroup r f).reserveUsed = s.reserveUsed := rfl
@[simp] theorem State.modGroup_overlays (s : State) (r : GRef) (f : Group → Group) : (s.modGroup r f).overlays = s.overlays := rfl
@[simp] theorem State.modGroup_stalls (s : State) (r : GRef) (f : Group → Group) : (s.modGroup r f).stalls = s.stalls := rfl
@[simp] theorem State.modGroup_early (s : State) (r : GRef) (f : Group → Group) : (s.modGroup r f).early = s.early := rfl
@[simp] theorem State.modGroup_covOps (s : State) (r : GRef) (f : Group → Group) : (s.modGroup r f).covOps = s.covOps := rfl
@[simp] theorem State.modGroup_packets (s : State) (r : GRef) (f : Group → Group) : (s.modGroup r f).packets = s.packets := rfl
@[simp] theorem State.modGroup_nextPkt (s : State) (r : GRef) (f : Group → Group) : (s.modGroup r f).nextPkt = s.nextPkt := rfl
@[simp] theorem State.modGroup_results (s : State) (r : GRef) (f : Group → Group) : (s.modGroup r f).results = s.results := rfl
@[simp] theorem State.modGroup_holds (s : State) (r : GRef) (f : Group → Group) : (s.modGroup r f).holds = s.holds := rfl
@[simp] theorem State.modGroup_dieTracked (s : State) (r : GRef) (f : Group → Group) : (s.modGroup r f).dieTracked = s.dieTracked := rfl
@[simp] theorem State.modGroup_incs (s : State) (r : GRef) (f : Group → Group) : (s.modGroup r f).incs = s.incs := rfl
@[simp] theorem State.modGroup_incTable (s : State) (r : GRef) (f : Group → Group) : (s.modGroup r f).incTable = s.incTable := rfl
@[simp] theorem State.modGroup_peerIncs (s : State) (r : GRef) (f : Group → Group) : (s.modGroup r f).peerIncs = s.peerIncs := rfl
@[simp] theorem State.modGroup_counters (s : State) (r : GRef) (f : Group → Group) : (s.modGroup r f).counters = s.counters := rfl
@[simp] theorem State.modGroup_takes (s : State) (r : GRef) (f : Group → Group) : (s.modGroup r f).takes = s.takes := rfl
@[simp] theorem State.modGroup_peerOps (s : State) (r : GRef) (f : Group → Group) : (s.modGroup r f).peerOps = s.peerOps := rfl
@[simp] theorem State.modGroup_peerSeqs (s : State) (r : GRef) (f : Group → Group) : (s.modGroup r f).peerSeqs = s.peerSeqs := rfl
@[simp] theorem State.modGroup_vfs (s : State) (r : GRef) (f : Group → Group) : (s.modGroup r f).vfs = s.vfs := rfl
@[simp] theorem State.modGroup_ports (s : State) (r : GRef) (f : Group → Group) : (s.modGroup r f).ports = s.ports := rfl
@[simp] theorem State.modGroup_routes (s : State) (r : GRef) (f : Group → Group) : (s.modGroup r f).routes = s.routes := rfl
@[simp] theorem State.modGroup_exports (s : State) (r : GRef) (f : Group → Group) : (s.modGroup r f).exports = s.exports := rfl
@[simp] theorem State.modGroup_frozenPeers (s : State) (r : GRef) (f : Group → Group) : (s.modGroup r f).frozenPeers = s.frozenPeers := rfl
@[simp] theorem State.modGroup_extQueue (s : State) (r : GRef) (f : Group → Group) : (s.modGroup r f).extQueue = s.extQueue := rfl
@[simp] theorem State.modGroup_goCount (s : State) (r : GRef) (f : Group → Group) : (s.modGroup r f).goCount = s.goCount := rfl

/-! ### setGroup -/

@[simp] theorem State.setGroup_agenda (s : State) (r : GRef) (g : Group) : (s.setGroup r g).agenda = s.agenda := rfl
@[simp] theorem State.setGroup_time (s : State) (r : GRef) (g : Group) : (s.setGroup r g).time = s.time := rfl
@[simp] theorem State.setGroup_clock (s : State) (r : GRef) (g : Group) : (s.setGroup r g).clock = s.clock := rfl
@[simp] theorem State.setGroup_clocked (s : State) (r : GRef) (g : Group) : (s.setGroup r g).clocked = s.clocked := rfl
@[simp] theorem State.setGroup_draws (s : State) (r : GRef) (g : Group) : (s.setGroup r g).draws = s.draws := rfl
@[simp] theorem State.setGroup_plat (s : State) (r : GRef) (g : Group) : (s.setGroup r g).plat = s.plat := rfl
@[simp] theorem State.setGroup_cmd (s : State) (r : GRef) (g : Group) : (s.setGroup r g).cmd = s.cmd := rfl
@[simp] theorem State.setGroup_irqs (s : State) (r : GRef) (g : Group) : (s.setGroup r g).irqs = s.irqs := rfl
@[simp] theorem State.setGroup_log (s : State) (r : GRef) (g : Group) : (s.setGroup r g).log = s.log := rfl
@[simp] theorem State.setGroup_reports (s : State) (r : GRef) (g : Group) : (s.setGroup r g).reports = s.reports := rfl
@[simp] theorem State.setGroup_mem (s : State) (r : GRef) (g : Group) : (s.setGroup r g).mem = s.mem := rfl
@[simp] theorem State.setGroup_badLines (s : State) (r : GRef) (g : Group) : (s.setGroup r g).badLines = s.badLines := rfl
@[simp] theorem State.setGroup_refusing (s : State) (r : GRef) (g : Group) : (s.setGroup r g).refusing = s.refusing := rfl
@[simp] theorem State.setGroup_rawUnits (s : State) (r : GRef) (g : Group) : (s.setGroup r g).rawUnits = s.rawUnits := rfl
@[simp] theorem State.setGroup_unitKeys (s : State) (r : GRef) (g : Group) : (s.setGroup r g).unitKeys = s.unitKeys := rfl
@[simp] theorem State.setGroup_contexts (s : State) (r : GRef) (g : Group) : (s.setGroup r g).contexts = s.contexts := rfl
@[simp] theorem State.setGroup_streams (s : State) (r : GRef) (g : Group) : (s.setGroup r g).streams = s.streams := rfl
@[simp] theorem State.setGroup_launches (s : State) (r : GRef) (g : Group) : (s.setGroup r g).launches = s.launches := rfl
@[simp] theorem State.setGroup_nextLid (s : State) (r : GRef) (g : Group) : (s.setGroup r g).nextLid = s.nextLid := rfl
@[simp] theorem State.setGroup_nextWid (s : State) (r : GRef) (g : Group) : (s.setGroup r g).nextWid = s.nextWid := rfl
@[simp] theorem State.setGroup_gangs (s : State) (r : GRef) (g : Group) : (s.setGroup r g).gangs = s.gangs := rfl
@[simp] theorem State.setGroup_phases (s : State) (r : GRef) (g : Group) : (s.setGroup r g).phases = s.phases := rfl
@[simp] theorem State.setGroup_nextPid (s : State) (r : GRef) (g : Group) : (s.setGroup r g).nextPid = s.nextPid := rfl
@[simp] theorem State.setGroup_cores (s : State) (r : GRef) (g : Group) : (s.setGroup r g).cores = s.cores := rfl
@[simp] theorem State.setGroup_walks (s : State) (r : GRef) (g : Group) : (s.setGroup r g).walks = s.walks := rfl
@[simp] theorem State.setGroup_nonLeaf (s : State) (r : GRef) (g : Group) : (s.setGroup r g).nonLeaf = s.nonLeaf := rfl
@[simp] theorem State.setGroup_lastWalkCtx (s : State) (r : GRef) (g : Group) : (s.setGroup r g).lastWalkCtx = s.lastWalkCtx := rfl
@[simp] theorem State.setGroup_l2 (s : State) (r : GRef) (g : Group) : (s.setGroup r g).l2 = s.l2 := rfl
@[simp] theorem State.setGroup_selectors (s : State) (r : GRef) (g : Group) : (s.setGroup r g).selectors = s.selectors := rfl
@[simp] theorem State.setGroup_regions (s : State) (r : GRef) (g : Group) : (s.setGroup r g).regions = s.regions := rfl
@[simp] theorem State.setGroup_regionInvals (s : State) (r : GRef) (g : Group) : (s.setGroup r g).regionInvals = s.regionInvals := rfl
@[simp] theorem State.setGroup_parts (s : State) (r : GRef) (g : Group) : (s.setGroup r g).parts = s.parts := rfl
@[simp] theorem State.setGroup_units (s : State) (r : GRef) (g : Group) : (s.setGroup r g).units = s.units := rfl
@[simp] theorem State.setGroup_leafWalks (s : State) (r : GRef) (g : Group) : (s.setGroup r g).leafWalks = s.leafWalks := rfl
@[simp] theorem State.setGroup_frees (s : State) (r : GRef) (g : Group) : (s.setGroup r g).frees = s.frees := rfl
@[simp] theorem State.setGroup_epoch (s : State) (r : GRef) (g : Group) : (s.setGroup r g).epoch = s.epoch := rfl
@[simp] theorem State.setGroup_walkCount (s : State) (r : GRef) (g : Group) : (s.setGroup r g).walkCount = s.walkCount := rfl
@[simp] theorem State.setGroup_reserveUsed (s : State) (r : GRef) (g : Group) : (s.setGroup r g).reserveUsed = s.reserveUsed := rfl
@[simp] theorem State.setGroup_overlays (s : State) (r : GRef) (g : Group) : (s.setGroup r g).overlays = s.overlays := rfl
@[simp] theorem State.setGroup_stalls (s : State) (r : GRef) (g : Group) : (s.setGroup r g).stalls = s.stalls := rfl
@[simp] theorem State.setGroup_early (s : State) (r : GRef) (g : Group) : (s.setGroup r g).early = s.early := rfl
@[simp] theorem State.setGroup_covOps (s : State) (r : GRef) (g : Group) : (s.setGroup r g).covOps = s.covOps := rfl
@[simp] theorem State.setGroup_packets (s : State) (r : GRef) (g : Group) : (s.setGroup r g).packets = s.packets := rfl
@[simp] theorem State.setGroup_nextPkt (s : State) (r : GRef) (g : Group) : (s.setGroup r g).nextPkt = s.nextPkt := rfl
@[simp] theorem State.setGroup_results (s : State) (r : GRef) (g : Group) : (s.setGroup r g).results = s.results := rfl
@[simp] theorem State.setGroup_holds (s : State) (r : GRef) (g : Group) : (s.setGroup r g).holds = s.holds := rfl
@[simp] theorem State.setGroup_dieTracked (s : State) (r : GRef) (g : Group) : (s.setGroup r g).dieTracked = s.dieTracked := rfl
@[simp] theorem State.setGroup_incs (s : State) (r : GRef) (g : Group) : (s.setGroup r g).incs = s.incs := rfl
@[simp] theorem State.setGroup_incTable (s : State) (r : GRef) (g : Group) : (s.setGroup r g).incTable = s.incTable := rfl
@[simp] theorem State.setGroup_peerIncs (s : State) (r : GRef) (g : Group) : (s.setGroup r g).peerIncs = s.peerIncs := rfl
@[simp] theorem State.setGroup_counters (s : State) (r : GRef) (g : Group) : (s.setGroup r g).counters = s.counters := rfl
@[simp] theorem State.setGroup_takes (s : State) (r : GRef) (g : Group) : (s.setGroup r g).takes = s.takes := rfl
@[simp] theorem State.setGroup_peerOps (s : State) (r : GRef) (g : Group) : (s.setGroup r g).peerOps = s.peerOps := rfl
@[simp] theorem State.setGroup_peerSeqs (s : State) (r : GRef) (g : Group) : (s.setGroup r g).peerSeqs = s.peerSeqs := rfl
@[simp] theorem State.setGroup_vfs (s : State) (r : GRef) (g : Group) : (s.setGroup r g).vfs = s.vfs := rfl
@[simp] theorem State.setGroup_ports (s : State) (r : GRef) (g : Group) : (s.setGroup r g).ports = s.ports := rfl
@[simp] theorem State.setGroup_routes (s : State) (r : GRef) (g : Group) : (s.setGroup r g).routes = s.routes := rfl
@[simp] theorem State.setGroup_exports (s : State) (r : GRef) (g : Group) : (s.setGroup r g).exports = s.exports := rfl
@[simp] theorem State.setGroup_frozenPeers (s : State) (r : GRef) (g : Group) : (s.setGroup r g).frozenPeers = s.frozenPeers := rfl
@[simp] theorem State.setGroup_extQueue (s : State) (r : GRef) (g : Group) : (s.setGroup r g).extQueue = s.extQueue := rfl
@[simp] theorem State.setGroup_goCount (s : State) (r : GRef) (g : Group) : (s.setGroup r g).goCount = s.goCount := rfl

/-! ### modLaunch -/

@[simp] theorem State.modLaunch_agenda (s : State) (lid : Nat) (f : Launch → Launch) : (s.modLaunch lid f).agenda = s.agenda := rfl
@[simp] theorem State.modLaunch_time (s : State) (lid : Nat) (f : Launch → Launch) : (s.modLaunch lid f).time = s.time := rfl
@[simp] theorem State.modLaunch_clock (s : State) (lid : Nat) (f : Launch → Launch) : (s.modLaunch lid f).clock = s.clock := rfl
@[simp] theorem State.modLaunch_clocked (s : State) (lid : Nat) (f : Launch → Launch) : (s.modLaunch lid f).clocked = s.clocked := rfl
@[simp] theorem State.modLaunch_draws (s : State) (lid : Nat) (f : Launch → Launch) : (s.modLaunch lid f).draws = s.draws := rfl
@[simp] theorem State.modLaunch_plat (s : State) (lid : Nat) (f : Launch → Launch) : (s.modLaunch lid f).plat = s.plat := rfl
@[simp] theorem State.modLaunch_cmd (s : State) (lid : Nat) (f : Launch → Launch) : (s.modLaunch lid f).cmd = s.cmd := rfl
@[simp] theorem State.modLaunch_irqs (s : State) (lid : Nat) (f : Launch → Launch) : (s.modLaunch lid f).irqs = s.irqs := rfl
@[simp] theorem State.modLaunch_log (s : State) (lid : Nat) (f : Launch → Launch) : (s.modLaunch lid f).log = s.log := rfl
@[simp] theorem State.modLaunch_reports (s : State) (lid : Nat) (f : Launch → Launch) : (s.modLaunch lid f).reports = s.reports := rfl
@[simp] theorem State.modLaunch_mem (s : State) (lid : Nat) (f : Launch → Launch) : (s.modLaunch lid f).mem = s.mem := rfl
@[simp] theorem State.modLaunch_badLines (s : State) (lid : Nat) (f : Launch → Launch) : (s.modLaunch lid f).badLines = s.badLines := rfl
@[simp] theorem State.modLaunch_refusing (s : State) (lid : Nat) (f : Launch → Launch) : (s.modLaunch lid f).refusing = s.refusing := rfl
@[simp] theorem State.modLaunch_rawUnits (s : State) (lid : Nat) (f : Launch → Launch) : (s.modLaunch lid f).rawUnits = s.rawUnits := rfl
@[simp] theorem State.modLaunch_unitKeys (s : State) (lid : Nat) (f : Launch → Launch) : (s.modLaunch lid f).unitKeys = s.unitKeys := rfl
@[simp] theorem State.modLaunch_contexts (s : State) (lid : Nat) (f : Launch → Launch) : (s.modLaunch lid f).contexts = s.contexts := rfl
@[simp] theorem State.modLaunch_streams (s : State) (lid : Nat) (f : Launch → Launch) : (s.modLaunch lid f).streams = s.streams := rfl
@[simp] theorem State.modLaunch_nextLid (s : State) (lid : Nat) (f : Launch → Launch) : (s.modLaunch lid f).nextLid = s.nextLid := rfl
@[simp] theorem State.modLaunch_wgs (s : State) (lid : Nat) (f : Launch → Launch) : (s.modLaunch lid f).wgs = s.wgs := rfl
@[simp] theorem State.modLaunch_nextWid (s : State) (lid : Nat) (f : Launch → Launch) : (s.modLaunch lid f).nextWid = s.nextWid := rfl
@[simp] theorem State.modLaunch_gangs (s : State) (lid : Nat) (f : Launch → Launch) : (s.modLaunch lid f).gangs = s.gangs := rfl
@[simp] theorem State.modLaunch_phases (s : State) (lid : Nat) (f : Launch → Launch) : (s.modLaunch lid f).phases = s.phases := rfl
@[simp] theorem State.modLaunch_nextPid (s : State) (lid : Nat) (f : Launch → Launch) : (s.modLaunch lid f).nextPid = s.nextPid := rfl
@[simp] theorem State.modLaunch_cores (s : State) (lid : Nat) (f : Launch → Launch) : (s.modLaunch lid f).cores = s.cores := rfl
@[simp] theorem State.modLaunch_walks (s : State) (lid : Nat) (f : Launch → Launch) : (s.modLaunch lid f).walks = s.walks := rfl
@[simp] theorem State.modLaunch_nonLeaf (s : State) (lid : Nat) (f : Launch → Launch) : (s.modLaunch lid f).nonLeaf = s.nonLeaf := rfl
@[simp] theorem State.modLaunch_lastWalkCtx (s : State) (lid : Nat) (f : Launch → Launch) : (s.modLaunch lid f).lastWalkCtx = s.lastWalkCtx := rfl
@[simp] theorem State.modLaunch_l2 (s : State) (lid : Nat) (f : Launch → Launch) : (s.modLaunch lid f).l2 = s.l2 := rfl
@[simp] theorem State.modLaunch_selectors (s : State) (lid : Nat) (f : Launch → Launch) : (s.modLaunch lid f).selectors = s.selectors := rfl
@[simp] theorem State.modLaunch_regions (s : State) (lid : Nat) (f : Launch → Launch) : (s.modLaunch lid f).regions = s.regions := rfl
@[simp] theorem State.modLaunch_regionInvals (s : State) (lid : Nat) (f : Launch → Launch) : (s.modLaunch lid f).regionInvals = s.regionInvals := rfl
@[simp] theorem State.modLaunch_parts (s : State) (lid : Nat) (f : Launch → Launch) : (s.modLaunch lid f).parts = s.parts := rfl
@[simp] theorem State.modLaunch_units (s : State) (lid : Nat) (f : Launch → Launch) : (s.modLaunch lid f).units = s.units := rfl
@[simp] theorem State.modLaunch_leafWalks (s : State) (lid : Nat) (f : Launch → Launch) : (s.modLaunch lid f).leafWalks = s.leafWalks := rfl
@[simp] theorem State.modLaunch_frees (s : State) (lid : Nat) (f : Launch → Launch) : (s.modLaunch lid f).frees = s.frees := rfl
@[simp] theorem State.modLaunch_epoch (s : State) (lid : Nat) (f : Launch → Launch) : (s.modLaunch lid f).epoch = s.epoch := rfl
@[simp] theorem State.modLaunch_walkCount (s : State) (lid : Nat) (f : Launch → Launch) : (s.modLaunch lid f).walkCount = s.walkCount := rfl
@[simp] theorem State.modLaunch_reserveUsed (s : State) (lid : Nat) (f : Launch → Launch) : (s.modLaunch lid f).reserveUsed = s.reserveUsed := rfl
@[simp] theorem State.modLaunch_overlays (s : State) (lid : Nat) (f : Launch → Launch) : (s.modLaunch lid f).overlays = s.overlays := rfl
@[simp] theorem State.modLaunch_stalls (s : State) (lid : Nat) (f : Launch → Launch) : (s.modLaunch lid f).stalls = s.stalls := rfl
@[simp] theorem State.modLaunch_early (s : State) (lid : Nat) (f : Launch → Launch) : (s.modLaunch lid f).early = s.early := rfl
@[simp] theorem State.modLaunch_covOps (s : State) (lid : Nat) (f : Launch → Launch) : (s.modLaunch lid f).covOps = s.covOps := rfl
@[simp] theorem State.modLaunch_packets (s : State) (lid : Nat) (f : Launch → Launch) : (s.modLaunch lid f).packets = s.packets := rfl
@[simp] theorem State.modLaunch_nextPkt (s : State) (lid : Nat) (f : Launch → Launch) : (s.modLaunch lid f).nextPkt = s.nextPkt := rfl
@[simp] theorem State.modLaunch_results (s : State) (lid : Nat) (f : Launch → Launch) : (s.modLaunch lid f).results = s.results := rfl
@[simp] theorem State.modLaunch_holds (s : State) (lid : Nat) (f : Launch → Launch) : (s.modLaunch lid f).holds = s.holds := rfl
@[simp] theorem State.modLaunch_dieTracked (s : State) (lid : Nat) (f : Launch → Launch) : (s.modLaunch lid f).dieTracked = s.dieTracked := rfl
@[simp] theorem State.modLaunch_incs (s : State) (lid : Nat) (f : Launch → Launch) : (s.modLaunch lid f).incs = s.incs := rfl
@[simp] theorem State.modLaunch_incTable (s : State) (lid : Nat) (f : Launch → Launch) : (s.modLaunch lid f).incTable = s.incTable := rfl
@[simp] theorem State.modLaunch_peerIncs (s : State) (lid : Nat) (f : Launch → Launch) : (s.modLaunch lid f).peerIncs = s.peerIncs := rfl
@[simp] theorem State.modLaunch_counters (s : State) (lid : Nat) (f : Launch → Launch) : (s.modLaunch lid f).counters = s.counters := rfl
@[simp] theorem State.modLaunch_takes (s : State) (lid : Nat) (f : Launch → Launch) : (s.modLaunch lid f).takes = s.takes := rfl
@[simp] theorem State.modLaunch_peerOps (s : State) (lid : Nat) (f : Launch → Launch) : (s.modLaunch lid f).peerOps = s.peerOps := rfl
@[simp] theorem State.modLaunch_peerSeqs (s : State) (lid : Nat) (f : Launch → Launch) : (s.modLaunch lid f).peerSeqs = s.peerSeqs := rfl
@[simp] theorem State.modLaunch_vfs (s : State) (lid : Nat) (f : Launch → Launch) : (s.modLaunch lid f).vfs = s.vfs := rfl
@[simp] theorem State.modLaunch_ports (s : State) (lid : Nat) (f : Launch → Launch) : (s.modLaunch lid f).ports = s.ports := rfl
@[simp] theorem State.modLaunch_routes (s : State) (lid : Nat) (f : Launch → Launch) : (s.modLaunch lid f).routes = s.routes := rfl
@[simp] theorem State.modLaunch_exports (s : State) (lid : Nat) (f : Launch → Launch) : (s.modLaunch lid f).exports = s.exports := rfl
@[simp] theorem State.modLaunch_frozenPeers (s : State) (lid : Nat) (f : Launch → Launch) : (s.modLaunch lid f).frozenPeers = s.frozenPeers := rfl
@[simp] theorem State.modLaunch_extQueue (s : State) (lid : Nat) (f : Launch → Launch) : (s.modLaunch lid f).extQueue = s.extQueue := rfl
@[simp] theorem State.modLaunch_goCount (s : State) (lid : Nat) (f : Launch → Launch) : (s.modLaunch lid f).goCount = s.goCount := rfl

/-! ### modCtx -/

@[simp] theorem State.modCtx_agenda (s : State) (n : Nat) (f : Context → Context) : (s.modCtx n f).agenda = s.agenda := rfl
@[simp] theorem State.modCtx_time (s : State) (n : Nat) (f : Context → Context) : (s.modCtx n f).time = s.time := rfl
@[simp] theorem State.modCtx_clock (s : State) (n : Nat) (f : Context → Context) : (s.modCtx n f).clock = s.clock := rfl
@[simp] theorem State.modCtx_clocked (s : State) (n : Nat) (f : Context → Context) : (s.modCtx n f).clocked = s.clocked := rfl
@[simp] theorem State.modCtx_draws (s : State) (n : Nat) (f : Context → Context) : (s.modCtx n f).draws = s.draws := rfl
@[simp] theorem State.modCtx_plat (s : State) (n : Nat) (f : Context → Context) : (s.modCtx n f).plat = s.plat := rfl
@[simp] theorem State.modCtx_cmd (s : State) (n : Nat) (f : Context → Context) : (s.modCtx n f).cmd = s.cmd := rfl
@[simp] theorem State.modCtx_irqs (s : State) (n : Nat) (f : Context → Context) : (s.modCtx n f).irqs = s.irqs := rfl
@[simp] theorem State.modCtx_log (s : State) (n : Nat) (f : Context → Context) : (s.modCtx n f).log = s.log := rfl
@[simp] theorem State.modCtx_reports (s : State) (n : Nat) (f : Context → Context) : (s.modCtx n f).reports = s.reports := rfl
@[simp] theorem State.modCtx_mem (s : State) (n : Nat) (f : Context → Context) : (s.modCtx n f).mem = s.mem := rfl
@[simp] theorem State.modCtx_badLines (s : State) (n : Nat) (f : Context → Context) : (s.modCtx n f).badLines = s.badLines := rfl
@[simp] theorem State.modCtx_refusing (s : State) (n : Nat) (f : Context → Context) : (s.modCtx n f).refusing = s.refusing := rfl
@[simp] theorem State.modCtx_rawUnits (s : State) (n : Nat) (f : Context → Context) : (s.modCtx n f).rawUnits = s.rawUnits := rfl
@[simp] theorem State.modCtx_unitKeys (s : State) (n : Nat) (f : Context → Context) : (s.modCtx n f).unitKeys = s.unitKeys := rfl
@[simp] theorem State.modCtx_streams (s : State) (n : Nat) (f : Context → Context) : (s.modCtx n f).streams = s.streams := rfl
@[simp] theorem State.modCtx_launches (s : State) (n : Nat) (f : Context → Context) : (s.modCtx n f).launches = s.launches := rfl
@[simp] theorem State.modCtx_nextLid (s : State) (n : Nat) (f : Context → Context) : (s.modCtx n f).nextLid = s.nextLid := rfl
@[simp] theorem State.modCtx_wgs (s : State) (n : Nat) (f : Context → Context) : (s.modCtx n f).wgs = s.wgs := rfl
@[simp] theorem State.modCtx_nextWid (s : State) (n : Nat) (f : Context → Context) : (s.modCtx n f).nextWid = s.nextWid := rfl
@[simp] theorem State.modCtx_gangs (s : State) (n : Nat) (f : Context → Context) : (s.modCtx n f).gangs = s.gangs := rfl
@[simp] theorem State.modCtx_phases (s : State) (n : Nat) (f : Context → Context) : (s.modCtx n f).phases = s.phases := rfl
@[simp] theorem State.modCtx_nextPid (s : State) (n : Nat) (f : Context → Context) : (s.modCtx n f).nextPid = s.nextPid := rfl
@[simp] theorem State.modCtx_cores (s : State) (n : Nat) (f : Context → Context) : (s.modCtx n f).cores = s.cores := rfl
@[simp] theorem State.modCtx_walks (s : State) (n : Nat) (f : Context → Context) : (s.modCtx n f).walks = s.walks := rfl
@[simp] theorem State.modCtx_nonLeaf (s : State) (n : Nat) (f : Context → Context) : (s.modCtx n f).nonLeaf = s.nonLeaf := rfl
@[simp] theorem State.modCtx_lastWalkCtx (s : State) (n : Nat) (f : Context → Context) : (s.modCtx n f).lastWalkCtx = s.lastWalkCtx := rfl
@[simp] theorem State.modCtx_l2 (s : State) (n : Nat) (f : Context → Context) : (s.modCtx n f).l2 = s.l2 := rfl
@[simp] theorem State.modCtx_selectors (s : State) (n : Nat) (f : Context → Context) : (s.modCtx n f).selectors = s.selectors := rfl
@[simp] theorem State.modCtx_regions (s : State) (n : Nat) (f : Context → Context) : (s.modCtx n f).regions = s.regions := rfl
@[simp] theorem State.modCtx_regionInvals (s : State) (n : Nat) (f : Context → Context) : (s.modCtx n f).regionInvals = s.regionInvals := rfl
@[simp] theorem State.modCtx_parts (s : State) (n : Nat) (f : Context → Context) : (s.modCtx n f).parts = s.parts := rfl
@[simp] theorem State.modCtx_units (s : State) (n : Nat) (f : Context → Context) : (s.modCtx n f).units = s.units := rfl
@[simp] theorem State.modCtx_leafWalks (s : State) (n : Nat) (f : Context → Context) : (s.modCtx n f).leafWalks = s.leafWalks := rfl
@[simp] theorem State.modCtx_frees (s : State) (n : Nat) (f : Context → Context) : (s.modCtx n f).frees = s.frees := rfl
@[simp] theorem State.modCtx_epoch (s : State) (n : Nat) (f : Context → Context) : (s.modCtx n f).epoch = s.epoch := rfl
@[simp] theorem State.modCtx_walkCount (s : State) (n : Nat) (f : Context → Context) : (s.modCtx n f).walkCount = s.walkCount := rfl
@[simp] theorem State.modCtx_reserveUsed (s : State) (n : Nat) (f : Context → Context) : (s.modCtx n f).reserveUsed = s.reserveUsed := rfl
@[simp] theorem State.modCtx_overlays (s : State) (n : Nat) (f : Context → Context) : (s.modCtx n f).overlays = s.overlays := rfl
@[simp] theorem State.modCtx_stalls (s : State) (n : Nat) (f : Context → Context) : (s.modCtx n f).stalls = s.stalls := rfl
@[simp] theorem State.modCtx_early (s : State) (n : Nat) (f : Context → Context) : (s.modCtx n f).early = s.early := rfl
@[simp] theorem State.modCtx_covOps (s : State) (n : Nat) (f : Context → Context) : (s.modCtx n f).covOps = s.covOps := rfl
@[simp] theorem State.modCtx_packets (s : State) (n : Nat) (f : Context → Context) : (s.modCtx n f).packets = s.packets := rfl
@[simp] theorem State.modCtx_nextPkt (s : State) (n : Nat) (f : Context → Context) : (s.modCtx n f).nextPkt = s.nextPkt := rfl
@[simp] theorem State.modCtx_results (s : State) (n : Nat) (f : Context → Context) : (s.modCtx n f).results = s.results := rfl
@[simp] theorem State.modCtx_holds (s : State) (n : Nat) (f : Context → Context) : (s.modCtx n f).holds = s.holds := rfl
@[simp] theorem State.modCtx_dieTracked (s : State) (n : Nat) (f : Context → Context) : (s.modCtx n f).dieTracked = s.dieTracked := rfl
@[simp] theorem State.modCtx_incs (s : State) (n : Nat) (f : Context → Context) : (s.modCtx n f).incs = s.incs := rfl
@[simp] theorem State.modCtx_incTable (s : State) (n : Nat) (f : Context → Context) : (s.modCtx n f).incTable = s.incTable := rfl
@[simp] theorem State.modCtx_peerIncs (s : State) (n : Nat) (f : Context → Context) : (s.modCtx n f).peerIncs = s.peerIncs := rfl
@[simp] theorem State.modCtx_counters (s : State) (n : Nat) (f : Context → Context) : (s.modCtx n f).counters = s.counters := rfl
@[simp] theorem State.modCtx_takes (s : State) (n : Nat) (f : Context → Context) : (s.modCtx n f).takes = s.takes := rfl
@[simp] theorem State.modCtx_peerOps (s : State) (n : Nat) (f : Context → Context) : (s.modCtx n f).peerOps = s.peerOps := rfl
@[simp] theorem State.modCtx_peerSeqs (s : State) (n : Nat) (f : Context → Context) : (s.modCtx n f).peerSeqs = s.peerSeqs := rfl
@[simp] theorem State.modCtx_vfs (s : State) (n : Nat) (f : Context → Context) : (s.modCtx n f).vfs = s.vfs := rfl
@[simp] theorem State.modCtx_ports (s : State) (n : Nat) (f : Context → Context) : (s.modCtx n f).ports = s.ports := rfl
@[simp] theorem State.modCtx_routes (s : State) (n : Nat) (f : Context → Context) : (s.modCtx n f).routes = s.routes := rfl
@[simp] theorem State.modCtx_exports (s : State) (n : Nat) (f : Context → Context) : (s.modCtx n f).exports = s.exports := rfl
@[simp] theorem State.modCtx_frozenPeers (s : State) (n : Nat) (f : Context → Context) : (s.modCtx n f).frozenPeers = s.frozenPeers := rfl
@[simp] theorem State.modCtx_extQueue (s : State) (n : Nat) (f : Context → Context) : (s.modCtx n f).extQueue = s.extQueue := rfl
@[simp] theorem State.modCtx_goCount (s : State) (n : Nat) (f : Context → Context) : (s.modCtx n f).goCount = s.goCount := rfl

/-! ### modStrm -/

@[simp] theorem State.modStrm_agenda (s : State) (n : Nat) (f : Stream → Stream) : (s.modStrm n f).agenda = s.agenda := rfl
@[simp] theorem State.modStrm_time (s : State) (n : Nat) (f : Stream → Stream) : (s.modStrm n f).time = s.time := rfl
@[simp] theorem State.modStrm_clock (s : State) (n : Nat) (f : Stream → Stream) : (s.modStrm n f).clock = s.clock := rfl
@[simp] theorem State.modStrm_clocked (s : State) (n : Nat) (f : Stream → Stream) : (s.modStrm n f).clocked = s.clocked := rfl
@[simp] theorem State.modStrm_draws (s : State) (n : Nat) (f : Stream → Stream) : (s.modStrm n f).draws = s.draws := rfl
@[simp] theorem State.modStrm_plat (s : State) (n : Nat) (f : Stream → Stream) : (s.modStrm n f).plat = s.plat := rfl
@[simp] theorem State.modStrm_cmd (s : State) (n : Nat) (f : Stream → Stream) : (s.modStrm n f).cmd = s.cmd := rfl
@[simp] theorem State.modStrm_irqs (s : State) (n : Nat) (f : Stream → Stream) : (s.modStrm n f).irqs = s.irqs := rfl
@[simp] theorem State.modStrm_log (s : State) (n : Nat) (f : Stream → Stream) : (s.modStrm n f).log = s.log := rfl
@[simp] theorem State.modStrm_reports (s : State) (n : Nat) (f : Stream → Stream) : (s.modStrm n f).reports = s.reports := rfl
@[simp] theorem State.modStrm_mem (s : State) (n : Nat) (f : Stream → Stream) : (s.modStrm n f).mem = s.mem := rfl
@[simp] theorem State.modStrm_badLines (s : State) (n : Nat) (f : Stream → Stream) : (s.modStrm n f).badLines = s.badLines := rfl
@[simp] theorem State.modStrm_refusing (s : State) (n : Nat) (f : Stream → Stream) : (s.modStrm n f).refusing = s.refusing := rfl
@[simp] theorem State.modStrm_rawUnits (s : State) (n : Nat) (f : Stream → Stream) : (s.modStrm n f).rawUnits = s.rawUnits := rfl
@[simp] theorem State.modStrm_unitKeys (s : State) (n : Nat) (f : Stream → Stream) : (s.modStrm n f).unitKeys = s.unitKeys := rfl
@[simp] theorem State.modStrm_contexts (s : State) (n : Nat) (f : Stream → Stream) : (s.modStrm n f).contexts = s.contexts := rfl
@[simp] theorem State.modStrm_launches (s : State) (n : Nat) (f : Stream → Stream) : (s.modStrm n f).launches = s.launches := rfl
@[simp] theorem State.modStrm_nextLid (s : State) (n : Nat) (f : Stream → Stream) : (s.modStrm n f).nextLid = s.nextLid := rfl
@[simp] theorem State.modStrm_wgs (s : State) (n : Nat) (f : Stream → Stream) : (s.modStrm n f).wgs = s.wgs := rfl
@[simp] theorem State.modStrm_nextWid (s : State) (n : Nat) (f : Stream → Stream) : (s.modStrm n f).nextWid = s.nextWid := rfl
@[simp] theorem State.modStrm_gangs (s : State) (n : Nat) (f : Stream → Stream) : (s.modStrm n f).gangs = s.gangs := rfl
@[simp] theorem State.modStrm_phases (s : State) (n : Nat) (f : Stream → Stream) : (s.modStrm n f).phases = s.phases := rfl
@[simp] theorem State.modStrm_nextPid (s : State) (n : Nat) (f : Stream → Stream) : (s.modStrm n f).nextPid = s.nextPid := rfl
@[simp] theorem State.modStrm_cores (s : State) (n : Nat) (f : Stream → Stream) : (s.modStrm n f).cores = s.cores := rfl
@[simp] theorem State.modStrm_walks (s : State) (n : Nat) (f : Stream → Stream) : (s.modStrm n f).walks = s.walks := rfl
@[simp] theorem State.modStrm_nonLeaf (s : State) (n : Nat) (f : Stream → Stream) : (s.modStrm n f).nonLeaf = s.nonLeaf := rfl
@[simp] theorem State.modStrm_lastWalkCtx (s : State) (n : Nat) (f : Stream → Stream) : (s.modStrm n f).lastWalkCtx = s.lastWalkCtx := rfl
@[simp] theorem State.modStrm_l2 (s : State) (n : Nat) (f : Stream → Stream) : (s.modStrm n f).l2 = s.l2 := rfl
@[simp] theorem State.modStrm_selectors (s : State) (n : Nat) (f : Stream → Stream) : (s.modStrm n f).selectors = s.selectors := rfl
@[simp] theorem State.modStrm_regions (s : State) (n : Nat) (f : Stream → Stream) : (s.modStrm n f).regions = s.regions := rfl
@[simp] theorem State.modStrm_regionInvals (s : State) (n : Nat) (f : Stream → Stream) : (s.modStrm n f).regionInvals = s.regionInvals := rfl
@[simp] theorem State.modStrm_parts (s : State) (n : Nat) (f : Stream → Stream) : (s.modStrm n f).parts = s.parts := rfl
@[simp] theorem State.modStrm_units (s : State) (n : Nat) (f : Stream → Stream) : (s.modStrm n f).units = s.units := rfl
@[simp] theorem State.modStrm_leafWalks (s : State) (n : Nat) (f : Stream → Stream) : (s.modStrm n f).leafWalks = s.leafWalks := rfl
@[simp] theorem State.modStrm_frees (s : State) (n : Nat) (f : Stream → Stream) : (s.modStrm n f).frees = s.frees := rfl
@[simp] theorem State.modStrm_epoch (s : State) (n : Nat) (f : Stream → Stream) : (s.modStrm n f).epoch = s.epoch := rfl
@[simp] theorem State.modStrm_walkCount (s : State) (n : Nat) (f : Stream → Stream) : (s.modStrm n f).walkCount = s.walkCount := rfl
@[simp] theorem State.modStrm_reserveUsed (s : State) (n : Nat) (f : Stream → Stream) : (s.modStrm n f).reserveUsed = s.reserveUsed := rfl
@[simp] theorem State.modStrm_overlays (s : State) (n : Nat) (f : Stream → Stream) : (s.modStrm n f).overlays = s.overlays := rfl
@[simp] theorem State.modStrm_stalls (s : State) (n : Nat) (f : Stream → Stream) : (s.modStrm n f).stalls = s.stalls := rfl
@[simp] theorem State.modStrm_early (s : State) (n : Nat) (f : Stream → Stream) : (s.modStrm n f).early = s.early := rfl
@[simp] theorem State.modStrm_covOps (s : State) (n : Nat) (f : Stream → Stream) : (s.modStrm n f).covOps = s.covOps := rfl
@[simp] theorem State.modStrm_packets (s : State) (n : Nat) (f : Stream → Stream) : (s.modStrm n f).packets = s.packets := rfl
@[simp] theorem State.modStrm_nextPkt (s : State) (n : Nat) (f : Stream → Stream) : (s.modStrm n f).nextPkt = s.nextPkt := rfl
@[simp] theorem State.modStrm_results (s : State) (n : Nat) (f : Stream → Stream) : (s.modStrm n f).results = s.results := rfl
@[simp] theorem State.modStrm_holds (s : State) (n : Nat) (f : Stream → Stream) : (s.modStrm n f).holds = s.holds := rfl
@[simp] theorem State.modStrm_dieTracked (s : State) (n : Nat) (f : Stream → Stream) : (s.modStrm n f).dieTracked = s.dieTracked := rfl
@[simp] theorem State.modStrm_incs (s : State) (n : Nat) (f : Stream → Stream) : (s.modStrm n f).incs = s.incs := rfl
@[simp] theorem State.modStrm_incTable (s : State) (n : Nat) (f : Stream → Stream) : (s.modStrm n f).incTable = s.incTable := rfl
@[simp] theorem State.modStrm_peerIncs (s : State) (n : Nat) (f : Stream → Stream) : (s.modStrm n f).peerIncs = s.peerIncs := rfl
@[simp] theorem State.modStrm_counters (s : State) (n : Nat) (f : Stream → Stream) : (s.modStrm n f).counters = s.counters := rfl
@[simp] theorem State.modStrm_takes (s : State) (n : Nat) (f : Stream → Stream) : (s.modStrm n f).takes = s.takes := rfl
@[simp] theorem State.modStrm_peerOps (s : State) (n : Nat) (f : Stream → Stream) : (s.modStrm n f).peerOps = s.peerOps := rfl
@[simp] theorem State.modStrm_peerSeqs (s : State) (n : Nat) (f : Stream → Stream) : (s.modStrm n f).peerSeqs = s.peerSeqs := rfl
@[simp] theorem State.modStrm_vfs (s : State) (n : Nat) (f : Stream → Stream) : (s.modStrm n f).vfs = s.vfs := rfl
@[simp] theorem State.modStrm_ports (s : State) (n : Nat) (f : Stream → Stream) : (s.modStrm n f).ports = s.ports := rfl
@[simp] theorem State.modStrm_routes (s : State) (n : Nat) (f : Stream → Stream) : (s.modStrm n f).routes = s.routes := rfl
@[simp] theorem State.modStrm_exports (s : State) (n : Nat) (f : Stream → Stream) : (s.modStrm n f).exports = s.exports := rfl
@[simp] theorem State.modStrm_frozenPeers (s : State) (n : Nat) (f : Stream → Stream) : (s.modStrm n f).frozenPeers = s.frozenPeers := rfl
@[simp] theorem State.modStrm_extQueue (s : State) (n : Nat) (f : Stream → Stream) : (s.modStrm n f).extQueue = s.extQueue := rfl
@[simp] theorem State.modStrm_goCount (s : State) (n : Nat) (f : Stream → Stream) : (s.modStrm n f).goCount = s.goCount := rfl

/-! ### modCore -/

@[simp] theorem State.modCore_agenda (s : State) (c : CoreId) (f : Core → Core) : (s.modCore c f).agenda = s.agenda := rfl
@[simp] theorem State.modCore_time (s : State) (c : CoreId) (f : Core → Core) : (s.modCore c f).time = s.time := rfl
@[simp] theorem State.modCore_clock (s : State) (c : CoreId) (f : Core → Core) : (s.modCore c f).clock = s.clock := rfl
@[simp] theorem State.modCore_clocked (s : State) (c : CoreId) (f : Core → Core) : (s.modCore c f).clocked = s.clocked := rfl
@[simp] theorem State.modCore_draws (s : State) (c : CoreId) (f : Core → Core) : (s.modCore c f).draws = s.draws := rfl
@[simp] theorem State.modCore_plat (s : State) (c : CoreId) (f : Core → Core) : (s.modCore c f).plat = s.plat := rfl
@[simp] theorem State.modCore_cmd (s : State) (c : CoreId) (f : Core → Core) : (s.modCore c f).cmd = s.cmd := rfl
@[simp] theorem State.modCore_irqs (s : State) (c : CoreId) (f : Core → Core) : (s.modCore c f).irqs = s.irqs := rfl
@[simp] theorem State.modCore_log (s : State) (c : CoreId) (f : Core → Core) : (s.modCore c f).log = s.log := rfl
@[simp] theorem State.modCore_reports (s : State) (c : CoreId) (f : Core → Core) : (s.modCore c f).reports = s.reports := rfl
@[simp] theorem State.modCore_mem (s : State) (c : CoreId) (f : Core → Core) : (s.modCore c f).mem = s.mem := rfl
@[simp] theorem State.modCore_badLines (s : State) (c : CoreId) (f : Core → Core) : (s.modCore c f).badLines = s.badLines := rfl
@[simp] theorem State.modCore_refusing (s : State) (c : CoreId) (f : Core → Core) : (s.modCore c f).refusing = s.refusing := rfl
@[simp] theorem State.modCore_rawUnits (s : State) (c : CoreId) (f : Core → Core) : (s.modCore c f).rawUnits = s.rawUnits := rfl
@[simp] theorem State.modCore_unitKeys (s : State) (c : CoreId) (f : Core → Core) : (s.modCore c f).unitKeys = s.unitKeys := rfl
@[simp] theorem State.modCore_contexts (s : State) (c : CoreId) (f : Core → Core) : (s.modCore c f).contexts = s.contexts := rfl
@[simp] theorem State.modCore_streams (s : State) (c : CoreId) (f : Core → Core) : (s.modCore c f).streams = s.streams := rfl
@[simp] theorem State.modCore_launches (s : State) (c : CoreId) (f : Core → Core) : (s.modCore c f).launches = s.launches := rfl
@[simp] theorem State.modCore_nextLid (s : State) (c : CoreId) (f : Core → Core) : (s.modCore c f).nextLid = s.nextLid := rfl
@[simp] theorem State.modCore_wgs (s : State) (c : CoreId) (f : Core → Core) : (s.modCore c f).wgs = s.wgs := rfl
@[simp] theorem State.modCore_nextWid (s : State) (c : CoreId) (f : Core → Core) : (s.modCore c f).nextWid = s.nextWid := rfl
@[simp] theorem State.modCore_gangs (s : State) (c : CoreId) (f : Core → Core) : (s.modCore c f).gangs = s.gangs := rfl
@[simp] theorem State.modCore_phases (s : State) (c : CoreId) (f : Core → Core) : (s.modCore c f).phases = s.phases := rfl
@[simp] theorem State.modCore_nextPid (s : State) (c : CoreId) (f : Core → Core) : (s.modCore c f).nextPid = s.nextPid := rfl
@[simp] theorem State.modCore_walks (s : State) (c : CoreId) (f : Core → Core) : (s.modCore c f).walks = s.walks := rfl
@[simp] theorem State.modCore_nonLeaf (s : State) (c : CoreId) (f : Core → Core) : (s.modCore c f).nonLeaf = s.nonLeaf := rfl
@[simp] theorem State.modCore_lastWalkCtx (s : State) (c : CoreId) (f : Core → Core) : (s.modCore c f).lastWalkCtx = s.lastWalkCtx := rfl
@[simp] theorem State.modCore_l2 (s : State) (c : CoreId) (f : Core → Core) : (s.modCore c f).l2 = s.l2 := rfl
@[simp] theorem State.modCore_selectors (s : State) (c : CoreId) (f : Core → Core) : (s.modCore c f).selectors = s.selectors := rfl
@[simp] theorem State.modCore_regions (s : State) (c : CoreId) (f : Core → Core) : (s.modCore c f).regions = s.regions := rfl
@[simp] theorem State.modCore_regionInvals (s : State) (c : CoreId) (f : Core → Core) : (s.modCore c f).regionInvals = s.regionInvals := rfl
@[simp] theorem State.modCore_parts (s : State) (c : CoreId) (f : Core → Core) : (s.modCore c f).parts = s.parts := rfl
@[simp] theorem State.modCore_units (s : State) (c : CoreId) (f : Core → Core) : (s.modCore c f).units = s.units := rfl
@[simp] theorem State.modCore_leafWalks (s : State) (c : CoreId) (f : Core → Core) : (s.modCore c f).leafWalks = s.leafWalks := rfl
@[simp] theorem State.modCore_frees (s : State) (c : CoreId) (f : Core → Core) : (s.modCore c f).frees = s.frees := rfl
@[simp] theorem State.modCore_epoch (s : State) (c : CoreId) (f : Core → Core) : (s.modCore c f).epoch = s.epoch := rfl
@[simp] theorem State.modCore_walkCount (s : State) (c : CoreId) (f : Core → Core) : (s.modCore c f).walkCount = s.walkCount := rfl
@[simp] theorem State.modCore_reserveUsed (s : State) (c : CoreId) (f : Core → Core) : (s.modCore c f).reserveUsed = s.reserveUsed := rfl
@[simp] theorem State.modCore_overlays (s : State) (c : CoreId) (f : Core → Core) : (s.modCore c f).overlays = s.overlays := rfl
@[simp] theorem State.modCore_stalls (s : State) (c : CoreId) (f : Core → Core) : (s.modCore c f).stalls = s.stalls := rfl
@[simp] theorem State.modCore_early (s : State) (c : CoreId) (f : Core → Core) : (s.modCore c f).early = s.early := rfl
@[simp] theorem State.modCore_covOps (s : State) (c : CoreId) (f : Core → Core) : (s.modCore c f).covOps = s.covOps := rfl
@[simp] theorem State.modCore_packets (s : State) (c : CoreId) (f : Core → Core) : (s.modCore c f).packets = s.packets := rfl
@[simp] theorem State.modCore_nextPkt (s : State) (c : CoreId) (f : Core → Core) : (s.modCore c f).nextPkt = s.nextPkt := rfl
@[simp] theorem State.modCore_results (s : State) (c : CoreId) (f : Core → Core) : (s.modCore c f).results = s.results := rfl
@[simp] theorem State.modCore_holds (s : State) (c : CoreId) (f : Core → Core) : (s.modCore c f).holds = s.holds := rfl
@[simp] theorem State.modCore_dieTracked (s : State) (c : CoreId) (f : Core → Core) : (s.modCore c f).dieTracked = s.dieTracked := rfl
@[simp] theorem State.modCore_incs (s : State) (c : CoreId) (f : Core → Core) : (s.modCore c f).incs = s.incs := rfl
@[simp] theorem State.modCore_incTable (s : State) (c : CoreId) (f : Core → Core) : (s.modCore c f).incTable = s.incTable := rfl
@[simp] theorem State.modCore_peerIncs (s : State) (c : CoreId) (f : Core → Core) : (s.modCore c f).peerIncs = s.peerIncs := rfl
@[simp] theorem State.modCore_counters (s : State) (c : CoreId) (f : Core → Core) : (s.modCore c f).counters = s.counters := rfl
@[simp] theorem State.modCore_takes (s : State) (c : CoreId) (f : Core → Core) : (s.modCore c f).takes = s.takes := rfl
@[simp] theorem State.modCore_peerOps (s : State) (c : CoreId) (f : Core → Core) : (s.modCore c f).peerOps = s.peerOps := rfl
@[simp] theorem State.modCore_peerSeqs (s : State) (c : CoreId) (f : Core → Core) : (s.modCore c f).peerSeqs = s.peerSeqs := rfl
@[simp] theorem State.modCore_vfs (s : State) (c : CoreId) (f : Core → Core) : (s.modCore c f).vfs = s.vfs := rfl
@[simp] theorem State.modCore_ports (s : State) (c : CoreId) (f : Core → Core) : (s.modCore c f).ports = s.ports := rfl
@[simp] theorem State.modCore_routes (s : State) (c : CoreId) (f : Core → Core) : (s.modCore c f).routes = s.routes := rfl
@[simp] theorem State.modCore_exports (s : State) (c : CoreId) (f : Core → Core) : (s.modCore c f).exports = s.exports := rfl
@[simp] theorem State.modCore_frozenPeers (s : State) (c : CoreId) (f : Core → Core) : (s.modCore c f).frozenPeers = s.frozenPeers := rfl
@[simp] theorem State.modCore_extQueue (s : State) (c : CoreId) (f : Core → Core) : (s.modCore c f).extQueue = s.extQueue := rfl
@[simp] theorem State.modCore_goCount (s : State) (c : CoreId) (f : Core → Core) : (s.modCore c f).goCount = s.goCount := rfl

/-! ### modPart -/

@[simp] theorem State.modPart_agenda (s : State) (n : Nat) (f : Part → Part) : (s.modPart n f).agenda = s.agenda := rfl
@[simp] theorem State.modPart_time (s : State) (n : Nat) (f : Part → Part) : (s.modPart n f).time = s.time := rfl
@[simp] theorem State.modPart_clock (s : State) (n : Nat) (f : Part → Part) : (s.modPart n f).clock = s.clock := rfl
@[simp] theorem State.modPart_clocked (s : State) (n : Nat) (f : Part → Part) : (s.modPart n f).clocked = s.clocked := rfl
@[simp] theorem State.modPart_draws (s : State) (n : Nat) (f : Part → Part) : (s.modPart n f).draws = s.draws := rfl
@[simp] theorem State.modPart_plat (s : State) (n : Nat) (f : Part → Part) : (s.modPart n f).plat = s.plat := rfl
@[simp] theorem State.modPart_cmd (s : State) (n : Nat) (f : Part → Part) : (s.modPart n f).cmd = s.cmd := rfl
@[simp] theorem State.modPart_irqs (s : State) (n : Nat) (f : Part → Part) : (s.modPart n f).irqs = s.irqs := rfl
@[simp] theorem State.modPart_log (s : State) (n : Nat) (f : Part → Part) : (s.modPart n f).log = s.log := rfl
@[simp] theorem State.modPart_reports (s : State) (n : Nat) (f : Part → Part) : (s.modPart n f).reports = s.reports := rfl
@[simp] theorem State.modPart_mem (s : State) (n : Nat) (f : Part → Part) : (s.modPart n f).mem = s.mem := rfl
@[simp] theorem State.modPart_badLines (s : State) (n : Nat) (f : Part → Part) : (s.modPart n f).badLines = s.badLines := rfl
@[simp] theorem State.modPart_refusing (s : State) (n : Nat) (f : Part → Part) : (s.modPart n f).refusing = s.refusing := rfl
@[simp] theorem State.modPart_rawUnits (s : State) (n : Nat) (f : Part → Part) : (s.modPart n f).rawUnits = s.rawUnits := rfl
@[simp] theorem State.modPart_unitKeys (s : State) (n : Nat) (f : Part → Part) : (s.modPart n f).unitKeys = s.unitKeys := rfl
@[simp] theorem State.modPart_contexts (s : State) (n : Nat) (f : Part → Part) : (s.modPart n f).contexts = s.contexts := rfl
@[simp] theorem State.modPart_streams (s : State) (n : Nat) (f : Part → Part) : (s.modPart n f).streams = s.streams := rfl
@[simp] theorem State.modPart_launches (s : State) (n : Nat) (f : Part → Part) : (s.modPart n f).launches = s.launches := rfl
@[simp] theorem State.modPart_nextLid (s : State) (n : Nat) (f : Part → Part) : (s.modPart n f).nextLid = s.nextLid := rfl
@[simp] theorem State.modPart_wgs (s : State) (n : Nat) (f : Part → Part) : (s.modPart n f).wgs = s.wgs := rfl
@[simp] theorem State.modPart_nextWid (s : State) (n : Nat) (f : Part → Part) : (s.modPart n f).nextWid = s.nextWid := rfl
@[simp] theorem State.modPart_gangs (s : State) (n : Nat) (f : Part → Part) : (s.modPart n f).gangs = s.gangs := rfl
@[simp] theorem State.modPart_phases (s : State) (n : Nat) (f : Part → Part) : (s.modPart n f).phases = s.phases := rfl
@[simp] theorem State.modPart_nextPid (s : State) (n : Nat) (f : Part → Part) : (s.modPart n f).nextPid = s.nextPid := rfl
@[simp] theorem State.modPart_cores (s : State) (n : Nat) (f : Part → Part) : (s.modPart n f).cores = s.cores := rfl
@[simp] theorem State.modPart_walks (s : State) (n : Nat) (f : Part → Part) : (s.modPart n f).walks = s.walks := rfl
@[simp] theorem State.modPart_nonLeaf (s : State) (n : Nat) (f : Part → Part) : (s.modPart n f).nonLeaf = s.nonLeaf := rfl
@[simp] theorem State.modPart_lastWalkCtx (s : State) (n : Nat) (f : Part → Part) : (s.modPart n f).lastWalkCtx = s.lastWalkCtx := rfl
@[simp] theorem State.modPart_l2 (s : State) (n : Nat) (f : Part → Part) : (s.modPart n f).l2 = s.l2 := rfl
@[simp] theorem State.modPart_selectors (s : State) (n : Nat) (f : Part → Part) : (s.modPart n f).selectors = s.selectors := rfl
@[simp] theorem State.modPart_regions (s : State) (n : Nat) (f : Part → Part) : (s.modPart n f).regions = s.regions := rfl
@[simp] theorem State.modPart_regionInvals (s : State) (n : Nat) (f : Part → Part) : (s.modPart n f).regionInvals = s.regionInvals := rfl
@[simp] theorem State.modPart_units (s : State) (n : Nat) (f : Part → Part) : (s.modPart n f).units = s.units := rfl
@[simp] theorem State.modPart_leafWalks (s : State) (n : Nat) (f : Part → Part) : (s.modPart n f).leafWalks = s.leafWalks := rfl
@[simp] theorem State.modPart_frees (s : State) (n : Nat) (f : Part → Part) : (s.modPart n f).frees = s.frees := rfl
@[simp] theorem State.modPart_epoch (s : State) (n : Nat) (f : Part → Part) : (s.modPart n f).epoch = s.epoch := rfl
@[simp] theorem State.modPart_walkCount (s : State) (n : Nat) (f : Part → Part) : (s.modPart n f).walkCount = s.walkCount := rfl
@[simp] theorem State.modPart_reserveUsed (s : State) (n : Nat) (f : Part → Part) : (s.modPart n f).reserveUsed = s.reserveUsed := rfl
@[simp] theorem State.modPart_overlays (s : State) (n : Nat) (f : Part → Part) : (s.modPart n f).overlays = s.overlays := rfl
@[simp] theorem State.modPart_stalls (s : State) (n : Nat) (f : Part → Part) : (s.modPart n f).stalls = s.stalls := rfl
@[simp] theorem State.modPart_early (s : State) (n : Nat) (f : Part → Part) : (s.modPart n f).early = s.early := rfl
@[simp] theorem State.modPart_covOps (s : State) (n : Nat) (f : Part → Part) : (s.modPart n f).covOps = s.covOps := rfl
@[simp] theorem State.modPart_packets (s : State) (n : Nat) (f : Part → Part) : (s.modPart n f).packets = s.packets := rfl
@[simp] theorem State.modPart_nextPkt (s : State) (n : Nat) (f : Part → Part) : (s.modPart n f).nextPkt = s.nextPkt := rfl
@[simp] theorem State.modPart_results (s : State) (n : Nat) (f : Part → Part) : (s.modPart n f).results = s.results := rfl
@[simp] theorem State.modPart_holds (s : State) (n : Nat) (f : Part → Part) : (s.modPart n f).holds = s.holds := rfl
@[simp] theorem State.modPart_dieTracked (s : State) (n : Nat) (f : Part → Part) : (s.modPart n f).dieTracked = s.dieTracked := rfl
@[simp] theorem State.modPart_incs (s : State) (n : Nat) (f : Part → Part) : (s.modPart n f).incs = s.incs := rfl
@[simp] theorem State.modPart_incTable (s : State) (n : Nat) (f : Part → Part) : (s.modPart n f).incTable = s.incTable := rfl
@[simp] theorem State.modPart_peerIncs (s : State) (n : Nat) (f : Part → Part) : (s.modPart n f).peerIncs = s.peerIncs := rfl
@[simp] theorem State.modPart_counters (s : State) (n : Nat) (f : Part → Part) : (s.modPart n f).counters = s.counters := rfl
@[simp] theorem State.modPart_takes (s : State) (n : Nat) (f : Part → Part) : (s.modPart n f).takes = s.takes := rfl
@[simp] theorem State.modPart_peerOps (s : State) (n : Nat) (f : Part → Part) : (s.modPart n f).peerOps = s.peerOps := rfl
@[simp] theorem State.modPart_peerSeqs (s : State) (n : Nat) (f : Part → Part) : (s.modPart n f).peerSeqs = s.peerSeqs := rfl
@[simp] theorem State.modPart_vfs (s : State) (n : Nat) (f : Part → Part) : (s.modPart n f).vfs = s.vfs := rfl
@[simp] theorem State.modPart_ports (s : State) (n : Nat) (f : Part → Part) : (s.modPart n f).ports = s.ports := rfl
@[simp] theorem State.modPart_routes (s : State) (n : Nat) (f : Part → Part) : (s.modPart n f).routes = s.routes := rfl
@[simp] theorem State.modPart_exports (s : State) (n : Nat) (f : Part → Part) : (s.modPart n f).exports = s.exports := rfl
@[simp] theorem State.modPart_frozenPeers (s : State) (n : Nat) (f : Part → Part) : (s.modPart n f).frozenPeers = s.frozenPeers := rfl
@[simp] theorem State.modPart_extQueue (s : State) (n : Nat) (f : Part → Part) : (s.modPart n f).extQueue = s.extQueue := rfl
@[simp] theorem State.modPart_goCount (s : State) (n : Nat) (f : Part → Part) : (s.modPart n f).goCount = s.goCount := rfl

/-! ### modCounter -/

@[simp] theorem State.modCounter_agenda (s : State) (word : Nat) (f : Counter → Counter) : (s.modCounter word f).agenda = s.agenda := rfl
@[simp] theorem State.modCounter_time (s : State) (word : Nat) (f : Counter → Counter) : (s.modCounter word f).time = s.time := rfl
@[simp] theorem State.modCounter_clock (s : State) (word : Nat) (f : Counter → Counter) : (s.modCounter word f).clock = s.clock := rfl
@[simp] theorem State.modCounter_clocked (s : State) (word : Nat) (f : Counter → Counter) : (s.modCounter word f).clocked = s.clocked := rfl
@[simp] theorem State.modCounter_draws (s : State) (word : Nat) (f : Counter → Counter) : (s.modCounter word f).draws = s.draws := rfl
@[simp] theorem State.modCounter_plat (s : State) (word : Nat) (f : Counter → Counter) : (s.modCounter word f).plat = s.plat := rfl
@[simp] theorem State.modCounter_cmd (s : State) (word : Nat) (f : Counter → Counter) : (s.modCounter word f).cmd = s.cmd := rfl
@[simp] theorem State.modCounter_irqs (s : State) (word : Nat) (f : Counter → Counter) : (s.modCounter word f).irqs = s.irqs := rfl
@[simp] theorem State.modCounter_log (s : State) (word : Nat) (f : Counter → Counter) : (s.modCounter word f).log = s.log := rfl
@[simp] theorem State.modCounter_reports (s : State) (word : Nat) (f : Counter → Counter) : (s.modCounter word f).reports = s.reports := rfl
@[simp] theorem State.modCounter_mem (s : State) (word : Nat) (f : Counter → Counter) : (s.modCounter word f).mem = s.mem := rfl
@[simp] theorem State.modCounter_badLines (s : State) (word : Nat) (f : Counter → Counter) : (s.modCounter word f).badLines = s.badLines := rfl
@[simp] theorem State.modCounter_refusing (s : State) (word : Nat) (f : Counter → Counter) : (s.modCounter word f).refusing = s.refusing := rfl
@[simp] theorem State.modCounter_rawUnits (s : State) (word : Nat) (f : Counter → Counter) : (s.modCounter word f).rawUnits = s.rawUnits := rfl
@[simp] theorem State.modCounter_unitKeys (s : State) (word : Nat) (f : Counter → Counter) : (s.modCounter word f).unitKeys = s.unitKeys := rfl
@[simp] theorem State.modCounter_contexts (s : State) (word : Nat) (f : Counter → Counter) : (s.modCounter word f).contexts = s.contexts := rfl
@[simp] theorem State.modCounter_streams (s : State) (word : Nat) (f : Counter → Counter) : (s.modCounter word f).streams = s.streams := rfl
@[simp] theorem State.modCounter_launches (s : State) (word : Nat) (f : Counter → Counter) : (s.modCounter word f).launches = s.launches := rfl
@[simp] theorem State.modCounter_nextLid (s : State) (word : Nat) (f : Counter → Counter) : (s.modCounter word f).nextLid = s.nextLid := rfl
@[simp] theorem State.modCounter_wgs (s : State) (word : Nat) (f : Counter → Counter) : (s.modCounter word f).wgs = s.wgs := rfl
@[simp] theorem State.modCounter_nextWid (s : State) (word : Nat) (f : Counter → Counter) : (s.modCounter word f).nextWid = s.nextWid := rfl
@[simp] theorem State.modCounter_gangs (s : State) (word : Nat) (f : Counter → Counter) : (s.modCounter word f).gangs = s.gangs := rfl
@[simp] theorem State.modCounter_phases (s : State) (word : Nat) (f : Counter → Counter) : (s.modCounter word f).phases = s.phases := rfl
@[simp] theorem State.modCounter_nextPid (s : State) (word : Nat) (f : Counter → Counter) : (s.modCounter word f).nextPid = s.nextPid := rfl
@[simp] theorem State.modCounter_cores (s : State) (word : Nat) (f : Counter → Counter) : (s.modCounter word f).cores = s.cores := rfl
@[simp] theorem State.modCounter_walks (s : State) (word : Nat) (f : Counter → Counter) : (s.modCounter word f).walks = s.walks := rfl
@[simp] theorem State.modCounter_nonLeaf (s : State) (word : Nat) (f : Counter → Counter) : (s.modCounter word f).nonLeaf = s.nonLeaf := rfl
@[simp] theorem State.modCounter_lastWalkCtx (s : State) (word : Nat) (f : Counter → Counter) : (s.modCounter word f).lastWalkCtx = s.lastWalkCtx := rfl
@[simp] theorem State.modCounter_l2 (s : State) (word : Nat) (f : Counter → Counter) : (s.modCounter word f).l2 = s.l2 := rfl
@[simp] theorem State.modCounter_selectors (s : State) (word : Nat) (f : Counter → Counter) : (s.modCounter word f).selectors = s.selectors := rfl
@[simp] theorem State.modCounter_regions (s : State) (word : Nat) (f : Counter → Counter) : (s.modCounter word f).regions = s.regions := rfl
@[simp] theorem State.modCounter_regionInvals (s : State) (word : Nat) (f : Counter → Counter) : (s.modCounter word f).regionInvals = s.regionInvals := rfl
@[simp] theorem State.modCounter_parts (s : State) (word : Nat) (f : Counter → Counter) : (s.modCounter word f).parts = s.parts := rfl
@[simp] theorem State.modCounter_units (s : State) (word : Nat) (f : Counter → Counter) : (s.modCounter word f).units = s.units := rfl
@[simp] theorem State.modCounter_leafWalks (s : State) (word : Nat) (f : Counter → Counter) : (s.modCounter word f).leafWalks = s.leafWalks := rfl
@[simp] theorem State.modCounter_frees (s : State) (word : Nat) (f : Counter → Counter) : (s.modCounter word f).frees = s.frees := rfl
@[simp] theorem State.modCounter_epoch (s : State) (word : Nat) (f : Counter → Counter) : (s.modCounter word f).epoch = s.epoch := rfl
@[simp] theorem State.modCounter_walkCount (s : State) (word : Nat) (f : Counter → Counter) : (s.modCounter word f).walkCount = s.walkCount := rfl
@[simp] theorem State.modCounter_reserveUsed (s : State) (word : Nat) (f : Counter → Counter) : (s.modCounter word f).reserveUsed = s.reserveUsed := rfl
@[simp] theorem State.modCounter_overlays (s : State) (word : Nat) (f : Counter → Counter) : (s.modCounter word f).overlays = s.overlays := rfl
@[simp] theorem State.modCounter_stalls (s : State) (word : Nat) (f : Counter → Counter) : (s.modCounter word f).stalls = s.stalls := rfl
@[simp] theorem State.modCounter_early (s : State) (word : Nat) (f : Counter → Counter) : (s.modCounter word f).early = s.early := rfl
@[simp] theorem State.modCounter_covOps (s : State) (word : Nat) (f : Counter → Counter) : (s.modCounter word f).covOps = s.covOps := rfl
@[simp] theorem State.modCounter_packets (s : State) (word : Nat) (f : Counter → Counter) : (s.modCounter word f).packets = s.packets := rfl
@[simp] theorem State.modCounter_nextPkt (s : State) (word : Nat) (f : Counter → Counter) : (s.modCounter word f).nextPkt = s.nextPkt := rfl
@[simp] theorem State.modCounter_results (s : State) (word : Nat) (f : Counter → Counter) : (s.modCounter word f).results = s.results := rfl
@[simp] theorem State.modCounter_holds (s : State) (word : Nat) (f : Counter → Counter) : (s.modCounter word f).holds = s.holds := rfl
@[simp] theorem State.modCounter_dieTracked (s : State) (word : Nat) (f : Counter → Counter) : (s.modCounter word f).dieTracked = s.dieTracked := rfl
@[simp] theorem State.modCounter_incs (s : State) (word : Nat) (f : Counter → Counter) : (s.modCounter word f).incs = s.incs := rfl
@[simp] theorem State.modCounter_incTable (s : State) (word : Nat) (f : Counter → Counter) : (s.modCounter word f).incTable = s.incTable := rfl
@[simp] theorem State.modCounter_peerIncs (s : State) (word : Nat) (f : Counter → Counter) : (s.modCounter word f).peerIncs = s.peerIncs := rfl
@[simp] theorem State.modCounter_takes (s : State) (word : Nat) (f : Counter → Counter) : (s.modCounter word f).takes = s.takes := rfl
@[simp] theorem State.modCounter_peerOps (s : State) (word : Nat) (f : Counter → Counter) : (s.modCounter word f).peerOps = s.peerOps := rfl
@[simp] theorem State.modCounter_peerSeqs (s : State) (word : Nat) (f : Counter → Counter) : (s.modCounter word f).peerSeqs = s.peerSeqs := rfl
@[simp] theorem State.modCounter_vfs (s : State) (word : Nat) (f : Counter → Counter) : (s.modCounter word f).vfs = s.vfs := rfl
@[simp] theorem State.modCounter_ports (s : State) (word : Nat) (f : Counter → Counter) : (s.modCounter word f).ports = s.ports := rfl
@[simp] theorem State.modCounter_routes (s : State) (word : Nat) (f : Counter → Counter) : (s.modCounter word f).routes = s.routes := rfl
@[simp] theorem State.modCounter_exports (s : State) (word : Nat) (f : Counter → Counter) : (s.modCounter word f).exports = s.exports := rfl
@[simp] theorem State.modCounter_frozenPeers (s : State) (word : Nat) (f : Counter → Counter) : (s.modCounter word f).frozenPeers = s.frozenPeers := rfl
@[simp] theorem State.modCounter_extQueue (s : State) (word : Nat) (f : Counter → Counter) : (s.modCounter word f).extQueue = s.extQueue := rfl
@[simp] theorem State.modCounter_goCount (s : State) (word : Nat) (f : Counter → Counter) : (s.modCounter word f).goCount = s.goCount := rfl

end Sys2Proof.Machine
end

