-- ==== Sys2Proof/Laws/Issue.lean ====
section
/-!
SUPPORT. Issue: what the issue of a lone move comes to (R221), once for all moves.
-/

namespace Sys2Proof.Machine

/-! ### What a fold keeps -/

theorem foldl_keeps {α β γ : Type} (p : α → β) (f : α → γ → α) (hf : ∀ a c, p (f a c) = p a) (cs : List γ) (a : α) :
    p (cs.foldl f a) = p a := by
  induction cs generalizing a with
  | nil => rfl
  | cons c cs ih => rw [List.foldl_cons, ih, hf]

/-- What does not look at a group's lanes is kept by a write of a result port. -/
theorem setResLanes_keeps {β : Type} (p : Group → β) (hp : ∀ g ls, p { g with lanes := ls } = p g) (g : Group) (u : Nat)
    (rb : Bool) (ls : Mask) (v : Nat → W64) : p (g.setResLanes u rb ls v) = p g :=
  foldl_keeps p _ (fun _ _ => hp _ _) _ g

theorem showResult_keeps {β : Type} (p : Group → β) (hp : ∀ g ls, p { g with lanes := ls } = p g) (g : Group) (x : Staged) :
    p (g.showResult x) = p g := by
  unfold Group.showResult
  cases x.r <;> cases x.rb <;> simp [setResLanes_keeps p hp]

/-- Results that become visible change lanes, staged results and interlocked mode only (R208, R209). -/
theorem advance_keeps {β : Type} (p : Group → β) (hp : ∀ g ls, p { g with lanes := ls } = p g)
    (hs : ∀ g st il, p { g with staged := st, il := il } = p g) (g : Group) : p g.advance = p g := by
  unfold Group.advance
  simp only
  rw [hs, foldl_keeps p _ (showResult_keeps p hp)]

theorem modLane_length (g : Group) (l : Nat) (f : Lane → Lane) : (g.modLane l f).lanes.length = g.lanes.length := by
  unfold Group.modLane modAt
  cases h : g.lanes[l]? <;> simp

theorem setResLanes_length (g : Group) (u : Nat) (rb : Bool) (ls : Mask) (v : Nat → W64) :
    (g.setResLanes u rb ls v).lanes.length = g.lanes.length :=
  foldl_keeps (fun g : Group => g.lanes.length) _ (fun _ _ => modLane_length _ _ _) _ g

theorem showResult_length (g : Group) (x : Staged) : (g.showResult x).lanes.length = g.lanes.length := by
  unfold Group.showResult
  cases x.r <;> cases x.rb <;> simp [setResLanes_length]

@[simp] theorem advance_width (g : Group) : g.advance.width = g.width := by
  unfold Group.advance Group.width
  simp only
  exact foldl_keeps (fun g : Group => g.lanes.length) _ (fun _ _ => showResult_length _ _) _ g

@[simp] theorem advance_latches (g : Group) : g.advance.latches = g.latches :=
  advance_keeps (·.latches) (fun _ _ => rfl) (fun _ _ _ => rfl) g
@[simp] theorem advance_handler (g : Group) : g.advance.handler = g.handler :=
  advance_keeps (·.handler) (fun _ _ => rfl) (fun _ _ _ => rfl) g
@[simp] theorem advance_check (g : Group) : g.advance.check = g.check :=
  advance_keeps (·.check) (fun _ _ => rfl) (fun _ _ _ => rfl) g

/-! ### The moves of a lone bundle -/

theorem bundleMoves_lone (g : Group) (m : Mv) (dest : BitVec 12) (h : g.latches = noLatches) :
    bundleMoves g (loneBundle (mvWord m dest)) = [loneMove m dest] := by
  simp [bundleMoves, loneBundle, loneMove, h, noLatches, List.range, List.range.loop, List.filterMap]

theorem readMoves_lone (g : Group) (m : Mv) (dest : BitVec 12) : readMoves g [loneMove m dest] = [loneRead g m dest] := by
  unfold readMoves loneRead
  cases hq : queuedSrc (loneMove m dest).mv.s <;> simp [hq]

/-- What a lone move comes to, when its triggers start: the state they leave, with the issue's own bookkeeping (R221). -/
theorem issueOne_ready {s s' : State} {m : Mv} {dest : BitVec 12} {w : Workgroup} {g : Group} {l : Launch} {who : Who}
    (hr : Ready s m dest w g l who)
    (hsig : segchkBad (loneMoved g m dest) g.advance [loneRead g.advance m dest] = none)
    (hs : startTriggers trigTable (refOf w g) (l.textOffset g.pc) (l.textOffset g.pc + w32 (loneLen m dest))
      (loneMoved g m dest).width s [loneRead g.advance m dest] (s.setGroup (refOf w g) (loneMoved g m dest)) = .ok s') :
    issueOne dest m s = .next ((((s'.modGroup (refOf w g) fun x =>
      x.afterIssue g.advance (loneBundle (mvWord m dest)) [loneMove m dest] [loneRead g.advance m dest]
        (loneWords (mvWord m dest)) l.textBase g.pc (loneLen m dest) false).explicitTrap (refOf w g) l).clearMisses who).clearFw
          who none) := by
  have hlen : 4 * (loneWords (mvWord m dest)).length = loneLen m dest := rfl
  have hb := bundleMoves_lone g.advance m dest (by simp [hr.latches])
  have hrd := readMoves_lone g.advance m dest
  have hc : checkPoint s (refOf w g) (l.textOffset g.pc) none = .pass := by
    simp [checkPoint, hr.group, hr.launch, hr.noPoison]
  have hreg : g.advance.withRegion (loneMoved g m dest) (loneBundle (mvWord m dest)).header [loneRead g.advance m dest]
      (l.textOffset g.pc) = loneMoved g m dest := by
    simp [Group.withRegion, loneBundle, hr.noRegion]
  have hx : execBundle trigTable s (refOf w g) g l (loneBundle (mvWord m dest)) (loneWords (mvWord m dest)) g.pc
      (loneLen m dest) false = .done ((s'.modGroup (refOf w g) fun x =>
      x.afterIssue g.advance (loneBundle (mvWord m dest)) [loneMove m dest] [loneRead g.advance m dest]
        (loneWords (mvWord m dest)) l.textBase g.pc (loneLen m dest) false).explicitTrap (refOf w g) l) := by
    unfold execBundle
    have hpass := hr.passes
    unfold loneCheck at hpass
    have hheld : ((s.wg? (refOf w g).wg).any fun x => x.mxHeld [loneRead g.advance m dest]) = false := hr.notHeld
    simp only [hb, hrd, hpass, hheld, Bool.false_eq_true, if_false, List.foldl_cons, List.foldl_nil]
    change (match (if isCheckPoint g.advance (loneBundle (mvWord m dest)).header [loneRead g.advance m dest] then
      checkPoint s (refOf w g) (l.textOffset g.pc) (segchkBad (loneMoved g m dest) g.advance [loneRead g.advance m dest])
      else CheckRes.pass) with | .gone s => _ | .pass => _) = _
    rw [hsig, hc, ite_self]
    change (match startTriggers trigTable (refOf w g) (l.textOffset g.pc) (l.textOffset g.pc + w32 (loneLen m dest))
      (g.advance.withRegion (loneMoved g m dest) (loneBundle (mvWord m dest)).header [loneRead g.advance m dest]
        (l.textOffset g.pc)).width s [loneRead g.advance m dest] (s.setGroup (refOf w g)
      (g.advance.withRegion (loneMoved g m dest) (loneBundle (mvWord m dest)).header [loneRead g.advance m dest]
        (l.textOffset g.pc))) with | .trap t => _ | .wait s => _ | .hold => _ | .ok s => _) = _
    rw [hreg, hs]
  simp only [issueOne, hr.leader, issueLone, hr.launch, hr.who, hlen, hx, IssueRes.settle, IssueRes.outcome]

/-! ### The bookkeeping of an issue, for a group that goes on in sequence -/

/-- What a move and a trigger leave alone when the group just goes on: its number, and what steers its program counter. -/
structure GoesOn (g x : Group) : Prop where
  gi : x.gi = g.gi
  ended : x.ended = false
  handler : x.handler = false
  pad : x.pad = 0
  target : x.target = none
  pend : x.pend = []
  loop : x.loop.active = false

theorem afterIssue_goesOn {g x : Group} (m : Mv) (dest : BitVec 12) (rs : List RMove) (tb : W64) (hh : g.handler = false)
    (hx : GoesOn g x) (hsy : sySel g rs 0x19 = none) :
    x.afterIssue g (loneBundle (mvWord m dest)) [loneMove m dest] rs (loneWords (mvWord m dest)) tb g.pc (loneLen m dest)
      false = loneDone g x m dest := by
  have h0 : (loneBundle (mvWord m dest)).header.pad = 0 := rfl
  simp [Group.afterIssue, loneDone, hx.ended, hh, hx.handler, hsy, h0, Group.countBundle, Group.countIssue, Group.finish,
    hx.pad, hx.target, hx.loop, hx.pend]

theorem loneDone_gi (g x : Group) (m : Mv) (dest : BitVec 12) : (loneDone g x m dest).gi = x.gi := rfl
theorem loneDone_pend (g x : Group) (m : Mv) (dest : BitVec 12) : (loneDone g x m dest).pend = x.pend := rfl

theorem explicitTrap_none (s : State) (r : GRef) (l : Launch) (x : Group) (hx : s.group? r = some x) (hp : x.pend = []) :
    s.explicitTrap r l = s := by
  simp [State.explicitTrap, hx, hp]

theorem ready_goesOn {s : State} {m : Mv} {dest : BitVec 12} {w : Workgroup} {g : Group} {l : Launch} {who : Who}
    (hr : Ready s m dest w g l who) : GoesOn g g.advance where
  gi := advance_keeps (·.gi) (fun _ _ => rfl) (fun _ _ _ => rfl) g
  ended := (advance_keeps (·.ended) (fun _ _ => rfl) (fun _ _ _ => rfl) g).trans hr.running
  handler := (advance_keeps (·.handler) (fun _ _ => rfl) (fun _ _ _ => rfl) g).trans hr.noHandler
  pad := (advance_keeps (·.pad) (fun _ _ => rfl) (fun _ _ _ => rfl) g).trans hr.noPad
  target := (advance_keeps (·.target) (fun _ _ => rfl) (fun _ _ _ => rfl) g).trans hr.noTarget
  pend := (advance_keeps (·.pend) (fun _ _ => rfl) (fun _ _ _ => rfl) g).trans hr.noPend
  loop := (advance_keeps (·.loop.active) (fun _ _ => rfl) (fun _ _ _ => rfl) g).trans hr.noLoop

/-- A lone move whose trigger changes its group only, and lets it go on: the state with that group in its place (R221). -/
theorem issueOne_group {s : State} {m : Mv} {dest : BitVec 12} {w : Workgroup} {g : Group} {l : Launch} {who : Who}
    (hr : Ready s m dest w g l who) (x : Group) (hx : GoesOn g x)
    (hsy : sySel g.advance [loneRead g.advance m dest] 0x19 = none)
    (hs : startTriggers trigTable (refOf w g) (l.textOffset g.pc) (l.textOffset g.pc + w32 (loneLen m dest))
      (loneMoved g m dest).width s [loneRead g.advance m dest] (s.setGroup (refOf w g) (loneMoved g m dest)) =
        .ok (s.setGroup (refOf w g) x)) :
    issueOne dest m s = .next (s.settled w g (loneDone g x m dest) who) := by
  have ha := ready_goesOn hr
  have hsig : segchkBad (loneMoved g m dest) g.advance [loneRead g.advance m dest] = none := by
    simp [segchkBad, hsy]
  have hpc : g.advance.pc = g.pc := advance_keeps (·.pc) (fun _ _ => rfl) (fun _ _ _ => rfl) g
  have hgi : x.gi = (refOf w g).gi := hx.gi
  have hx' : GoesOn g.advance x := ⟨hx.gi.trans ha.gi.symm, hx.ended, hx.handler, hx.pad, hx.target, hx.pend, hx.loop⟩
  have haft := afterIssue_goesOn m dest [loneRead g.advance m dest] l.textBase ha.handler hx' hsy
  rw [hpc] at haft
  have hd : loneDone g.advance x m dest = loneDone g x m dest := by unfold loneDone; rw [hpc]
  rw [issueOne_ready hr hsig hs, modGroup_setGroup _ _ _ _ hgi, haft, hd,
    explicitTrap_none _ _ _ _ (group?_setGroup s _ _ g hr.group ((loneDone_gi g x m dest).trans hgi))
      ((loneDone_pend g x m dest).trans hx.pend)]
  rfl

end Sys2Proof.Machine
end

