-- ==== Sys2Proof/Laws/Fire.lean ====
section
/-!
SUPPORT. Fire: from what a trigger answers to what exec answers for its lone move, once for all triggers (R221).
-/

namespace Sys2Proof.Claims

open Sys2Proof.Machine

/-! ### The lone move's own fields -/

theorem lone_word (m : Mv) (dest : BitVec 12) : (loneMove m dest).word = mvWord m dest := rfl

theorem lone_code (m : Mv) (dest : BitVec 12) : (loneMove m dest).code = dest := by
  unfold PMove.code
  rw [lone_word]
  unfold mvWord
  exact BitVec.extractLsb'_append_eq_right

theorem lone_dest {m : Mv} {dest : BitVec 12} {d : Dest} (h : decodeDest dest = .ok d) : (loneMove m dest).dest = d := by
  unfold PMove.dest
  rw [lone_code, h]

/-! ### What popping a source leaves alone -/

/-- A view of a group that does not look at what a pop changes: result ports and queues, and the check-interval register. -/
structure PopFree {β : Type} (p : Group → β) : Prop where
  res : ∀ g l u rb v, p (g.setRes l u rb v) = p g
  ldr : ∀ g x, p { g with ldr := x } = p g
  amr : ∀ g x, p { g with amr := x } = p g
  q0r : ∀ g x, p { g with q0r := x } = p g
  check : ∀ g x, p { g with check := x } = p g
  flags : ∀ g x y, p { g with amrbFull := x, rbPend := y } = p g
  ldq : ∀ g x, p { g with ldq := x } = p g
  amq : ∀ g x, p { g with amq := x } = p g
  q0q : ∀ g x, p { g with q0q := x } = p g

theorem PopFree.pop {β : Type} {p : Group → β} (hp : PopFree p) (g : Group) (r : RMove) : p (popMove g r) = p g := by
  unfold popMove
  split
  · exact hp.check _ _
  · rename_i port _
    split
    · rfl
    · have hs : ∀ (g : Group) (id : Nat), p (g.leaveQueue port id) = p g := by
        intro g id; cases port <;> simp [Group.leaveQueue, hp.ldq, hp.amq, hp.q0q]
      have hse : ∀ (g : Group) (es : List REntry), p (g.setEntries port es) = p g := by
        intro g es; cases port <;> simp [Group.setEntries, hp.ldr, hp.amr, hp.q0r]
      have hf : ∀ (g : Group) (e : REntry) (d : Bool), p (g.popFlags e d) = p g := by
        intro g e d
        unfold Group.popFlags
        simp only [hp.flags]
        exact foldl_keeps p _ (fun _ _ => hp.res _ _ _ _ _) _ g
      simp only [hs]
      split
      · rw [hf, hp.check, hse]
      · rw [hp.check, hse]

/-- A view that does not look at result ports, staged results and interlocked mode either. -/
structure MoveFree {β : Type} (p : Group → β) : Prop extends PopFree p where
  staged : ∀ g st il, p { g with staged := st, il := il } = p g

theorem MoveFree.advance {β : Type} {p : Group → β} (hp : MoveFree p) (g : Group) : p g.advance = p g := by
  have hr : ∀ (g : Group) (x : Staged), p (g.showResult x) = p g := by
    intro g x
    have h : ∀ (g : Group) (u : Nat) (rb : Bool) (ls : Mask) (v : Nat → W64), p (g.setResLanes u rb ls v) = p g :=
      fun g u rb ls v => foldl_keeps p _ (fun _ _ => hp.res _ _ _ _ _) _ g
    unfold Group.showResult
    cases x.r <;> cases x.rb <;> simp [h]
  unfold Group.advance
  simp only
  rw [hp.staged, foldl_keeps p _ hr]

/-- A trigger move changes the group by its pop alone. -/
theorem loneMoved_trigger (g : Group) {m : Mv} {dest : BitVec 12} {u q : Nat} (h : decodeDest dest = .ok (.trigger u q)) :
    loneMoved g m dest = popMove g.advance (loneRead g.advance m dest) := by
  have hd : (loneRead g.advance m dest).m.dest = .trigger u q := lone_dest h
  unfold loneMoved writeMove
  rw [hd]

theorem MoveFree.moved {β : Type} {p : Group → β} (hp : MoveFree p) (g : Group) {m : Mv} {dest : BitVec 12} {u q : Nat}
    (h : decodeDest dest = .ok (.trigger u q)) : p (loneMoved g m dest) = p g := by
  rw [loneMoved_trigger g h, hp.toPopFree.pop, hp.advance]

/-- What looks at lanes only, and at no result port. -/
theorem moveFree_lanes {β : Type} (q : List Lane → β) (hq : ∀ (g : Group) l u rb v, q (g.setRes l u rb v).lanes = q g.lanes) :
    MoveFree fun g => q g.lanes :=
  { res := hq, ldr := fun _ _ => rfl, amr := fun _ _ => rfl, q0r := fun _ _ => rfl, check := fun _ _ => rfl
    flags := fun _ _ _ => rfl, ldq := fun _ _ => rfl, amq := fun _ _ => rfl, q0q := fun _ _ => rfl
    staged := fun _ _ _ => rfl }

theorem setRes_getElem? (g : Group) (l u : Nat) (rb : Bool) (v : W64) (k : Nat) :
    (g.setRes l u rb v).lanes[k]? =
      if l = k then (g.lanes[k]?).map fun x => { x with res := setAt x.res (resIdx u rb) v } else g.lanes[k]? := by
  unfold Group.setRes Group.modLane modAt
  by_cases h : l = k
  · subst h
    cases hg : g.lanes[l]? with
    | none => simp [hg]
    | some x =>
      have hl : l < g.lanes.length := (List.getElem?_eq_some_iff.mp hg).1
      simp [hl]
  · cases hg : g.lanes[l]? with
    | none => simp [h]
    | some x => simp [h, List.getElem?_set_ne]

theorem moveFree_width : MoveFree Group.width :=
  moveFree_lanes List.length fun g l u rb v => by
    unfold Group.setRes Group.modLane modAt
    cases h : g.lanes[l]? <;> simp

theorem moveFree_opnd (l u q : Nat) : MoveFree fun g => g.opnd l u q :=
  moveFree_lanes (fun ls => match ls[l]? with
    | some x => x.opnd[opIdx u q]?.getD 0
    | none => 0) fun g k u' rb v => by
      simp only [setRes_getElem?]
      by_cases h : k = l
      · subst h; cases g.lanes[k]? <;> simp
      · simp [h]

theorem moveFree_gen (l : Nat) : MoveFree fun g => match g.lane? l with
    | some x => x.gen
    | none => 0 :=
  moveFree_lanes (fun ls => match ls[l]? with
    | some x => x.gen
    | none => 0) fun g k u' rb v => by
      simp only [setRes_getElem?]
      by_cases h : k = l
      · subst h; cases g.lanes[k]? <;> simp
      · simp [h]

/-- A view of a group that looks at none of the fields a pop or an advance touches, lanes among them. -/
theorem moveFree_field {β : Type} {p : Group → β} (lanes : ∀ g x, p { g with lanes := x } = p g)
    (ldr : ∀ g x, p { g with ldr := x } = p g) (amr : ∀ g x, p { g with amr := x } = p g)
    (q0r : ∀ g x, p { g with q0r := x } = p g) (check : ∀ g x, p { g with check := x } = p g)
    (flags : ∀ g x y, p { g with amrbFull := x, rbPend := y } = p g) (ldq : ∀ g x, p { g with ldq := x } = p g)
    (amq : ∀ g x, p { g with amq := x } = p g) (q0q : ∀ g x, p { g with q0q := x } = p g)
    (staged : ∀ g st il, p { g with staged := st, il := il } = p g) : MoveFree p :=
  { res := fun g _ _ _ _ => lanes g _, ldr := ldr, amr := amr, q0r := q0r, check := check, flags := flags, ldq := ldq
    amq := amq, q0q := q0q, staged := staged }

theorem moveFree_kregs : MoveFree Group.kregs :=
  moveFree_field (fun _ _ => rfl) (fun _ _ => rfl) (fun _ _ => rfl) (fun _ _ => rfl) (fun _ _ => rfl) (fun _ _ _ => rfl)
    (fun _ _ => rfl) (fun _ _ => rfl) (fun _ _ => rfl) (fun _ _ _ => rfl)

theorem moveFree_kbad : MoveFree Group.kbad :=
  moveFree_field (fun _ _ => rfl) (fun _ _ => rfl) (fun _ _ => rfl) (fun _ _ => rfl) (fun _ _ => rfl) (fun _ _ _ => rfl)
    (fun _ _ => rfl) (fun _ _ => rfl) (fun _ _ => rfl) (fun _ _ _ => rfl)

theorem moveFree_gi : MoveFree Group.gi :=
  moveFree_field (fun _ _ => rfl) (fun _ _ => rfl) (fun _ _ => rfl) (fun _ _ => rfl) (fun _ _ => rfl) (fun _ _ _ => rfl)
    (fun _ _ => rfl) (fun _ _ => rfl) (fun _ _ => rfl) (fun _ _ _ => rfl)

/-- What steers a group: the fields GoesOn looks at. -/
def steer (g : Group) : Nat × Bool × Bool × Nat × Option W64 × List TrapInfo × Bool :=
  (g.gi, g.ended, g.handler, g.pad, g.target, g.pend, g.loop.active)

theorem moveFree_steer : MoveFree steer :=
  moveFree_field (fun _ _ => rfl) (fun _ _ => rfl) (fun _ _ => rfl) (fun _ _ => rfl) (fun _ _ => rfl) (fun _ _ _ => rfl)
    (fun _ _ => rfl) (fun _ _ => rfl) (fun _ _ => rfl) (fun _ _ _ => rfl)

theorem goesOn_of_steer {s : State} {m : Mv} {dest : BitVec 12} {w : Workgroup} {g : Group} {l : Launch} {who : Who}
    (hr : Ready s m dest w g l who) {x : Group} (h : steer x = steer g) : GoesOn g x := by
  simp only [steer, Prod.mk.injEq] at h
  obtain ⟨h1, h2, h3, h4, h5, h6, h7⟩ := h
  exact ⟨h1, h2.trans hr.running, h3.trans hr.noHandler, h4.trans hr.noPad, h5.trans hr.noTarget, h6.trans hr.noPend,
    h7.trans hr.noLoop⟩

/-! ### From the trigger's answer to exec's -/

/-- A group that a trigger of g leaves running: only a transfer's target may have been set. -/
structure GoesOnTo (x : Group) (gi : Nat) : Prop where
  gi : x.gi = gi
  ended : x.ended = false
  handler : x.handler = false
  pad : x.pad = 0
  pend : x.pend = []
  loop : x.loop.active = false

/-- So do all groups of the state under a reference. -/
def AllGoOn (t : State) (r : GRef) : Prop :=
  ∀ w ∈ t.wgs, w.wid = r.wg → ∀ x ∈ w.groups, x.gi = r.gi → GoesOnTo x r.gi

theorem upd_congr {α : Type} {p : α → Bool} {f h : α → α} {l : List α} (hf : ∀ x ∈ l, p x = true → f x = h x) :
    upd p f l = upd p h l := by
  unfold upd
  refine List.map_congr_left fun x hx => ?_
  by_cases hp : p x = true
  · simp [hp, hf x hx hp]
  · simp [hp]

theorem modGroup_congr {t : State} {r : GRef} {f h : Group → Group}
    (hf : ∀ w ∈ t.wgs, w.wid = r.wg → ∀ x ∈ w.groups, x.gi = r.gi → f x = h x) : t.modGroup r f = t.modGroup r h := by
  unfold State.modGroup State.modWg
  congr 1
  refine upd_congr fun w hw hwid => ?_
  unfold Workgroup.modGroup
  congr 1
  exact upd_congr fun x hx hgi => hf w hw (by simpa using hwid) x hx (by simpa using hgi)

theorem mem_upd {α : Type} {p : α → Bool} {f : α → α} {l : List α} {y : α} (h : y ∈ upd p f l) :
    ∃ x ∈ l, y = (if p x then f x else x) := by
  unfold upd at h
  obtain ⟨x, hx, rfl⟩ := List.mem_map.mp h
  exact ⟨x, hx, rfl⟩

/-- After the issuing group has been changed, every group under its reference is one that the change made. -/
theorem allGoOn_modGroup {t : State} {r : GRef} {h : Group → Group}
    (hh : ∀ w ∈ t.wgs, w.wid = r.wg → ∀ x ∈ w.groups, x.gi = r.gi → GoesOnTo (h x) r.gi) : AllGoOn (t.modGroup r h) r := by
  intro w' hw' hwid' x' hx' hgi'
  obtain ⟨w, hw, rfl⟩ := mem_upd hw'
  by_cases hwid : w.wid = r.wg
  · simp only [hwid, beq_self_eq_true, if_true] at hx'
    obtain ⟨x, hx, rfl⟩ := mem_upd hx'
    by_cases hgi : x.gi = r.gi
    · simp only [hgi, beq_self_eq_true, if_true]
      exact hh w hw hwid x hx hgi
    · simp only [beq_iff_eq, hgi, if_false] at hgi'
  · simp only [beq_iff_eq, hwid, if_false] at hwid'

theorem allGoOn_setGroup {t : State} {r : GRef} {a : Group} (ha : GoesOnTo a r.gi) : AllGoOn (t.setGroup r a) r :=
  allGoOn_modGroup fun _ _ _ _ _ _ => ha

theorem allGoOn_with {t : State} {r : GRef} {a : Group} {h : Group → Group} (ha : a.gi = r.gi) (hh : GoesOnTo (h a) r.gi) :
    AllGoOn ((t.setGroup r a).modGroup r h) r := by
  rw [modGroup_setGroup _ _ _ _ ha]
  exact allGoOn_setGroup hh

theorem afterIssue_behind (f : Fire) {x : Group} (hh : f.g.advance.handler = false) (hx : GoesOnTo x f.ref.gi)
    (hsy : sySel f.g.advance [loneRead f.g.advance f.m f.dest] 0x19 = none) :
    x.afterIssue f.g.advance (loneBundle (mvWord f.m f.dest)) [loneMove f.m f.dest] [loneRead f.g.advance f.m f.dest]
      (loneWords (mvWord f.m f.dest)) f.l.textBase f.g.pc (loneLen f.m f.dest) false = f.behind x := by
  have h0 : (loneBundle (mvWord f.m f.dest)).header.pad = 0 := rfl
  rw [advance_handler] at hh
  cases ht : x.target <;>
    simp [Group.afterIssue, Fire.behind, loneDone, hx.ended, hh, hx.handler, hsy, h0, Group.countBundle, Group.countIssue,
      Group.finish, hx.pad, hx.pend, hx.loop, ht, Group.addWait]

theorem behind_gi (f : Fire) (x : Group) : (f.behind x).gi = x.gi := by
  unfold Fire.behind loneDone Group.countBundle Group.countIssue Group.addWait
  cases x.target <;> rfl

theorem behind_pend (f : Fire) (x : Group) : (f.behind x).pend = x.pend := by
  unfold Fire.behind loneDone Group.countBundle Group.countIssue Group.addWait
  cases x.target <;> rfl

theorem group?_mem {t : State} {r : GRef} {x : Group} (h : t.group? r = some x) :
    ∃ w ∈ t.wgs, w.wid = r.wg ∧ x ∈ w.groups ∧ x.gi = r.gi := by
  unfold State.group? at h
  cases hw : t.wg? r.wg with
  | none => rw [hw] at h; simp at h
  | some w =>
    rw [hw] at h
    have h1 := List.mem_of_find?_eq_some hw
    have h2 : w.wid = r.wg := by simpa using List.find?_some hw
    have h3 : x ∈ w.groups := List.mem_of_find?_eq_some h
    have h4 : x.gi = r.gi := by simpa using List.find?_some h
    exact ⟨w, h1, h2, h3, h4⟩

/-- A state whose issuing groups just go on: what step 8 of R221 comes to. -/
theorem over_of_allGoOn (f : Fire) {t : State} (hh : f.g.advance.handler = false) (ha : AllGoOn t f.ref)
    (hsy : sySel f.g.advance [loneRead f.g.advance f.m f.dest] 0x19 = none) :
    ((((t.modGroup f.ref fun x => x.afterIssue f.g.advance (loneBundle (mvWord f.m f.dest)) [loneMove f.m f.dest]
      [loneRead f.g.advance f.m f.dest] (loneWords (mvWord f.m f.dest)) f.l.textBase f.g.pc (loneLen f.m f.dest)
      false).explicitTrap f.ref f.l).clearMisses f.who).clearFw f.who none) = f.over t := by
  have h1 : (t.modGroup f.ref fun x => x.afterIssue f.g.advance (loneBundle (mvWord f.m f.dest)) [loneMove f.m f.dest]
      [loneRead f.g.advance f.m f.dest] (loneWords (mvWord f.m f.dest)) f.l.textBase f.g.pc (loneLen f.m f.dest) false) =
      t.modGroup f.ref f.behind :=
    modGroup_congr fun w hw hwid x hx hgi => afterIssue_behind f hh (ha w hw hwid x hx hgi) hsy
  rw [h1]
  unfold Fire.over
  have h2 : (t.modGroup f.ref f.behind).explicitTrap f.ref f.l = t.modGroup f.ref f.behind := by
    cases hg : (t.modGroup f.ref f.behind).group? f.ref with
    | none => simp [State.explicitTrap, hg]
    | some x =>
      refine explicitTrap_none _ _ _ x hg ?_
      rw [group?_modGroup _ _ _ (fun x hx => (behind_gi f x).trans hx)] at hg
      obtain ⟨y, hy, rfl⟩ := Option.map_eq_some_iff.mp hg
      obtain ⟨w, hw, hwid, hyw, hgi⟩ := group?_mem hy
      rw [behind_pend]
      exact (ha w hw hwid y hyw hgi).pend
  rw [h2]

theorem lone_trig? {g : Group} {m : Mv} {dest : BitVec 12} {u q : Nat} (hd : decodeDest dest = .ok (.trigger u q)) :
    (loneRead g m dest).m.trig? = some (u, q) := by
  unfold PMove.trig?
  rw [show (loneRead g m dest).m.dest = .trigger u q from lone_dest hd]

theorem sySel_other {g : Group} {m : Mv} {dest : BitVec 12} {u q p : Nat} (hd : decodeDest dest = .ok (.trigger u q))
    (h : ¬(u = 0x12 ∧ q = p)) : sySel g [loneRead g m dest] p = none := by
  unfold sySel
  simp [lone_trig? hd, h]

/-- The lanes of a move and the value it delivers, after the results due have become visible. -/
theorem lanes_advance (g : Group) (m : Mv) (dest : BitVec 12) : (loneMove m dest).lanes g.advance = (loneMove m dest).lanes g := by
  have hk : g.advance.kregs = g.kregs := moveFree_kregs.advance g
  have hb : g.advance.kbad = g.kbad := moveFree_kbad.advance g
  unfold PMove.lanes Group.kVal Group.k0 Group.k
  rw [hk, hb, advance_width]

theorem read_val (f : Fire) (k : Nat) (hk : k < f.g.width) : (loneRead f.g.advance f.m f.dest).val k = f.t k := by
  simp [RMove.val, loneRead, Fire.t, hk]

theorem lone_trigIn {f : Fire} {u q : Nat} (hd : decodeDest f.dest = .ok (.trigger u q)) :
    ({ g := f.ref, bus := (loneRead f.g.advance f.m f.dest).m.bus, unit := u, port := q
       lanes := (loneRead f.g.advance f.m f.dest).lanes
       t := (List.range (loneMoved f.g f.m f.dest).width).map (loneRead f.g.advance f.m f.dest).val
       pc := f.l.textOffset f.g.pc, next := f.l.textOffset f.g.pc + w32 (loneLen f.m f.dest) } : TrigIn) = f.trigIn u q := by
  have hw : (loneMoved f.g f.m f.dest).width = f.g.width := moveFree_width.moved f.g hd
  have ht : (List.range (loneMoved f.g f.m f.dest).width).map (loneRead f.g.advance f.m f.dest).val =
      (List.range f.g.width).map f.t := by
    rw [hw]
    exact List.map_congr_left fun k hk => read_val f k (List.mem_range.mp hk)
  unfold Fire.trigIn
  rw [ht]
  congr 1
  exact lanes_advance f.g f.m f.dest

/-- The trigger of a lone move that answers a state in which its group goes on. -/
theorem fires_of {mk : Mv → Instr} {dest : BitVec 12} {hyp : Fire → Prop} {post : Fire → State} {u q : Nat} {tr : Trigger}
    (he : ∀ m s, exec (mk m) s = issueOne dest m s) (hd : decodeDest dest = .ok (.trigger u q))
    (ht : trigTable u q = some tr) (hn : ¬(u = 0x12 ∧ q = 0x19))
    (h : ∀ f : Fire, f.dest = dest → Ready f.s f.m f.dest f.w f.g f.l f.who → hyp f →
      tr (f.trigIn u q) f.start = .ok (post f) ∧ AllGoOn (post f) f.ref) :
    Fires mk dest hyp post := by
  intro s m w g l who hr hh
  obtain ⟨hok, hgo⟩ := h ⟨s, m, dest, w, g, l, who⟩ rfl hr hh
  have hsy := sySel_other (g := g.advance) (m := m) (p := 0x19) hd hn
  have ha := ready_goesOn hr
  have hsig : segchkBad (loneMoved g m dest) g.advance [loneRead g.advance m dest] = none := by
    simp [segchkBad, hsy]
  rw [he]
  have hst : startTriggers trigTable (refOf w g) (l.textOffset g.pc) (l.textOffset g.pc + w32 (loneLen m dest))
      (loneMoved g m dest).width s [loneRead g.advance m dest] (s.setGroup (refOf w g) (loneMoved g m dest)) =
      .ok (post ⟨s, m, dest, w, g, l, who⟩) := by
    have hin := lone_trigIn (f := ⟨s, m, dest, w, g, l, who⟩) hd
    simp only [startTriggers, lone_trig? hd, ht]
    rw [show (refOf w g) = Fire.ref ⟨s, m, dest, w, g, l, who⟩ from rfl]
    rw [hin]
    have : tr (Fire.trigIn ⟨s, m, dest, w, g, l, who⟩ u q) (s.setGroup (refOf w g) (loneMoved g m dest)) =
      .ok (post ⟨s, m, dest, w, g, l, who⟩) := hok
    rw [show Fire.ref ⟨s, m, dest, w, g, l, who⟩ = refOf w g from rfl, this]
  rw [issueOne_ready hr hsig hst]
  exact congrArg _ (over_of_allGoOn ⟨s, m, dest, w, g, l, who⟩ ha.handler hgo hsy)

end Sys2Proof.Claims
end

