-- ==== Sys2Proof/Laws/LaneUnits.lean ====
section
/-!
SUPPORT. LaneUnits: a lone trigger of a fixed-latency unit, once for all of them.
-/

namespace Sys2Proof.Claims

open Sys2Proof.Machine

/-- The inputs of a lane are those of the group before the bundle. -/
theorem laneIn_moved (f : Fire) {u q : Nat} (hd : decodeDest f.dest = .ok (.trigger u q)) (k : Nat) (t : W64) :
    laneIn f.moved u k t = laneIn f.g u k t := by
  unfold laneIn Fire.moved
  congr 1
  · exact (moveFree_opnd k u 0).moved f.g hd
  · exact (moveFree_opnd k u 1).moved f.g hd
  · exact (moveFree_opnd k u 2).moved f.g hd
  · exact (moveFree_opnd k u 3).moved f.g hd
  · exact (moveFree_gen k).moved f.g hd

theorem tv_trigIn (f : Fire) (u q k : Nat) (hk : k < f.g.width) : (f.trigIn u q).tv k = f.t k := by
  simp [TrigIn.tv, Fire.trigIn, hk]

theorem moved_width (f : Fire) {u q : Nat} (hd : decodeDest f.dest = .ok (.trigger u q)) : f.moved.width = f.g.width :=
  moveFree_width.moved f.g hd

theorem moved_goesOnTo (f : Fire) {u q : Nat} (hd : decodeDest f.dest = .ok (.trigger u q))
    (hr : Ready f.s f.m f.dest f.w f.g f.l f.who) {x : Group} (hx : steer x = steer f.moved) : GoesOnTo x f.ref.gi := by
  have := goesOn_of_steer hr (hx.trans (moveFree_steer.moved f.g hd))
  exact ⟨this.gi, this.ended, this.handler, this.pad, this.pend, this.loop⟩

/-- What a lane trigger does to the group that has made its move. -/
theorem laneTrigger_start (f : Fire) {u q : Nat} (hd : decodeDest f.dest = .ok (.trigger u q))
    (hgi : f.moved.gi = f.ref.gi) (hu : f.unit = u) (h : LaneIn → LaneOut) (rule : LaneRule)
    (hh : ∀ i, h i = rule f.flush i) :
    laneTrigger h (f.trigIn u q) f.start = .ok (f.with (f.staged (latency u) (f.outs rule))) := by
  have houts : ((List.range f.moved.width).map fun l =>
      if (f.trigIn u q).lanes.getLsbD l then some (h (laneIn f.moved (f.trigIn u q).unit l ((f.trigIn u q).tv l))) else none) =
      f.outs rule := by
    rw [moved_width f hd]
    refine List.map_congr_left fun k hk => ?_
    have hk := List.mem_range.mp hk
    rw [tv_trigIn f u q k hk, hh]
    show (if f.lanes.getLsbD k then some (rule f.flush (laneIn f.moved u k (f.t k))) else none) = _
    rw [laneIn_moved f hd]
    unfold Fire.input
    rw [hu]
  unfold laneTrigger State.onGroup Fire.with Fire.start
  rw [show (f.trigIn u q).g = f.ref from rfl, modGroup_setGroup _ _ _ _ hgi, modGroup_setGroup _ _ _ _ hgi]
  congr 2
  simp only [houts]
  unfold Fire.staged Group.stage
  rw [show (f.trigIn u q).unit = u from rfl, show (f.trigIn u q).lanes = f.lanes from rfl, hu]
  unfold resultOf writesRb
  split <;> rfl

theorem steer_staged (f : Fire) (lat : Nat) (outs : List (Option LaneOut)) (x : Group) : steer (f.staged lat outs x) = steer x := rfl

theorem moved_gi (f : Fire) {u q : Nat} (hd : decodeDest f.dest = .ok (.trigger u q)) : f.moved.gi = f.ref.gi :=
  moveFree_gi.moved f.g hd

theorem laneOp_of {mk : Mv → Instr} {dest : BitVec 12} {rule : LaneRule} {u q : Nat} {h : LaneIn → LaneOut}
    (he : ∀ m s, exec (mk m) s = issueOne dest m s) (hd : decodeDest dest = .ok (.trigger u q))
    (hu : dest.toNat / 128 = u) (ht : trigTable u q = some (laneTrigger h)) (hn : ¬(u = 0x12 ∧ q = 0x19))
    (hh : ∀ b i, h i = rule b i) : LaneUnit mk dest (latency u) rule := by
  refine fires_of he hd ht hn fun f hf hr _ => ?_
  obtain rfl := hf
  have hgi := moved_gi f hd
  exact ⟨laneTrigger_start f hd hgi hu h rule fun i => hh _ i,
    allGoOn_with hgi (moved_goesOnTo f hd hr (steer_staged f _ _ _))⟩

end Sys2Proof.Claims
end

