-- ==== Sys2Proof/Laws/Memory.lean ====
section
/-!
SUPPORT. Memory: every operation on memory keeps its canonical form, first on the list of bytes, then on the state.
-/

namespace Sys2Proof.Machine

/-! ### The list of bytes -/

/-- Every address of the list is above `a`. -/
def Memory.above (a : Nat) (m : Memory) : Prop := ∀ c ∈ m, a < c.1

theorem Memory.wf_nil : Memory.wf [] = true := rfl

theorem Memory.wf_cons (x : Nat) (v : Byte) (m : Memory) :
    Memory.wf ((x, v) :: m) = true ↔ Memory.wf m = true ∧ v ≠ 0 ∧ Memory.above x m := by
  induction m generalizing x v with
  | nil => simp [Memory.wf, Memory.rising, Memory.above]
  | cons c m ih =>
    obtain ⟨y, w⟩ := c
    simp only [Memory.wf, Memory.rising, List.all_cons, Bool.and_eq_true, decide_eq_true_eq, bne_iff_ne, ne_eq] at ih ⊢
    simp only [Memory.above, List.mem_cons, forall_eq_or_imp] at ih ⊢
    constructor
    · rintro ⟨⟨h1, h2⟩, h3, h4, h5⟩
      exact ⟨⟨h2, h4, h5⟩, h3, h1, fun c hc => Nat.lt_trans h1 (((ih y w).1 ⟨h2, h4, h5⟩).2.2 c hc)⟩
    · rintro ⟨⟨h2, h4, h5⟩, h3, h1, _⟩
      exact ⟨⟨h1, h2⟩, h3, h4, h5⟩

theorem Memory.wf_tail {c : Nat × Byte} {m : Memory} (h : Memory.wf (c :: m) = true) : Memory.wf m = true :=
  ((wf_cons c.1 c.2 m).1 h).1

theorem Memory.put_wf (a : Nat) (b : Byte) (m : Memory) (h : m.wf = true) (ha : Memory.above a m) : (m.put a b).wf = true := by
  unfold Memory.put
  split
  · exact h
  · rename_i hb
    exact (wf_cons a b m).2 ⟨h, by simpa using hb, ha⟩

theorem Memory.put_above (x a : Nat) (b : Byte) (m : Memory) (hx : x < a) (h : Memory.above x m) : Memory.above x (m.put a b) := by
  unfold Memory.put
  split
  · exact h
  · intro c hc
    rcases List.mem_cons.1 hc with rfl | hc
    · exact hx
    · exact h c hc

theorem Memory.write_above (x a : Nat) (b : Byte) (m : Memory) (hx : x < a) (h : Memory.above x m) :
    Memory.above x (m.write a b) := by
  induction m with
  | nil => exact put_above x a b [] hx h
  | cons c m ih =>
    obtain ⟨y, w⟩ := c
    unfold Memory.write
    split
    · exact put_above x a b _ hx h
    · split
      · exact put_above x a b m hx fun c hc => h c (List.mem_cons_of_mem _ hc)
      · intro c hc
        rcases List.mem_cons.1 hc with rfl | hc
        · exact h _ List.mem_cons_self
        · exact ih (fun c hc => h c (List.mem_cons_of_mem _ hc)) c hc

/-- A write of one byte keeps the form. -/
theorem Memory.write_wf (m : Memory) (a : Nat) (b : Byte) (h : m.wf = true) : (m.write a b).wf = true := by
  induction m with
  | nil => exact put_wf a b [] h fun c hc => absurd hc List.not_mem_nil
  | cons c m ih =>
    obtain ⟨y, w⟩ := c
    obtain ⟨hm, hw, hab⟩ := (wf_cons y w m).1 h
    unfold Memory.write
    split
    · rename_i hlt
      refine put_wf a b _ h fun c hc => ?_
      rcases List.mem_cons.1 hc with rfl | hc
      · exact hlt
      · exact Nat.lt_trans hlt (hab c hc)
    · rename_i hge
      split
      · rename_i heq
        have : y = a := by simpa using heq
        exact put_wf a b m hm (this ▸ hab)
      · rename_i hne
        have hya : y < a := Nat.lt_of_le_of_ne (Nat.not_lt.1 hge) (by simpa using hne)
        exact (wf_cons y w _).2 ⟨ih hm, hw, write_above y a b m hya hab⟩

/-- A write of a run of bytes keeps the form. -/
theorem Memory.writeBytes_wf (m : Memory) (a : Nat) (bs : List Byte) (h : m.wf = true) : (m.writeBytes a bs).wf = true := by
  induction bs generalizing m a with
  | nil => exact h
  | cons b bs ih => exact ih _ _ (write_wf m a b h)

/-- A write of a number keeps the form. -/
theorem Memory.writeNat_wf (m : Memory) (a n v : Nat) (h : m.wf = true) : (m.writeNat a n v).wf = true := writeBytes_wf _ _ _ h

/-- Taking bytes away keeps the form. -/
theorem Memory.filter_wf (p : Nat × Byte → Bool) (m : Memory) (h : m.wf = true) : Memory.wf (m.filter p) = true := by
  induction m with
  | nil => exact h
  | cons c m ih =>
    obtain ⟨y, w⟩ := c
    obtain ⟨hm, hw, hab⟩ := (wf_cons y w m).1 h
    rw [List.filter_cons]
    split
    · exact (wf_cons y w _).2 ⟨ih hm, hw, fun c hc => hab c (List.mem_filter.1 hc).1⟩
    · exact ih hm

/-- Zeroing a range keeps the form. -/
theorem Memory.zero_wf (m : Memory) (a len : Nat) (h : m.wf = true) : (m.zero a len).wf = true := filter_wf _ m h

/-! ### The state -/

theorem plainUnit_memOk (s : State) (ctx pa : Nat) (h : MemOk s) : MemOk (s.plainUnit ctx pa) := by
  have ht : MemOk (if s.sealedFor ctx (pa / 128) then
      { s with
        mem := s.mem.writeBytes (pa / 128 * 128) ((List.range 128).map fun i => s.plainByte ctx (pa / 128 * 128 + i))
        rawUnits := drop (· == pa / 128) s.rawUnits }
    else s) := by
    split
    · unfold MemOk
      dsimp only
      generalize List.map _ _ = plain
      exact Memory.writeBytes_wf s.mem _ plain h
    · exact h
  unfold State.plainUnit
  dsimp only
  split <;> exact ht

/-- A write of one byte through a physical address keeps memory canonical. -/
theorem writeByte_memOk (s : State) (own : Option Nat) (ctx pa : Nat) (b : Byte) (h : MemOk s) :
    MemOk (s.writeByte own ctx pa b) := by
  unfold State.writeByte
  split
  · split
    · split
      · exact Memory.write_wf _ _ _ (plainUnit_memOk s ctx _ h)
      · exact h
    · exact Memory.write_wf _ _ _ (plainUnit_memOk s ctx _ h)
  · exact Memory.write_wf _ _ _ h

/-- A write of a run of bytes keeps memory canonical. -/
theorem writePhys_memOk (s : State) (own : Option Nat) (ctx pa : Nat) (bs : List Byte) (h : MemOk s) :
    MemOk (s.writePhys own ctx pa bs) := by
  induction bs generalizing s pa with
  | nil => exact h
  | cons b bs ih => exact ih _ _ (writeByte_memOk s own ctx pa b h)

/-- The device's own write of a word keeps memory canonical. -/
theorem writeWord_memOk (s : State) (ctx pa : Nat) (v : W64) (h : MemOk s) : MemOk (s.writeWord ctx pa v) :=
  writePhys_memOk s none ctx pa _ h

/-- A write of a byte changes memory, its units and overlay masks: no workgroup and no context. -/
theorem writeByte_frame (s : State) (own : Option Nat) (ctx pa : Nat) (b : Byte) :
    (s.writeByte own ctx pa b).wgs = s.wgs ∧ (s.writeByte own ctx pa b).contexts = s.contexts := by
  have hu : ∀ n, (s.plainUnit ctx n).wgs = s.wgs ∧ (s.plainUnit ctx n).contexts = s.contexts := fun n => by
    unfold State.plainUnit
    dsimp only
    split <;> split <;> exact ⟨rfl, rfl⟩
  unfold State.writeByte
  split
  · split
    · split
      · exact hu _
      · exact ⟨rfl, rfl⟩
    · exact hu _
  · exact ⟨rfl, rfl⟩

/-- A stray write of a raced context likewise (R94). -/
theorem strayByte_frame (s : State) (ctx va : Nat) (b : Byte) :
    (s.strayByte ctx va b).wgs = s.wgs ∧ (s.strayByte ctx va b).contexts = s.contexts := by
  unfold State.strayByte
  split
  · exact ⟨rfl, rfl⟩
  · split
    · dsimp only
      split
      · exact writeByte_frame s none ctx _ b
      · exact ⟨rfl, rfl⟩
    · exact ⟨rfl, rfl⟩

/-- What may stray keeps every context and, of a workgroup, everything but bytes of its scratchpad. -/
theorem stray_frame (s : State) (ctx wid : Nat) (w : Workgroup) (h : s.wg? wid = some w) :
    (s.stray ctx).contexts = s.contexts ∧ ∃ m, (s.stray ctx).wg? wid = some { w with scratch := m } := by
  unfold State.stray
  split
  · exact ⟨rfl, w.scratch, h⟩
  · dsimp only
    refine ⟨(strayByte_frame _ _ _ _).2, ?_⟩
    unfold State.wg? at h ⊢
    rw [(strayByte_frame _ _ _ _).1, List.find?_map]
    have hp : ∀ (c : Workgroup → Bool) (f : Workgroup → Memory),
        ((fun x : Workgroup => x.wid == wid) ∘ fun x => if c x then { x with scratch := f x } else x) = fun x => x.wid == wid := by
      intro c f
      funext x
      dsimp only [Function.comp]
      split <;> rfl
    rw [hp, h]
    simp only [Option.map_some]
    split
    · exact ⟨_, rfl⟩
    · exact ⟨w.scratch, rfl⟩

/-- Zeroing a range keeps memory canonical. -/
theorem zeroPhys_memOk (s : State) (pa len : Nat) (h : MemOk s) : MemOk (s.zeroPhys pa len) := Memory.zero_wf _ _ _ h

end Sys2Proof.Machine
end

