-- ==== Sys2Proof/Laws/Parts.lean ====
section
/-!
SUPPORT. Parts: reading a context, stream, launch, core, part or counter after it, or another one, has changed.
-/

namespace Sys2Proof.Machine

theorem find?_append_none {α : Type} (p : α → Bool) (l : List α) (x : α) (h : l.any p = false) (hx : p x = true) :
    (l ++ [x]).find? p = some x := by
  have hn : l.find? p = none := by
    simpa using h
  simp [List.find?_append, hn, hx]

/-- The entry that an upsert has changed, or made. -/
theorem find?_upsert {α : Type} (p : α → Bool) (new : α) (f : α → α) (hp : ∀ x, p x = true → p (f x) = true) (hn : p new = true)
    (l : List α) : (upsert p new f l).find? p = some (f ((l.find? p).getD new)) := by
  unfold upsert
  split
  · next h =>
    rw [find?_upd p f hp]
    obtain ⟨x, hx, hpx⟩ := List.any_eq_true.1 h
    cases hf : l.find? p with
    | none => exact absurd hpx (by simpa using List.find?_eq_none.1 hf x hx)
    | some y => rfl
  · next h =>
    have hn' : l.find? p = none := by simpa using h
    rw [find?_append_none p l _ (by simpa using h) (hp _ hn), hn']
    rfl

/-- Another entry stays what it was. -/
theorem find?_upsert_ne {α : Type} (p q : α → Bool) (new : α) (f : α → α) (hq : ∀ x, q (f x) = q x)
    (h : ∀ x, q x = true → p x = false) (hn : q new = false) (l : List α) :
    (upsert p new f l).find? q = l.find? q := by
  unfold upsert
  split
  · exact find?_upd_ne p q f hq h l
  · simp [List.find?_append, hq, hn]

theorem ctx_num (s : State) (n : Nat) : (s.ctx n).num = n := by
  unfold State.ctx
  cases h : s.contexts.find? (·.num == n) with
  | none => rfl
  | some c => simpa using List.find?_some h

theorem ctx_modCtx (s : State) (n : Nat) (f : Context → Context) (hf : ∀ c, (f c).num = c.num) :
    (s.modCtx n f).ctx n = f (s.ctx n) := by
  unfold State.ctx State.modCtx
  rw [find?_upsert (fun c : Context => c.num == n) (Context.reset n) f (fun c h => by simpa [hf] using h)
    (by simp [Context.reset])]
  rfl

theorem ctx_modCtx_ne (s : State) (n m : Nat) (f : Context → Context) (hf : ∀ c, (f c).num = c.num) (h : m ≠ n) :
    (s.modCtx n f).ctx m = s.ctx m := by
  unfold State.ctx State.modCtx
  rw [find?_upsert_ne (fun c : Context => c.num == n) (fun c : Context => c.num == m) (Context.reset n) f
    (fun c => by simp [hf]) (fun c hc => by
      have : c.num = m := by simpa using hc
      simp [this, h]) (by simp [Context.reset, Ne.symm h])]

theorem strm_num (s : State) (n : Nat) : (s.strm n).num = n := by
  unfold State.strm
  cases h : s.streams.find? (·.num == n) with
  | none => rfl
  | some c => simpa using List.find?_some h

theorem strm_modStrm (s : State) (n : Nat) (f : Stream → Stream) (hf : ∀ c, (f c).num = c.num) :
    (s.modStrm n f).strm n = f (s.strm n) := by
  unfold State.strm State.modStrm
  rw [find?_upsert (fun c : Stream => c.num == n) (Stream.reset n) f (fun c h => by simpa [hf] using h)
    (by simp [Stream.reset])]
  rfl

theorem core_modCore (s : State) (c : CoreId) (f : Core → Core) (hf : ∀ k, (f k).id = k.id) :
    (s.modCore c f).core c = f (s.core c) := by
  unfold State.core State.modCore
  rw [find?_upsert (fun k : Core => k.id == c) (Core.reset c) f (fun k h => by simpa [hf] using h) (by simp [Core.reset])]
  rfl

theorem part_modPart (s : State) (n : Nat) (f : Part → Part) (hf : ∀ c, (f c).num = c.num) :
    (s.modPart n f).part n = f (s.part n) := by
  unfold State.part State.modPart
  rw [find?_upsert (fun c : Part => c.num == n) (Part.reset n) f (fun c h => by simpa [hf] using h) (by simp [Part.reset])]
  rfl

theorem launch?_modLaunch (s : State) (lid : Nat) (f : Launch → Launch) (hf : ∀ l, (f l).lid = l.lid) :
    (s.modLaunch lid f).launch? lid = (s.launch? lid).map f :=
  find?_upd _ f (fun l h => by simpa [hf] using h) _

theorem counter?_modCounter (s : State) (word : Nat) (f : Counter → Counter) (hf : ∀ c, (f c).word = c.word) :
    (s.modCounter word f).counter? word = (s.counter? word).map f :=
  find?_upd _ f (fun c h => by simpa [hf] using h) _

/-! What is read of one list does not depend on the others. -/

@[simp] theorem ctx_modStrm (s : State) (n m : Nat) (f : Stream → Stream) : (s.modStrm n f).ctx m = s.ctx m := rfl
@[simp] theorem ctx_modLaunch (s : State) (n m : Nat) (f : Launch → Launch) : (s.modLaunch n f).ctx m = s.ctx m := rfl
@[simp] theorem ctx_modWg (s : State) (n m : Nat) (f : Workgroup → Workgroup) : (s.modWg n f).ctx m = s.ctx m := rfl
@[simp] theorem ctx_modCore (s : State) (c : CoreId) (m : Nat) (f : Core → Core) : (s.modCore c f).ctx m = s.ctx m := rfl
@[simp] theorem launch?_modCtx (s : State) (n m : Nat) (f : Context → Context) : (s.modCtx n f).launch? m = s.launch? m := rfl
@[simp] theorem launch?_modStrm (s : State) (n m : Nat) (f : Stream → Stream) : (s.modStrm n f).launch? m = s.launch? m := rfl
@[simp] theorem launch?_modWg (s : State) (n m : Nat) (f : Workgroup → Workgroup) : (s.modWg n f).launch? m = s.launch? m := rfl
@[simp] theorem strm_modCtx (s : State) (n m : Nat) (f : Context → Context) : (s.modCtx n f).strm m = s.strm m := rfl
@[simp] theorem wg?_modCtx (s : State) (n m : Nat) (f : Context → Context) : (s.modCtx n f).wg? m = s.wg? m := rfl
@[simp] theorem wg?_modLaunch (s : State) (n m : Nat) (f : Launch → Launch) : (s.modLaunch n f).wg? m = s.wg? m := rfl
@[simp] theorem wg?_modCounter (s : State) (n m : Nat) (f : Counter → Counter) : (s.modCounter n f).wg? m = s.wg? m := rfl

end Sys2Proof.Machine
end

