-- ==== Sys2Proof/Laws/Start.lean ====
section
/-!
SUPPORT. Start: what a trigger of a lone move finds in the state in which it starts, and statements about triggers that change
only their group.
-/

namespace Sys2Proof.Claims

open Sys2Proof.Machine

theorem ready_moved_gi {f : Fire} {u q : Nat} (hd : decodeDest f.dest = .ok (.trigger u q)) : f.moved.gi = f.ref.gi := moved_gi f hd

/-- The trigger finds its group as its move has left it. -/
theorem start_group {f : Fire} {u q : Nat} (hd : decodeDest f.dest = .ok (.trigger u q))
    (hr : Ready f.s f.m f.dest f.w f.g f.l f.who) : f.start.group? f.ref = some f.moved :=
  group?_setGroup _ _ _ _ hr.group (moved_gi f hd)

theorem start_launch {f : Fire} (hr : Ready f.s f.m f.dest f.w f.g f.l f.who) : f.start.launchOf? f.ref = some f.l := by
  have h := hr.launch
  unfold State.launchOf? at h ⊢
  unfold Fire.start State.setGroup State.modGroup
  rw [wg?_modWg f.s f.ref.wg (fun w => w.modGroup f.ref.gi fun _ => f.moved) (fun _ => rfl)]
  show ((f.s.wg? (refOf f.w f.g).wg).map _).bind _ = _
  cases hw : f.s.wg? (refOf f.w f.g).wg with
  | none => rw [hw] at h; simp at h
  | some w => rw [hw] at h; exact h

theorem start_wg {f : Fire} {w : Workgroup} (h : f.s.wg? f.ref.wg = some w) :
    f.start.wg? f.ref.wg = some (w.modGroup f.ref.gi fun _ => f.moved) := by
  unfold Fire.start State.setGroup State.modGroup
  rw [wg?_modWg f.s f.ref.wg (fun w => w.modGroup f.ref.gi fun _ => f.moved) (fun _ => rfl), h]
  rfl

theorem moveFree_slot : MoveFree Group.slot :=
  moveFree_field (fun _ _ => rfl) (fun _ _ => rfl) (fun _ _ => rfl) (fun _ _ => rfl) (fun _ _ => rfl) (fun _ _ _ => rfl)
    (fun _ _ => rfl) (fun _ _ => rfl) (fun _ _ => rfl) (fun _ _ _ => rfl)

theorem moveFree_seg : MoveFree Group.seg :=
  moveFree_field (fun _ _ => rfl) (fun _ _ => rfl) (fun _ _ => rfl) (fun _ _ => rfl) (fun _ _ => rfl) (fun _ _ _ => rfl)
    (fun _ _ => rfl) (fun _ _ => rfl) (fun _ _ => rfl) (fun _ _ _ => rfl)

/-- It translates under what the group translates under before its move. -/
theorem start_who {f : Fire} {u q : Nat} (hd : decodeDest f.dest = .ok (.trigger u q))
    (hr : Ready f.s f.m f.dest f.w f.g f.l f.who) : f.start.who? f.ref = some f.who := by
  have h := hr.who
  have hg := hr.group
  unfold State.who? at h ⊢
  unfold State.group? at hg
  cases hw : f.s.wg? (refOf f.w f.g).wg with
  | none => rw [hw] at h; simp at h
  | some w =>
    rw [hw] at h hg
    simp only [Option.bind_some] at hg
    rw [show f.start.wg? f.ref.wg = _ from start_wg (f := f) hw]
    have hg' : (w.modGroup f.ref.gi fun _ => f.moved).group? f.ref.gi = some f.moved := by
      rw [wg_group?_modGroup _ _ _ (fun _ _ => moved_gi f hd), show w.group? f.ref.gi = some f.g from hg]
      rfl
    simp only [Option.bind_eq_bind, Option.bind_some, hg, hg'] at h ⊢
    have hslot : f.moved.slot = f.g.slot := moveFree_slot.moved f.g hd
    have hseg : f.moved.seg = f.g.seg := moveFree_seg.moved f.g hd
    rw [hslot, hseg]
    exact h

theorem width_trigIn (f : Fire) (u q : Nat) : (f.trigIn u q).width = f.g.width := by
  simp [TrigIn.width, Fire.trigIn]

theorem first_lt {f : Fire} {k : Nat} (h : f.first = some k) : k < f.g.width := by
  have hm := List.mem_of_mem_head? (show k ∈ (lanesOf f.g.width f.lanes).head? from h)
  unfold lanesOf at hm
  exact List.mem_range.mp (List.mem_filter.mp hm).1

theorem lowest_trigIn (f : Fire) (u q : Nat) : lowestLane (f.trigIn u q).width (f.trigIn u q).lanes = f.first := by
  rw [width_trigIn]
  rfl

theorem moved_opnd (f : Fire) {u q : Nat} (hd : decodeDest f.dest = .ok (.trigger u q)) (k u' p : Nat) :
    f.moved.opnd k u' p = f.g.opnd k u' p := (moveFree_opnd k u' p).moved f.g hd

theorem with_eq (f : Fire) {u q : Nat} (hd : decodeDest f.dest = .ok (.trigger u q)) (h : Group → Group) :
    f.with h = f.s.setGroup f.ref (h f.moved) := modGroup_setGroup _ _ _ _ (moved_gi f hd)

/-- A trigger that changes only its group, and lets it go on. -/
theorem fires_with {mk : Mv → Instr} {dest : BitVec 12} {hyp : Fire → Prop} {h : Fire → Group → Group} {u q : Nat} {tr : Trigger}
    (he : ∀ m s, exec (mk m) s = issueOne dest m s) (hd : decodeDest dest = .ok (.trigger u q))
    (ht : trigTable u q = some tr) (hn : ¬(u = 0x12 ∧ q = 0x19))
    (htr : ∀ f : Fire, f.dest = dest → Ready f.s f.m f.dest f.w f.g f.l f.who → hyp f →
      tr (f.trigIn u q) f.start = .ok (f.with (h f)) ∧ GoesOnTo (h f f.moved) f.ref.gi) :
    Fires mk dest hyp fun f => f.with (h f) := by
  refine fires_of he hd ht hn fun f hf hr hh => ?_
  obtain rfl := hf
  obtain ⟨h1, h2⟩ := htr f rfl hr hh
  exact ⟨h1, allGoOn_with (moved_gi f hd) h2⟩

/-- The state in which the trigger starts lets its group go on. -/
theorem start_goesOn (f : Fire) {u q : Nat} (hd : decodeDest f.dest = .ok (.trigger u q))
    (hr : Ready f.s f.m f.dest f.w f.g f.l f.who) : AllGoOn f.start f.ref :=
  allGoOn_setGroup (moved_goesOnTo f hd hr rfl)

/-- A trigger that does nothing. -/
theorem fires_start {mk : Mv → Instr} {dest : BitVec 12} {hyp : Fire → Prop} {u q : Nat} {tr : Trigger}
    (he : ∀ m s, exec (mk m) s = issueOne dest m s) (hd : decodeDest dest = .ok (.trigger u q))
    (ht : trigTable u q = some tr) (hn : ¬(u = 0x12 ∧ q = 0x19))
    (htr : ∀ f : Fire, f.dest = dest → Ready f.s f.m f.dest f.w f.g f.l f.who → hyp f →
      tr (f.trigIn u q) f.start = .ok f.start) :
    Fires mk dest hyp Fire.start :=
  fires_of he hd ht hn fun f hf hr hh => ⟨htr f hf hr hh, start_goesOn f (hf ▸ hd) hr⟩

theorem sySelf_start {f : Fire} {u q : Nat} (hd : decodeDest f.dest = .ok (.trigger u q))
    (hr : Ready f.s f.m f.dest f.w f.g f.l f.who) :
    f.start.sySelf (f.trigIn u q) = f.first.map fun k => (f.moved, f.l, k) := by
  unfold State.sySelf
  rw [show (f.trigIn u q).g = f.ref from rfl, start_group hd hr, start_launch hr, lowest_trigIn]
  cases f.first <;> rfl

/-- A trigger of sy that changes only its group. -/
theorem syGroup_start {f : Fire} {u q : Nat} (hd : decodeDest f.dest = .ok (.trigger u q))
    (hr : Ready f.s f.m f.dest f.w f.g f.l f.who) (F : Group → Launch → Nat → Except TrapInfo Group) :
    syGroup F (f.trigIn u q) f.start = match f.first with
      | none => .ok f.start
      | some k => match F f.moved f.l k with
        | .ok x => .ok (f.s.setGroup f.ref x)
        | .error t => .trap t := by
  unfold syGroup
  rw [sySelf_start hd hr]
  cases f.first with
  | none => rfl
  | some k =>
    simp only [Option.map_some]
    cases F f.moved f.l k with
    | error t => rfl
    | ok x =>
      simp only
      show TrigRes.ok (f.start.setGroup f.ref x) = _
      unfold Fire.start
      rw [show ∀ t : State, t.setGroup f.ref x = t.modGroup f.ref fun _ => x from fun _ => rfl,
        modGroup_setGroup _ _ _ _ (moved_gi f hd)]

/-- A trigger of sy that changes only its group, where it applies. -/
theorem firesAt_syGroup {mk : Mv → Instr} {dest : BitVec 12} {u q : Nat} {tr : Trigger}
    {F : Fire → Group → Launch → Nat → Except TrapInfo Group} {ok : Fire → Nat → Prop} {h : Fire → Nat → Group → Group}
    (he : ∀ m s, exec (mk m) s = issueOne dest m s) (hd : decodeDest dest = .ok (.trigger u q))
    (ht : trigTable u q = some tr) (hn : ¬(u = 0x12 ∧ q = 0x19))
    (htr : ∀ f : Fire, tr (f.trigIn u q) f.start = syGroup (F f) (f.trigIn u q) f.start)
    (hF : ∀ f : Fire, ∀ k, f.dest = dest → Ready f.s f.m f.dest f.w f.g f.l f.who → f.first = some k → ok f k →
      F f f.moved f.l k = .ok (h f k f.moved) ∧ GoesOnTo (h f k f.moved) f.ref.gi) :
    FiresAt mk dest ok fun f k => f.with (h f k) := by
  refine ⟨fun k => fires_with he hd ht hn ?_, fires_start he hd ht hn ?_⟩
  · intro f hf hr ⟨h1, h2⟩
    obtain ⟨h3, h4⟩ := hF f k hf hr h1 h2
    refine ⟨?_, h4⟩
    rw [htr, syGroup_start (hf ▸ hd) hr, h1]
    simp only [h3]
    rw [with_eq f (hf ▸ hd)]
  · intro f hf hr h1
    rw [htr, syGroup_start (hf ▸ hd) hr, h1]

/-- A trigger that does something where it applies, and nothing where it does not. -/
theorem firesAt_of {mk : Mv → Instr} {dest : BitVec 12} {u q : Nat} {tr : Trigger} {ok : Fire → Nat → Prop}
    {eff : Fire → Nat → State}
    (he : ∀ m s, exec (mk m) s = issueOne dest m s) (hd : decodeDest dest = .ok (.trigger u q))
    (ht : trigTable u q = some tr) (hn : ¬(u = 0x12 ∧ q = 0x19))
    (hnone : ∀ f : Fire, f.dest = dest → Ready f.s f.m f.dest f.w f.g f.l f.who → f.first = none →
      tr (f.trigIn u q) f.start = .ok f.start)
    (h : ∀ f : Fire, ∀ k, f.dest = dest → Ready f.s f.m f.dest f.w f.g f.l f.who → f.first = some k → ok f k →
      tr (f.trigIn u q) f.start = .ok (eff f k) ∧ AllGoOn (eff f k) f.ref) : FiresAt mk dest ok eff :=
  ⟨fun k => fires_of he hd ht hn fun f hf hr hh => h f k hf hr hh.1 hh.2, fires_start he hd ht hn hnone⟩

/-- Setting a transfer's target lets the group go on. -/
theorem goesOnTo_target (f : Fire) {u q : Nat} (hd : decodeDest f.dest = .ok (.trigger u q))
    (hr : Ready f.s f.m f.dest f.w f.g f.l f.who) (o : Option W64) (x : Group) (hx : steer x = steer f.moved) :
    GoesOnTo { x with target := o } f.ref.gi := by
  have h := moved_goesOnTo f hd hr hx
  exact ⟨h.gi, h.ended, h.handler, h.pad, h.pend, h.loop⟩

theorem validTarget_eq {f : Fire} {o : W32} (h : f.validTarget o) : f.l.validTarget o = true := by
  obtain ⟨a, b⟩ := h
  simp [Launch.validTarget, a, b]

theorem moved_k0 (f : Fire) {u q : Nat} (hd : decodeDest f.dest = .ok (.trigger u q)) : f.moved.k0 = f.g.k0 := by
  unfold Group.k0 Group.k
  rw [show f.moved.kregs = f.g.kregs from moveFree_kregs.moved f.g hd, show f.moved.width = f.g.width from moved_width f hd]

theorem moveFree_mj : MoveFree Group.mj :=
  moveFree_field (fun _ _ => rfl) (fun _ _ => rfl) (fun _ _ => rfl) (fun _ _ => rfl) (fun _ _ => rfl) (fun _ _ _ => rfl)
    (fun _ _ => rfl) (fun _ _ => rfl) (fun _ _ => rfl) (fun _ _ _ => rfl)

theorem moveFree_ras : MoveFree Group.ras :=
  moveFree_field (fun _ _ => rfl) (fun _ _ => rfl) (fun _ _ => rfl) (fun _ _ => rfl) (fun _ _ => rfl) (fun _ _ _ => rfl)
    (fun _ _ => rfl) (fun _ _ => rfl) (fun _ _ => rfl) (fun _ _ _ => rfl)

theorem moveFree_loop : MoveFree Group.loop :=
  moveFree_field (fun _ _ => rfl) (fun _ _ => rfl) (fun _ _ => rfl) (fun _ _ => rfl) (fun _ _ => rfl) (fun _ _ _ => rfl)
    (fun _ _ => rfl) (fun _ _ => rfl) (fun _ _ => rfl) (fun _ _ _ => rfl)

theorem moveFree_phase : MoveFree Group.phase :=
  moveFree_field (fun _ _ => rfl) (fun _ _ => rfl) (fun _ _ => rfl) (fun _ _ => rfl) (fun _ _ => rfl) (fun _ _ _ => rfl)
    (fun _ _ => rfl) (fun _ _ => rfl) (fun _ _ => rfl) (fun _ _ _ => rfl)

theorem moveFree_ord : MoveFree Group.ord :=
  moveFree_field (fun _ _ => rfl) (fun _ _ => rfl) (fun _ _ => rfl) (fun _ _ => rfl) (fun _ _ => rfl) (fun _ _ _ => rfl)
    (fun _ _ => rfl) (fun _ _ => rfl) (fun _ _ => rfl) (fun _ _ _ => rfl)

end Sys2Proof.Claims
end

