-- ==== Sys2Proof/Tests/Base.lean ====
section
/-!
SUPPORT. Base: the small state of the tests, a loaded program of one group of 8 lanes, and the checks that find a witness of the premises
of a statement.
-/

set_option Elab.async false

namespace Sys2Proof.Tests

open Sys2Proof.Machine Sys2Proof.Claims

/-- A barrier of two arrivals, and a queue of four slots. -/
def barrier2 : Barrier := { valid := true, n := 2, rem := 2, bytes := 0, phase := false }
def queue4 : Queue := { valid := true, base := 64, depth := 4, head := 0, tail := 0, waiting := [] }

/-- A data page at 0x100000 with leaf V, L, W, C, A, M and kind S, and one of kind R at 0x110000 (R32). -/
def dataPage : TbEntry := { ctx := 0, base := 0x100000, level := 0, leaf := 0x5602B }
def relaxedPage : TbEntry := { ctx := 0, base := 0x110000, level := 0, leaf := 0x6606B }

/-- A loaded program of sixteen words, whose workgroup has 4 KiB of scratchpad, an accumulator bank, a queue and a barrier. -/
def base : State :=
  (((State.reset.loadProgram (List.replicate 16 0)).modWg 0 fun w =>
    { w with scratchSize := 4096, accumBanks := [0], queues := [queue4], bars := [barrier2, { barrier2 with valid := false }] }).modCore
      ⟨0, 0⟩ fun c => (c.fillTb 0 dataPage).fillTb 0 relaxedPage)

/-- The group of the loaded program. -/
def theGroup : GRef := ⟨0, 0⟩

/-- The state with a change of its group. -/
def on (s : State) (h : Group → Group) : State := s.modGroup theGroup h

/-- s0 holds t, and operand ports of a unit hold these values in every lane. -/
def withOps (s : State) (unit : Nat) (t : W64) (ops : List (Nat × W64)) : State :=
  on s fun g => ops.foldl (fun g (p, v) => (List.range g.width).foldl (fun g k => g.setOpnd k unit p v) g) { g with sregs := g.sregs.set 0 t }

/-- An unguarded move from s0, all 64 bits. -/
def fromS0 : Mv := { g := false, k := 0, n := false, h := false, e := false, s := 0x480 }
/-- The same, guarded by k1, which is zero: it applies to no lane. -/
def nowhere : Mv := { fromS0 with g := true, k := 1 }

/-- The issue of a lone move by the state's leader. -/
def fireOf (s : State) (m : Mv) (d : BitVec 12) : Option Fire :=
  match s.leader with
  | none => none
  | some (w, g) =>
    match s.launchOf? (refOf w g), s.who? (refOf w g) with
    | some l, some who => some ⟨s, m, d, w, g, l, who⟩
    | _, _ => none

/-- Does its group lead, whether in a handler or not? -/
def leadingB (f : Fire) : Bool :=
  f.s.leader == some (f.w, f.g) && f.s.group? (refOf f.w f.g) == some f.g && f.s.launchOf? (refOf f.w f.g) == some f.l &&
    f.s.who? (refOf f.w f.g) == some f.who && f.g.latches == noLatches && f.g.pad == 0 && f.g.target == none && f.g.pend == [] &&
    !f.g.loop.active && !regOpen f.g.check && !psn f.g.check && !f.g.ended

def passesB (f : Fire) : Bool := loneCheck f.g f.l f.m f.dest == .go
/-- Does the matrix engine's queue let its move go? -/
def notHeldB (f : Fire) : Bool := !((f.s.wg? f.w.wid).any fun x => x.mxHeld [loneRead f.g.advance f.m f.dest])

/-- Find the issue, and check it. -/
def find (s : State) (m : Mv) (d : BitVec 12) (p : Fire → Bool) : Bool :=
  match fireOf s m d with
  | some f => p f
  | none => false

/-- A group leads at an issue to this destination that meets a premise. -/
def LeadingWit (d : BitVec 12) (P : Fire → Prop) : Prop := ∃ f : Fire, f.dest = d ∧ Leading f.s f.w f.g f.l f.who ∧ P f
def LeadsWit (d : BitVec 12) (P : Fire → Prop) : Prop := ∃ f : Fire, f.dest = d ∧ Leads f.s f.w f.g f.l f.who ∧ P f
/-- A group is ready at such an issue. -/
def Wit (d : BitVec 12) (P : Fire → Prop) : Prop := ∃ f : Fire, f.dest = d ∧ Ready f.s f.m f.dest f.w f.g f.l f.who ∧ P f

theorem fireOf_eq {s : State} {m : Mv} {d : BitVec 12} {f : Fire} (h : fireOf s m d = some f) : f.dest = d ∧ f.s = s ∧ f.m = m := by
  unfold fireOf at h
  split at h
  · cases h
  · split at h
    · cases h
      exact ⟨rfl, rfl, rfl⟩
    · cases h

theorem leading_of {f : Fire} (h : leadingB f = true) : Leading f.s f.w f.g f.l f.who := by
  simp only [leadingB, Bool.and_eq_true, beq_iff_eq, Bool.not_eq_true'] at h
  obtain ⟨⟨⟨⟨⟨⟨⟨⟨⟨⟨⟨h1, h2⟩, h3⟩, h4⟩, h5⟩, h6⟩, h7⟩, h8⟩, h9⟩, h10⟩, h11⟩, h12⟩ := h
  exact ⟨⟨h1, h2, h3, h4, h5, h6, h7, h8, h10, h11, h12⟩, h9⟩

theorem leadingWit_of {d : BitVec 12} {P : Fire → Prop} [DecidablePred P] (s : State) (m : Mv)
    (h : find s m d (fun f => leadingB f && decide (P f)) = true) : LeadingWit d P := by
  unfold find at h
  split at h
  · rename_i f hf
    simp only [Bool.and_eq_true, decide_eq_true_eq] at h
    exact ⟨f, (fireOf_eq hf).1, leading_of h.1, h.2⟩
  · cases h

theorem leadsWit_of {d : BitVec 12} {P : Fire → Prop} [DecidablePred P] (s : State) (m : Mv)
    (h : find s m d (fun f => leadingB f && !f.g.handler && decide (P f)) = true) : LeadsWit d P := by
  unfold find at h
  split at h
  · rename_i f hf
    simp only [Bool.and_eq_true, Bool.not_eq_true', decide_eq_true_eq] at h
    exact ⟨f, (fireOf_eq hf).1, ⟨leading_of h.1.1, h.1.2⟩, h.2⟩
  · cases h

/-- Is the issue ready, and does it meet the premise? -/
def readyB (P : Fire → Prop) [DecidablePred P] (f : Fire) : Bool := leadingB f && !f.g.handler && passesB f && notHeldB f && decide (P f)

theorem wit_of {d : BitVec 12} {P : Fire → Prop} [DecidablePred P] (s : State) (m : Mv) (h : find s m d (readyB P) = true) : Wit d P := by
  unfold find at h
  split at h
  · rename_i f hf
    simp only [readyB, passesB, notHeldB, Bool.and_eq_true, Bool.not_eq_true', decide_eq_true_eq, beq_iff_eq] at h
    obtain ⟨⟨⟨⟨h1, h2⟩, h3⟩, h4⟩, h5⟩ := h
    exact ⟨f, (fireOf_eq hf).1, ⟨⟨leading_of h1, h2⟩, h3, h4⟩, h5⟩
  · cases h

/-- The same for several destinations at once. -/
theorem wits_of {ds : List (BitVec 12)} {P : Fire → Prop} [DecidablePred P] (s : State) (m : Mv)
    (h : (ds.all fun d => find s m d (readyB P)) = true) : ∀ d ∈ ds, Wit d P := fun d hd => wit_of s m (List.all_eq_true.1 h d hd)

theorem wit_mono {d : BitVec 12} {P Q : Fire → Prop} (h : ∀ f, P f → Q f) : Wit d P → Wit d Q := fun ⟨f, h1, h2, h3⟩ => ⟨f, h1, h2, h f h3⟩

/-! ### Parts of the base state -/

def w0 : Workgroup := (base.wg? 0).getD (loadWg 0 0 0)
def l0 : Launch := (base.launchOf? theGroup).getD (loadLaunch 0)
def g0 : Group := (base.group? theGroup).getD (newGroup (loadLaunch 0) ⟨0, 0⟩ 0 0 (0, 0, 0) ⟨0, 0, 0, 0⟩ 0 0 0)
def who0 : Who := (base.who? theGroup).getD ⟨0, ⟨0, 0⟩, 0, theGroup, none, 0, 0⟩
/-- The base state with this group. -/
def st (g : Group) : State := { base with wgs := [{ w0 with groups := [g] }] }
/-- Its workgroup. -/
def wOf (g : Group) : Workgroup := { w0 with groups := [g] }

/-- The group is found where a step looks for it. -/
theorem base_parts : base.wg? 0 = some w0 ∧ base.group? theGroup = some g0 ∧ base.launchOf? theGroup = some l0 ∧
    base.who? theGroup = some who0 := by decide +kernel

end Sys2Proof.Tests
end

