-- ==== Sys2Proof/Tests/WitMoves.lean ====
section
/-!
SUPPORT. WitMoves: for every rule about a lone move that has a premise, an issue that meets it.
-/

set_option Elab.async false

namespace Sys2Proof.Tests

open Sys2Proof.Machine Sys2Proof.Claims

/-! ### Moves and fixed-latency units -/

/-- The trigger ports from 4 to a last one, of a unit. -/
def ports (unit : BitVec 5) (last : Nat) : List (BitVec 12) := (List.range (last - 3)).map fun k => trig unit (BitVec.ofNat 7 (4 + k))

/-- x0 may be triggered. -/
def base9 : State := on base fun g => { g with x0cnt := 9 }

theorem witness_registers : ∀ d ∈ [(0x002 : BitVec 12), 0x0FE, 0x100, 0x13F, 0x141, 0x14F, 0x200, 0x982], Wit d always :=
  wits_of (P := fun _ => True) base fromS0 (by decide +kernel)
theorem witness_a0 : ∀ d ∈ ports 4 0x22, Wit d always := wits_of (P := fun _ => True) base fromS0 (by decide +kernel)
theorem witness_a1 : ∀ d ∈ ports 5 0x22, Wit d always := wits_of (P := fun _ => True) base fromS0 (by decide +kernel)
theorem witness_m0 : ∀ d ∈ ports 6 0x09, Wit d always := wits_of (P := fun _ => True) base fromS0 (by decide +kernel)
theorem witness_f0 : ∀ d ∈ ports 7 0x23, Wit d always := wits_of (P := fun _ => True) base fromS0 (by decide +kernel)
theorem witness_f1 : ∀ d ∈ ports 8 0x23, Wit d always := wits_of (P := fun _ => True) base fromS0 (by decide +kernel)
theorem witness_x0 : ∀ d ∈ ports 9 0x11, Wit d always := wits_of (P := fun _ => True) base9 fromS0 (by decide +kernel)
theorem witness_c0 : ∀ d ∈ ports 0x0A 0x13, Wit d always := wits_of (P := fun _ => True) base fromS0 (by decide +kernel)
theorem witness_p0 : ∀ d ∈ ports 0x0B 0x0D, Wit d always := wits_of (P := fun _ => True) base fromS0 (by decide +kernel)
theorem witness_bf : ∀ d ∈ ports 0x13 0x09, Wit d always := wits_of (P := fun _ => True) base fromS0 (by decide +kernel)

/-- Every division, with DIVTRAP clear and with a zero divisor under DIVTRAP. -/
def trapping : State := { base with launches := base.launches.map fun l => { l with lrec := { l.lrec with divTrap := true } } }

theorem witness_divide : ∀ d ∈ [trig 6 0x0A, trig 6 0x0B], Wit d fun f => f.divTrap = false ∨ ¬f.zeroDivisor :=
  fun d hd => wit_mono (fun _ h => .inl h) (wits_of (P := fun f => f.divTrap = false) base fromS0 (by decide +kernel) d hd)
theorem witness_divideTrap : ∀ d ∈ [trig 6 0x0A, trig 6 0x0B], Wit d fun f =>
    f.divTrap = true ∧ (f.applied.find? fun j => n32 (f.t j) == 0) = some 0 :=
  wits_of trapping fromS0 (by decide +kernel)

/-! ### ld and am -/

/-- Is the check passed? -/
def isOk : Chk → Bool
  | .ok _ _ => true
  | _ => false

theorem all_ok {l : List Nat} {c : Nat → Chk} (h : (l.all fun k => isOk (c k)) = true) :
    ∃ (ps : Nat → List Piece) (es : Nat → List (Option TbEntry)), ∀ k ∈ l, c k = .ok (ps k) (es k) := by
  refine ⟨fun k => match c k with | .ok p _ => p | _ => [], fun k => match c k with | .ok _ e => e | _ => [], fun k hk => ?_⟩
  have := List.all_eq_true.1 h k hk
  revert this
  cases hc : c k with
  | ok p e => simp [hc]
  | _ => intro hx; cases hx

/-- The data page, addressed by operand a; another operand or offset on top. -/
def data (unit : Nat) (t : W64) (c : W64) : State := withOps base unit t [(0, 0x100000), (1, 0x55), (2, c)]

def ldPasses (acc : Acc) (size : Nat) (f : Fire) : Prop :=
  ∃ ps es, f.passes f.ldAddr size acc (fun k => (f.op 2 k).getLsbD 3) ps es

theorem ldPasses_of {acc : Acc} {size : Nat} {d : BitVec 12} (s : State)
    (h : find s fromS0 d (readyB fun f => (f.applied.all fun k =>
      isOk (f.start.checkLane f.who k (f.ldAddr k) size acc ((f.op 2 k).getLsbD 3))) = true) = true) : Wit d (ldPasses acc size) :=
  wit_mono (fun _ hf => all_ok hf) (wit_of (P := fun f => (f.applied.all fun k =>
      isOk (f.start.checkLane f.who k (f.ldAddr k) size acc ((f.op 2 k).getLsbD 3))) = true) s fromS0 h)

theorem witness_load8 : Wit (trig 0x0C 0x04) (ldPasses .load 1) := ldPasses_of (data 0x0C 7 8) (by decide +kernel)
theorem witness_load8n : Wit (trig 0x0C 0x05) (ldPasses .load 1) := ldPasses_of (data 0x0C 0xFFFF 0) (by decide +kernel)
theorem witness_load16 : Wit (trig 0x0C 0x06) (ldPasses .load 2) := ldPasses_of (data 0x0C 2 8) (by decide +kernel)
theorem witness_load16n : Wit (trig 0x0C 0x07) (ldPasses .load 2) := ldPasses_of (data 0x0C 0x10001 0) (by decide +kernel)
theorem witness_load32 : Wit (trig 0x0C 0x08) (ldPasses .load 4) := ldPasses_of (data 0x0C 0xFFFC 8) (by decide +kernel)
theorem witness_load64 : Wit (trig 0x0C 0x09) (ldPasses .load 8) := ldPasses_of (data 0x0C 0x10003 0) (by decide +kernel)
theorem witness_store8 : Wit (trig 0x0C 0x0A) (fun f => f.applied ≠ [] ∧ ldPasses .store 1 f) :=
  wit_mono (fun _ hf => ⟨hf.1, all_ok hf.2⟩) (wit_of (P := fun f => f.applied ≠ [] ∧ (f.applied.all fun k =>
      isOk (f.start.checkLane f.who k (f.ldAddr k) 1 .store ((f.op 2 k).getLsbD 3))) = true) (data 0x0C 1 8) fromS0 (by decide +kernel))
theorem witness_store16 : Wit (trig 0x0C 0x0B) (ldPasses .store 2) := ldPasses_of (data 0x0C 0x10001 0) (by decide +kernel)
theorem witness_store32 : Wit (trig 0x0C 0x0C) (ldPasses .store 4) := ldPasses_of (data 0x0C 0xFFFC 8) (by decide +kernel)
theorem witness_store64 : Wit (trig 0x0C 0x0D) (ldPasses .store 8) := ldPasses_of (data 0x0C 0x10001 0) (by decide +kernel)
theorem witness_storeNowhere : ∀ d ∈ [trig 0x0C 0x0A, trig 0x0C 0x0B, trig 0x0C 0x0C, trig 0x0C 0x0D], Wit d fun f => f.applied = [] :=
  wits_of base nowhere (by decide +kernel)
theorem witness_fences : ∀ d ∈ [trig 0x0C 0x0E, trig 0x0C 0x0F, trig 0x0C 0x10], Wit d fun f => f.first = some 0 :=
  wits_of (withOps base 0x0C 4 []) fromS0 (by decide +kernel)
theorem witness_pgstate : Wit (trig 0x0C 0x30) fun f =>
    ∃ (ps : Nat → List Piece) (es : Nat → List (Option TbEntry)), ∀ k ∈ f.applied, f.start.checkQuery f.who k (f.ldAddr k) = .ok (ps k) (es k) :=
  wit_mono (fun _ hf => all_ok hf) (wit_of (P := fun f => (f.applied.all fun k =>
      isOk (f.start.checkQuery f.who k (f.ldAddr k))) = true) (data 0x0C 7 0) fromS0 (by decide +kernel))

def amPassing (o : AmOp) (size : Nat) (f : Fire) : Prop := ∃ ps es, f.amPasses o size ps es

/-- The operations of am in the order of their ports from 4 (R238). -/
def amOps : List (BitVec 7 × AmOp × Nat) :=
  [(0x04, .swap, 4), (0x05, .swap, 8), (0x06, .cas, 4), (0x07, .cas, 8), (0x08, .add, 4), (0x09, .add, 8), (0x0A, .band, 4), (0x0B, .bor, 4),
   (0x0C, .bxor, 4), (0x0D, .min, 4), (0x0E, .max, 4), (0x0F, .fadd, 4), (0x10, .radd, 4), (0x11, .radd, 8), (0x12, .rfadd, 4),
   (0x13, .rmax, 4), (0x14, .acinit, 8), (0x15, .actake, 8), (0x16, .acgive, 8), (0x17, .acread, 8), (0x18, .acpeek, 8), (0x19, .acfree, 8)]

theorem witness_am : ∀ x ∈ amOps, Wit (trig 0x10 x.1) (amPassing x.2.1 x.2.2) := by
  have h : (amOps.all fun x => find (data 0x10 3 0) fromS0 (trig 0x10 x.1) (readyB fun f => (f.applied.all fun k =>
      isOk (f.start.checkAm f.who x.2.1 x.2.2 k (f.op 0 k))) = true)) = true := by decide +kernel
  intro x hx
  exact wit_mono (fun _ hf => all_ok hf) (wit_of _ _ (List.all_eq_true.1 h x hx))

/-! ### Access traps: lane 1 fails by its address, and lane 0 passes -/

/-- A state of a unit whose operand a is 0x100000 but in lane 1. -/
def lane1 (unit : Nat) (c a : W64) : State := on (data unit 0 c) fun g => g.setOpnd 1 unit 0 a

def ldFail (size : Nat) (f : Fire) (j : Nat) : Option (Nat × Nat) := addressTrap ((f.op 2 j).getLsbD 3) size (f.ldAddr j)
def ldTraps (size : Nat) (acc : Acc) (c : Nat × Nat) (f : Fire) : Prop :=
  (f.applied.find? fun j => (ldFail size f j).isSome) = some 1 ∧ ldFail size f 1 = some c ∧ ∀ j ∈ f.applied, ldFail size f j = none →
    ∃ ps es, f.start.checkLane f.who j (f.ldAddr j) size acc ((f.op 2 j).getLsbD 3) = .ok ps es
theorem ldTraps_of {size : Nat} {acc : Acc} {c : Nat × Nat} {d : BitVec 12} (s : State)
    (h : find s fromS0 d (readyB fun f => (f.applied.find? fun j => (ldFail size f j).isSome) = some 1 ∧ ldFail size f 1 = some c ∧
      (f.applied.all fun j => (ldFail size f j).isSome ||
        isOk (f.start.checkLane f.who j (f.ldAddr j) size acc ((f.op 2 j).getLsbD 3))) = true) = true) : Wit d (ldTraps size acc c) :=
  wit_mono (fun f hf => ⟨hf.1, hf.2.1, fun j hj hn => by
    have h1 := List.all_eq_true.1 hf.2.2 j hj
    rw [hn] at h1
    revert h1
    cases f.start.checkLane f.who j (f.ldAddr j) size acc ((f.op 2 j).getLsbD 3) with
    | ok ps es => exact fun _ => ⟨ps, es, rfl⟩
    | _ => nofun⟩) (wit_of _ fromS0 h)

def amFail (size : Nat) (f : Fire) (j : Nat) : Option (Nat × Nat) := addressTrap true size (f.op 0 j)
def amTraps (o : AmOp) (size : Nat) (c : Nat × Nat) (f : Fire) : Prop :=
  (f.applied.find? fun j => (amFail size f j).isSome) = some 1 ∧ amFail size f 1 = some c ∧ ∀ j ∈ f.applied, amFail size f j = none →
    ∃ ps es, f.start.checkAm f.who o size j (f.op 0 j) = .ok ps es
theorem amTraps_of {size : Nat} {o : AmOp} {c : Nat × Nat} {d : BitVec 12} (s : State)
    (h : find s fromS0 d (readyB fun f => (f.applied.find? fun j => (amFail size f j).isSome) = some 1 ∧ amFail size f 1 = some c ∧
      (f.applied.all fun j => (amFail size f j).isSome || isOk (f.start.checkAm f.who o size j (f.op 0 j))) = true) = true) :
    Wit d (amTraps o size c) :=
  wit_mono (fun f hf => ⟨hf.1, hf.2.1, fun j hj hn => by
    have h1 := List.all_eq_true.1 hf.2.2 j hj
    rw [hn] at h1
    revert h1
    cases f.start.checkAm f.who o size j (f.op 0 j) with
    | ok ps es => exact fun _ => ⟨ps, es, rfl⟩
    | _ => nofun⟩) (wit_of _ fromS0 h)

def ldOps : List (BitVec 7 × Nat × Acc) :=
  [(0x04, 1, .load), (0x05, 1, .load), (0x06, 2, .load), (0x07, 2, .load), (0x08, 4, .load), (0x09, 8, .load), (0x0A, 1, .store),
   (0x0B, 2, .store), (0x0C, 4, .store), (0x0D, 8, .store)]
/-- The first and last addresses of each part of the hole, and what lies beside it: the forbidden windows, and addresses that are not
aligned through a fixed window and the lane view. -/
def badAddresses : List (W64 × (Nat × Nat)) :=
  [(0xF0000000000000, (7, 6)), (0xFBFFFFFFFFFFFF, (7, 6)), (0xFC010000000000, (7, 6)), (0xFCFFFFFFFFFFFF, (7, 6)), (0xFF300000000000, (7, 6)),
   (0xFFF00000000000, (7, 6)), (0x100000000000000, (7, 6)), (0xFFFFFFFFFFFFFFFF, (7, 6)), (0xFD000000000000, (7, fcWindowKind)),
   (0xFF200000000000, (7, fcWindowKind)), (0xFF2FFFFFFFFFFC, (7, fcWindowKind)), (0xFF000000000001, (6, 0)), (0xFE000000000003, (6, 0))]

theorem witness_ldHole : ∀ x ∈ ldOps, Wit (trig 0x0C x.1) (ldTraps x.2.1 x.2.2 (7, fcHole)) := by
  have h : (ldOps.all fun x => find (lane1 0x0C 8 0xF0000000000000) fromS0 (trig 0x0C x.1) (readyB fun f =>
      (f.applied.find? fun j => (ldFail x.2.1 f j).isSome) = some 1 ∧ ldFail x.2.1 f 1 = some (7, fcHole) ∧
      (f.applied.all fun j => (ldFail x.2.1 f j).isSome ||
        isOk (f.start.checkLane f.who j (f.ldAddr j) x.2.1 x.2.2 ((f.op 2 j).getLsbD 3))) = true)) = true := by decide +kernel
  exact fun x hx => ldTraps_of _ (List.all_eq_true.1 h x hx)
theorem witness_ldMisaligned : ∀ x ∈ ldOps.filter (·.2.1 != 1), Wit (trig 0x0C x.1) (ldTraps x.2.1 x.2.2 (6, 0)) := by
  have h : ((ldOps.filter (·.2.1 != 1)).all fun x => find (lane1 0x0C 8 0x100001) fromS0 (trig 0x0C x.1) (readyB fun f =>
      (f.applied.find? fun j => (ldFail x.2.1 f j).isSome) = some 1 ∧ ldFail x.2.1 f 1 = some (6, 0) ∧
      (f.applied.all fun j => (ldFail x.2.1 f j).isSome ||
        isOk (f.start.checkLane f.who j (f.ldAddr j) x.2.1 x.2.2 ((f.op 2 j).getLsbD 3))) = true)) = true := by decide +kernel
  exact fun x hx => ldTraps_of _ (List.all_eq_true.1 h x hx)
theorem witness_ldAddresses : ∀ x ∈ badAddresses, Wit (trig 0x0C 0x08) (ldTraps 4 .load x.2) := by
  have h : (badAddresses.all fun x => find (lane1 0x0C 0 x.1) fromS0 (trig 0x0C 0x08) (readyB fun f =>
      (f.applied.find? fun j => (ldFail 4 f j).isSome) = some 1 ∧ ldFail 4 f 1 = some x.2 ∧
      (f.applied.all fun j => (ldFail 4 f j).isSome ||
        isOk (f.start.checkLane f.who j (f.ldAddr j) 4 .load ((f.op 2 j).getLsbD 3))) = true)) = true := by decide +kernel
  exact fun x hx => ldTraps_of _ (List.all_eq_true.1 h x hx)
theorem witness_amHole : ∀ x ∈ amOps, Wit (trig 0x10 x.1) (amTraps x.2.1 x.2.2 (7, fcHole)) := by
  have h : (amOps.all fun x => find (lane1 0x10 0 0xFBFFFFFFFFFFFF) fromS0 (trig 0x10 x.1) (readyB fun f =>
      (f.applied.find? fun j => (amFail x.2.2 f j).isSome) = some 1 ∧ amFail x.2.2 f 1 = some (7, fcHole) ∧
      (f.applied.all fun j => (amFail x.2.2 f j).isSome || isOk (f.start.checkAm f.who x.2.1 x.2.2 j (f.op 0 j))) = true)) = true := by
    decide +kernel
  exact fun x hx => amTraps_of _ (List.all_eq_true.1 h x hx)
theorem witness_amMisaligned : ∀ x ∈ amOps, Wit (trig 0x10 x.1) (amTraps x.2.1 x.2.2 (6, 0)) := by
  have h : (amOps.all fun x => find (lane1 0x10 0 0x100001) fromS0 (trig 0x10 x.1) (readyB fun f =>
      (f.applied.find? fun j => (amFail x.2.2 f j).isSome) = some 1 ∧ amFail x.2.2 f 1 = some (6, 0) ∧
      (f.applied.all fun j => (amFail x.2.2 f j).isSome || isOk (f.start.checkAm f.who x.2.1 x.2.2 j (f.op 0 j))) = true)) = true := by
    decide +kernel
  exact fun x hx => amTraps_of _ (List.all_eq_true.1 h x hx)
theorem witness_amWindow : Wit (trig 0x10 0x08) (amTraps .add 4 (7, fcWindowKind)) := amTraps_of (lane1 0x10 0 0xFF200000000000) (by decide +kernel)

end Sys2Proof.Tests
end

