-- ==== Sys2Proof/Tests/Slice0.lean ====
section
/-!
SUPPORT. Slice0: tests of well-formedness, of decoding against words written out from the encoding tables, and of single
instructions against values worked out by hand from the rules that each test names.
-/

set_option Elab.async false

namespace Sys2Proof.Tests

open Sys2Proof.Machine Sys2Proof.Claims

/-! ### Ill-formed terms, one for each check -/

/-- No term of the list is well formed. -/
abbrev Refused (l : List Instr) : Prop := ∀ i ∈ l, i.wf = false

/-- Sources (R214): bank 3; bit 8; scalar index 80; an odd pair; unit 3; unit 0x14; rb of f0, which has none; port code 2; reserved
bits of a port source; reserved bits of an extension source. -/
theorem test_smoke_sources : Refused ([0x600, 0x100, 0x450, 0x081, 0x8C0, 0xD00, 0x9D0, 0x920, 0x901, 0x1801].map fun s => .aAdd 0 (plainMv s)) := by
  decide +kernel
/-- An unguarded move with GUARD 001, and one with N = 1 (R213). -/
theorem test_smoke_guard : Refused [.aAdd 0 { plainMv 0x1000 with k := 1 }, .aAdd 0 { plainMv 0x1000 with n := true }] := by decide +kernel
/-- A pair to an odd vector register, k0, scalar port 80, operand d of a0, operand b of x0, an operand of unit 3 (R204, R205, R225). -/
theorem test_smoke_destinations : Refused [.moveVector 0 1 (plainMv 0x080), .moveScalarGuard 64 (plainMv 0x1000),
    .moveScalarGuard 80 (plainMv 0x1000), .moveOperand 4 3 (plainMv 0x1000), .moveOperand 9 1 (plainMv 0x1000),
    .moveOperand 3 0 (plainMv 0x1000)] := by decide +kernel
/-- Numbers of parts that do not exist: a group 16, lane 64, context and stream beyond the tables, a die 4, core 24, slot 4, slice,
peer 1024, function 65, channel 4, bank 2, port 18, virtual channel 4, a slice of die 4 (R1, R11, R174, R175, R413). -/
theorem test_smoke_parts : Refused [.bundleIssue ⟨0, 16⟩, .resultLands ⟨0, 0⟩ .ld 0 64, .contextDisable Config.numContexts,
    .streamSkip Config.numStreams, .fold 4, .l1WritebackGrant ⟨4, 0⟩ 0, .engineReset ⟨0, 24⟩, .slotReset ⟨0, 0⟩ 4,
    .dropCommand 0 (.slice ⟨0, Config.slicesPerDie⟩), .peerLinkReset 1024, .functionLevelReset 65, .masterFreeze (.slot ⟨0, 0⟩ 4),
    .copyElement ⟨0, 0⟩ 4 false, .mxBankZeroed 0 2, .flitReplay 18, .linkFlowControl 0 4 1, .homeRestart 4,
    .watermarkNoticeTimer 0 ⟨4, 0⟩] := by decide +kernel

/-! ### Decoding: a word for every instruction with an encoding (R213, R214, R225 to R240) -/

/-- The words hold, from bit 31 down: G 1, GUARD 010, N 1, H 1, E 0, the short immediate −3 as source, and the destination's unit
and port. -/
def heldImm : Mv := { g := true, k := 2, n := true, h := true, e := false, s := 0x17FD }
/-- The words decode to these instructions, with those fields. -/
abbrev Decodes (ws : List W32) (is : List (Mv → Instr)) : Prop :=
  ws.map (fun w => (decodeMove w).toOption) = is.map fun i => some (i heldImm)

theorem test_decode_a0 : Decodes [
      0xAD7FD204, 0xAD7FD205, 0xAD7FD206, 0xAD7FD207, 0xAD7FD208, 0xAD7FD209, 0xAD7FD20A, 0xAD7FD20B, 0xAD7FD20C, 0xAD7FD20D,
      0xAD7FD20E, 0xAD7FD20F, 0xAD7FD210, 0xAD7FD211, 0xAD7FD212, 0xAD7FD213, 0xAD7FD214, 0xAD7FD215, 0xAD7FD216, 0xAD7FD217,
      0xAD7FD218, 0xAD7FD219, 0xAD7FD21A, 0xAD7FD21B, 0xAD7FD21C, 0xAD7FD21D, 0xAD7FD21E, 0xAD7FD21F, 0xAD7FD220, 0xAD7FD221,
      0xAD7FD222]
    [
      .aAdd 0, .aSub 0, .aAddc 0, .aSubb 0, .aAdds 0, .aSubs 0, .aAddsn 0, .aSubsn 0, .aAnd 0, .aOr 0, .aXor 0, .aAndn 0,
      .aShl 0, .aShr 0, .aSar 0, .aRol 0, .aMin 0, .aMax 0, .aMinn 0, .aMaxn 0, .aAbs 0, .aNeg 0, .aClz 0, .aPopc 0, .aBrev 0,
      .aSel 0, .aBext 0, .aBins 0, .aAdd64 0, .aSub64 0, .aPass 0] := by
  decide +kernel
theorem test_decode_a1 : Decodes [
      0xAD7FD284, 0xAD7FD285, 0xAD7FD286, 0xAD7FD287, 0xAD7FD288, 0xAD7FD289, 0xAD7FD28A, 0xAD7FD28B, 0xAD7FD28C, 0xAD7FD28D,
      0xAD7FD28E, 0xAD7FD28F, 0xAD7FD290, 0xAD7FD291, 0xAD7FD292, 0xAD7FD293, 0xAD7FD294, 0xAD7FD295, 0xAD7FD296, 0xAD7FD297,
      0xAD7FD298, 0xAD7FD299, 0xAD7FD29A, 0xAD7FD29B, 0xAD7FD29C, 0xAD7FD29D, 0xAD7FD29E, 0xAD7FD29F, 0xAD7FD2A0, 0xAD7FD2A1,
      0xAD7FD2A2]
    [
      .aAdd 1, .aSub 1, .aAddc 1, .aSubb 1, .aAdds 1, .aSubs 1, .aAddsn 1, .aSubsn 1, .aAnd 1, .aOr 1, .aXor 1, .aAndn 1,
      .aShl 1, .aShr 1, .aSar 1, .aRol 1, .aMin 1, .aMax 1, .aMinn 1, .aMaxn 1, .aAbs 1, .aNeg 1, .aClz 1, .aPopc 1, .aBrev 1,
      .aSel 1, .aBext 1, .aBins 1, .aAdd64 1, .aSub64 1, .aPass 1] := by
  decide +kernel
theorem test_decode_m0 : Decodes [
      0xAD7FD304, 0xAD7FD305, 0xAD7FD306, 0xAD7FD307, 0xAD7FD308, 0xAD7FD309, 0xAD7FD30A, 0xAD7FD30B]
    [
      .m0Mul, .m0Mulhi, .m0Mulhin, .m0Mulw, .m0Mad, .m0Lea, .m0Div, .m0Divn] := by
  decide +kernel
theorem test_decode_f0 : Decodes [
      0xAD7FD384, 0xAD7FD385, 0xAD7FD386, 0xAD7FD387, 0xAD7FD388, 0xAD7FD389, 0xAD7FD38A, 0xAD7FD38B, 0xAD7FD38C, 0xAD7FD38D,
      0xAD7FD38E, 0xAD7FD38F, 0xAD7FD390, 0xAD7FD391, 0xAD7FD392, 0xAD7FD393, 0xAD7FD394, 0xAD7FD395, 0xAD7FD396, 0xAD7FD397,
      0xAD7FD398, 0xAD7FD399, 0xAD7FD39A, 0xAD7FD39B, 0xAD7FD39C, 0xAD7FD39D, 0xAD7FD39E, 0xAD7FD39F, 0xAD7FD3A0, 0xAD7FD3A1,
      0xAD7FD3A2, 0xAD7FD3A3]
    [
      .f0Add, .f0Sub, .f0Mul, .f0Fma, .f0Fms, .f0Fnma, .f0Min, .f0Max, .f0Abs, .f0Neg, .f0Csgn, .f0Floor, .f0Ceil, .f0Trunc,
      .f0Rint, .f0Cvtif, .f0Cvtnf, .f0Cvtfi, .f0Cvtfn, .f0Cvth, .f0Cvtb, .f0Cvte4, .f0Cvte5, .f0Cvtf4, .f0Cvthf, .f0Cvtbf,
      .f0Cvte4f, .f0Cvte5f, .f0Cvtf4f, .f0Hadd2, .f0Hfma2, .f0Bfma2] := by
  decide +kernel
theorem test_decode_f1 : Decodes [
      0xAD7FD404, 0xAD7FD405, 0xAD7FD406, 0xAD7FD407, 0xAD7FD408, 0xAD7FD409, 0xAD7FD40A, 0xAD7FD40B, 0xAD7FD40C, 0xAD7FD40D,
      0xAD7FD40E, 0xAD7FD40F, 0xAD7FD410, 0xAD7FD411, 0xAD7FD412, 0xAD7FD413, 0xAD7FD414, 0xAD7FD415, 0xAD7FD416, 0xAD7FD417,
      0xAD7FD418, 0xAD7FD419, 0xAD7FD41A, 0xAD7FD41B, 0xAD7FD41C, 0xAD7FD41D, 0xAD7FD41E, 0xAD7FD41F, 0xAD7FD420, 0xAD7FD421,
      0xAD7FD422, 0xAD7FD423]
    [
      .f1Add, .f1Sub, .f1Mul, .f1Fma, .f1Fms, .f1Fnma, .f1Min, .f1Max, .f1Abs, .f1Neg, .f1Csgn, .f1Floor, .f1Ceil, .f1Trunc,
      .f1Rint, .f1Cvtif, .f1Cvtnf, .f1Cvtfi, .f1Cvtfn, .f1Cvth, .f1Cvtb, .f1Cvte4, .f1Cvte5, .f1Cvtf4, .f1Cvthf, .f1Cvtbf,
      .f1Cvte4f, .f1Cvte5f, .f1Cvtf4f, .f1Hadd2, .f1Hfma2, .f1Bfma2] := by
  decide +kernel
theorem test_decode_x0 : Decodes [
      0xAD7FD484, 0xAD7FD485, 0xAD7FD486, 0xAD7FD487, 0xAD7FD488, 0xAD7FD489, 0xAD7FD48A, 0xAD7FD48B, 0xAD7FD48C, 0xAD7FD48D,
      0xAD7FD48E, 0xAD7FD48F, 0xAD7FD490, 0xAD7FD491]
    [
      .x0Rcp, .x0Rsqrt, .x0Sqrt, .x0Exp2, .x0Log2, .x0Sinpi, .x0Cospi, .x0Tanh, .x0Sigm, .x0Gelu, .x0Fdiv, .x0Twid, .x0Rnd,
      .x0Seed] := by
  decide +kernel
theorem test_decode_c0 : Decodes [
      0xAD7FD504, 0xAD7FD505, 0xAD7FD506, 0xAD7FD507, 0xAD7FD508, 0xAD7FD509, 0xAD7FD50A, 0xAD7FD50B, 0xAD7FD50C, 0xAD7FD50D,
      0xAD7FD50E, 0xAD7FD50F, 0xAD7FD510, 0xAD7FD511, 0xAD7FD512, 0xAD7FD513]
    [
      .c0Eq, .c0Ne, .c0Lt, .c0Le, .c0Ltn, .c0Len, .c0Feq, .c0Fne, .c0Flt, .c0Fle, .c0Fun, .c0Fcls, .c0Btst, .c0Eq64, .c0Lt64,
      .c0Ltn64] := by
  decide +kernel
theorem test_decode_p0 : Decodes [
      0xAD7FD584, 0xAD7FD585, 0xAD7FD586, 0xAD7FD587, 0xAD7FD588, 0xAD7FD589, 0xAD7FD58A, 0xAD7FD58B, 0xAD7FD58C, 0xAD7FD58D]
    [
      .p0Idx, .p0Scan, .p0Scanf, .p0Redadd, .p0Redmax, .p0Redmin, .p0Ballot, .p0Popl, .p0Pack8, .p0Unpk8] := by
  decide +kernel
theorem test_decode_ld : Decodes [
      0xAD7FD604, 0xAD7FD605, 0xAD7FD606, 0xAD7FD607, 0xAD7FD608, 0xAD7FD609, 0xAD7FD60A, 0xAD7FD60B, 0xAD7FD60C, 0xAD7FD60D,
      0xAD7FD60E, 0xAD7FD60F, 0xAD7FD610, 0xAD7FD630]
    [
      .ldL8, .ldL8n, .ldL16, .ldL16n, .ldL32, .ldL64, .ldS8, .ldS16, .ldS32, .ldS64, .ldFeacq, .ldFerel, .ldFefull, .ldPgstate] := by
  decide +kernel
theorem test_decode_cp : Decodes [
      0xAD7FD684, 0xAD7FD685, 0xAD7FD686, 0xAD7FD687, 0xAD7FD688, 0xAD7FD689, 0xAD7FD68A, 0xAD7FD68B]
    [
      .cpG2s, .cpS2g, .cpS2s, .cpShape, .cpSeal, .cpWait, .cpWptr, .cpBar] := by
  decide +kernel
theorem test_decode_q0 : Decodes [
      0xAD7FD704, 0xAD7FD705, 0xAD7FD706, 0xAD7FD707, 0xAD7FD708, 0xAD7FD709]
    [
      .q0Push, .q0Pop, .q0Trypush, .q0Trypop, .q0Qinit, .q0Qinval] := by
  decide +kernel
theorem test_decode_mx : Decodes [
      0xAD7FD784, 0xAD7FD785, 0xAD7FD786, 0xAD7FD787, 0xAD7FD788, 0xAD7FD789, 0xAD7FD78A, 0xAD7FD78B]
    [
      .mxCfg, .mxFmt, .mxGo, .mxWait, .mxPoll, .mxStat, .mxBank, .mxReset] := by
  decide +kernel
theorem test_decode_am : Decodes [
      0xAD7FD804, 0xAD7FD805, 0xAD7FD806, 0xAD7FD807, 0xAD7FD808, 0xAD7FD809, 0xAD7FD80A, 0xAD7FD80B, 0xAD7FD80C, 0xAD7FD80D,
      0xAD7FD80E, 0xAD7FD80F, 0xAD7FD810, 0xAD7FD811, 0xAD7FD812, 0xAD7FD813, 0xAD7FD814, 0xAD7FD815, 0xAD7FD816, 0xAD7FD817,
      0xAD7FD818, 0xAD7FD819]
    [
      .amSwap, .amSwap64, .amCas, .amCas64, .amAdd, .amAdd64, .amAnd, .amOr, .amXor, .amMin, .amMax, .amFadd, .amRadd,
      .amRadd64, .amRfadd, .amRmax, .amAcinit, .amActake, .amAcgive, .amAcread, .amAcpeek, .amAcfree] := by
  decide +kernel
theorem test_decode_xe : Decodes [
      0xAD7FD884, 0xAD7FD885, 0xAD7FD886, 0xAD7FD887, 0xAD7FD888, 0xAD7FD889]
    [
      .xeOpen, .xeSend, .xeSel, .xeClose, .xeIdle, .xeClr] := by
  decide +kernel
theorem test_decode_sy : Decodes [
      0xAD7FD904, 0xAD7FD905, 0xAD7FD906, 0xAD7FD907, 0xAD7FD908, 0xAD7FD909, 0xAD7FD90A, 0xAD7FD90B, 0xAD7FD90C, 0xAD7FD90D,
      0xAD7FD90E, 0xAD7FD90F, 0xAD7FD910, 0xAD7FD911, 0xAD7FD912, 0xAD7FD913, 0xAD7FD914, 0xAD7FD915, 0xAD7FD916, 0xAD7FD917,
      0xAD7FD918, 0xAD7FD919, 0xAD7FD91A, 0xAD7FD91B, 0xAD7FD91C, 0xAD7FD91D, 0xAD7FD91E, 0xAD7FD91F, 0xAD7FD920]
    [
      .syJmp, .syBr, .syCall, .syRet, .syMark, .syJoin, .syLoop, .syBrk, .syBar, .syBarar, .syBarwt, .syBarinit, .syBarinv,
      .syCbar, .syCbarar, .syCbarinit, .syCbarinv, .syWait, .syTime, .syTrap, .syChkerr, .sySegchk, .syEnd, .syIcinv, .syGstat,
      .syRfe, .syYield, .syTrec, .syDbg] := by
  decide +kernel
theorem test_decode_bf : Decodes [
      0xAD7FD984, 0xAD7FD985, 0xAD7FD986, 0xAD7FD987, 0xAD7FD988, 0xAD7FD989]
    [
      .bfDit2, .bfDif2, .bfFft4e, .bfFft4o, .bfCmul, .bfCmulc] := by
  decide +kernel

/-- Vector registers 0, 2, 126 of both banks, s0, s63, k1, k15, and operand ports of every unit. -/
theorem test_decode_registers : Decodes [0xAD7FD000, 0xAD7FD07E, 0xAD7FD082, 0xAD7FD100, 0xAD7FD13F, 0xAD7FD141, 0xAD7FD14F, 0xAD7FD200,
      0xAD7FD281, 0xAD7FD300, 0xAD7FD383, 0xAD7FD401, 0xAD7FD480, 0xAD7FD500, 0xAD7FD580, 0xAD7FD602, 0xAD7FD683, 0xAD7FD700, 0xAD7FD780,
      0xAD7FD802, 0xAD7FD881, 0xAD7FD901, 0xAD7FD982]
    [.moveVector 0 0, .moveVector 0 126, .moveVector 1 2, .moveScalarGuard 0, .moveScalarGuard 63, .moveScalarGuard 65, .moveScalarGuard 79,
      .moveOperand 4 0, .moveOperand 5 1, .moveOperand 6 0, .moveOperand 7 3, .moveOperand 8 1, .moveOperand 9 0, .moveOperand 0x0A 0,
      .moveOperand 0x0B 0, .moveOperand 0x0C 2, .moveOperand 0x0D 3, .moveOperand 0x0E 0, .moveOperand 0x0F 0, .moveOperand 0x10 2,
      .moveOperand 0x11 1, .moveOperand 0x12 1, .moveOperand 0x13 2] := by decide +kernel

/-- Is the word refused with this cause of R224? -/
noncomputable def refusedBy (w : W32) (cause : Nat) : Bool :=
  match decodeMove w with
  | .error e => e.cause == cause
  | .ok _ => false
/-- Units 3 and 0x14, port 2 of a0, port 0x23 of a1, port 0x11 of ld, k0, scalar port 80, and the sources above (R224). -/
theorem test_decode_refused : refusedBy 0x01000184 1 = true ∧ refusedBy 0x01000A04 1 = true ∧ refusedBy 0x01000202 2 = true ∧
    refusedBy 0x010002A3 2 = true ∧ refusedBy 0x01000611 2 = true ∧ refusedBy 0x01000140 3 = true ∧ refusedBy 0x01000150 3 = true ∧
    refusedBy 0x01801204 5 = false := by decide +kernel
/-- A header with moves on buses 0, 1 and 3, two extension words, pad 5, CLRHOLD and region 2 (R212). -/
theorem test_decode_table : decodeTableWord 32 0x01014002 = some (.moveVector 0 2 (plainMv 0x1014)) ∧ decodeTableWord 32 0x01000184 = none := by
  decide +kernel
theorem test_encode : encode (.f0Fma (plainMv 0xB08)) = some 0x00B08387 ∧ encode (.amCas (plainMv 5)) = some 0x00005806 := by decide +kernel

/-! ### One instruction, one step -/

/-- What lane 0 of the unit is given in r and rb by an instruction with trigger value t and operand ports. -/
def ran (s : State) (i : Mv → Instr) (unit : Nat) (t : W64) (ops : List (Nat × W64)) : Option (W64 × Option W64) :=
  match exec (i fromS0) (withOps s unit t ops) with
  | .next u => (u.group? theGroup).bind fun g => g.staged.head?.map fun x => ((x.r.getD []).headD 0, x.rb.map (·.headD 0))
  | _ => none
/-- r of a0 for operands a, b and trigger value t. -/
def a0 (i : BitVec 1 → Mv → Instr) (a b t : W64) : Option W64 := (ran base (i 0) 4 t [(0, a), (1, b)]).map (·.1)
def a0rb (i : BitVec 1 → Mv → Instr) (a b t : W64) : Option W64 := (ran base (i 0) 4 t [(0, a), (1, b)]).bind (·.2)

/-! R270 to R273 -/
theorem test_add_wraps : a0 .aAdd 0xFFFFFFFF 0 2 = some 1 := by decide +kernel
theorem test_sub_wraps : a0 .aSub 1 0 2 = some 0xFFFFFFFF := by decide +kernel
theorem test_addc : a0 .aAddc 0xFFFFFFFF 3 0 = some 0 ∧ a0rb .aAddc 0xFFFFFFFF 3 0 = some 1 := by decide +kernel
theorem test_subb : a0 .aSubb 0 1 0 = some 0xFFFFFFFF ∧ a0rb .aSubb 0 1 0 = some 1 := by decide +kernel
theorem test_adds : a0 .aAdds 0x7FFFFFFF 0 1 = some 0x7FFFFFFF := by decide +kernel
theorem test_subs : a0 .aSubs 0x80000000 0 1 = some 0x80000000 := by decide +kernel
theorem test_addsn : a0 .aAddsn 0xFFFFFFFF 0 2 = some 0xFFFFFFFF := by decide +kernel
theorem test_subsn : a0 .aSubsn 1 0 2 = some 0 := by decide +kernel
theorem test_logic : a0 .aAnd 0xFF00 0 0x0FF0 = some 0x0F00 ∧ a0 .aOr 0xFF00 0 0x0FF0 = some 0xFFF0 ∧ a0 .aXor 0xFF00 0 0x0FF0 = some 0xF0F0 ∧
    a0 .aAndn 0xFF00 0 0x0FF0 = some 0xF000 := by decide +kernel
theorem test_shifts_full : a0 .aShl 1 0 32 = some 0 ∧ a0 .aShr 0x80000000 0 31 = some 1 ∧ a0 .aSar 0x80000000 0 40 = some 0xFFFFFFFF ∧
    a0 .aRol 0x80000001 0 33 = some 3 := by decide +kernel
theorem test_minmax : a0 .aMin 0xFFFFFFFF 0 1 = some 0xFFFFFFFF ∧ a0 .aMax 0xFFFFFFFF 0 1 = some 1 ∧ a0 .aMinn 0xFFFFFFFF 0 1 = some 1 ∧
    a0 .aMaxn 0xFFFFFFFF 0 1 = some 0xFFFFFFFF := by decide +kernel
theorem test_unary : a0 .aAbs 0 0 0x80000000 = some 0x80000000 ∧ a0 .aNeg 0 0 1 = some 0xFFFFFFFF ∧ a0 .aClz 0 0 0x00010000 = some 15 ∧
    a0 .aPopc 0 0 0xF00F = some 8 ∧ a0 .aBrev 0 0 1 = some 0x80000000 := by decide +kernel
/-- The example of R273. -/
theorem test_fields : a0 .aBext 0xABCD 0 0x804 = some 0xBC ∧ a0 .aBext 0xABCD 1 0x804 = some 0xFFFFFFBC ∧ a0 .aBins 0xABCD 0x12 0x804 = some 0xA12D ∧
    a0 .aSel 0x100000005 6 0 = some 6 := by decide +kernel
theorem test_wide : a0 .aAdd64 0xFFFFFFFFFFFFFFFF 0 2 = some 1 ∧ a0 .aSub64 0 0 1 = some 0xFFFFFFFFFFFFFFFF ∧
    a0 .aPass 0 0 0x123456789ABCDEF0 = some 0x123456789ABCDEF0 := by decide +kernel

/-! R274, R275 -/
def m0 (i : Mv → Instr) (a b t : W64) : Option (W64 × Option W64) := ran base i 6 t [(0, a), (1, b)]
theorem test_multiplies : m0 .m0Mul 0xFFFFFFFF 0 3 = some (0xFFFFFFFD, none) ∧ m0 .m0Mulhi 0xFFFFFFFF 0 3 = some (0xFFFFFFFF, none) ∧
    m0 .m0Mulhin 0xFFFFFFFF 0 3 = some (2, none) ∧ m0 .m0Mulw 0xFFFFFFFF 0 3 = some (0xFFFFFFFFFFFFFFFD, none) ∧
    m0 .m0Mad 3 4 5 = some (19, none) ∧ m0 .m0Lea 0x1000 0xFFFFFFFF 4 = some (0xFFC, none) := by decide +kernel
theorem test_divides : m0 .m0Div 0xFFFFFFF9 0 2 = some (0xFFFFFFFD, some 0xFFFFFFFF) ∧ m0 .m0Div 0x80000000 0 0xFFFFFFFF = some (0x80000000, some 0) ∧
    m0 .m0Divn 7 0 0 = some (0xFFFFFFFF, some 7) ∧ m0 .m0Divn 0xFFFFFFF9 0 2 = some (0x7FFFFFFC, some 1) := by decide +kernel

/-! R276 to R280 -/
def f0 (i : Mv → Instr) (a b d t : W64) : Option W64 := (ran base i 7 t [(0, a), (1, b), (3, d)]).map (·.1)
/-- The example of R276: 2^-24 by one rounding. -/
theorem test_fma : f0 .f0Fma 0x3F800800 0xBF801000 0 0x3F800800 = some 0x33800000 := by decide +kernel
theorem test_arith : f0 .f0Add 0x3F800000 0 0 0x40000000 = some 0x40400000 ∧ f0 .f0Sub 0x3F800000 0 0 0x3F800000 = some 0 ∧
    f0 .f0Mul 0x40000000 0 0 0xC0000000 = some 0xC0800000 ∧ f0 .f0Fms 0x40000000 0x3F800000 0 0x40000000 = some 0x40400000 ∧
    f0 .f0Fnma 0x40000000 0x3F800000 0 0x40000000 = some 0xC0400000 ∧ f0 .f0Add 0x7F800000 0 0 0xFF800000 = some 0x7FC00000 := by decide +kernel
theorem test_signs : f0 .f0Min 0 0 0 0x80000000 = some 0x80000000 ∧ f0 .f0Max 0x7FC00000 0 0 0x3F800000 = some 0x3F800000 ∧
    f0 .f0Abs 0 0 0 0x80000000 = some 0 ∧ f0 .f0Neg 0 0 0 0x3F800000 = some 0xBF800000 ∧ f0 .f0Csgn 0x3F800000 0 0 0xFFC00000 = some 0xBF800000 := by
  decide +kernel
/-- −0.5, 0.5, −1.5, −0.4. -/
theorem test_integral : f0 .f0Ceil 0 0 0 0xBF000000 = some 0x80000000 ∧ f0 .f0Floor 0 0 0 0x3F000000 = some 0 ∧
    f0 .f0Trunc 0 0 0 0xBFC00000 = some 0xBF800000 ∧ f0 .f0Rint 0 0 0 0xBECCCCCD = some 0x80000000 := by decide +kernel
/-- 1.0 in each narrow format, and back; −1 as an integer. -/
theorem test_narrow : f0 .f0Cvth 0 0 0 0x3F800000 = some 0x3C00 ∧ f0 .f0Cvtb 0 0 0 0x3F800000 = some 0x3F80 ∧ f0 .f0Cvte4 0 0 0 0x3F800000 = some 0x38 ∧
    f0 .f0Cvte5 0 0 0 0x3F800000 = some 0x3C ∧ f0 .f0Cvtf4 0 0 0 0x3F800000 = some 2 := by decide +kernel
theorem test_widen : f0 .f0Cvthf 0 0 0 0x3C00 = some 0x3F800000 ∧ f0 .f0Cvtbf 0 0 0 0x3F80 = some 0x3F800000 ∧ f0 .f0Cvte4f 0 0 0 0x38 = some 0x3F800000 ∧
    f0 .f0Cvte5f 0 0 0 0x3C = some 0x3F800000 ∧ f0 .f0Cvtf4f 0 0 0 2 = some 0x3F800000 := by decide +kernel
theorem test_integers : f0 .f0Cvtif 0 0 0 0xFFFFFFFF = some 0xBF800000 ∧ f0 .f0Cvtnf 0 0 0 0xFFFFFFFF = some 0x4F800000 ∧
    f0 .f0Cvtfi 0 0 0 0xBF800000 = some 0xFFFFFFFF := by decide +kernel
/-- Halves 1.0 and 2.0: sums, products and BF16 products. -/
theorem test_packed : f0 .f0Hadd2 0x40003C00 0 0 0x40003C00 = some 0x44004000 ∧ f0 .f0Hfma2 0x40003C00 0 0 0x40003C00 = some 0x44003C00 ∧
    f0 .f0Bfma2 0x40003F80 0 0 0x40003F80 = some 0x40803F80 := by decide +kernel

/-! R282 to R286 -/
def x0 (i : Mv → Instr) (a t : W64) : Option (W64 × Option W64) := ran base9 i 9 t [(0, a)]
/-- The examples of R282, and special operands. -/
theorem test_functions : x0 .x0Rcp 0 0x40400000 = some (0x3EAAAAAB, none) ∧ x0 .x0Sqrt 0 0x40000000 = some (0x3FB504F3, none) ∧
    x0 .x0Rsqrt 0 0x80000000 = some (0xFF800000, none) ∧ x0 .x0Exp2 0 0x40000000 = some (0x40800000, none) ∧
    x0 .x0Log2 0 0x3F800000 = some (0, none) ∧ x0 .x0Sinpi 0 0xC0000000 = some (0x80000000, none) ∧ x0 .x0Cospi 0 0x3F000000 = some (0, none) ∧
    x0 .x0Tanh 0 0x7F800000 = some (0x3F800000, none) ∧ x0 .x0Sigm 0 0xFF800000 = some (0, none) ∧ x0 .x0Gelu 0 0xFF800000 = some (0x80000000, none) ∧
    x0 .x0Fdiv 0x40C00000 0x40400000 = some (0x40000000, none) := by decide +kernel
/-- The twiddle of k = 1, N = 8 (the example of R295). -/
theorem test_twid : x0 .x0Twid 3 1 = some (0x3F3504F3, some 0xBF3504F3) := by decide +kernel
def c0 (i : Mv → Instr) (a t : W64) : Option W64 := (ran base i 0x0A t [(0, a)]).map (·.1)
theorem test_compares : c0 .c0Lt 0xFFFFFFFF 0 = some 1 ∧ c0 .c0Ltn 0xFFFFFFFF 0 = some 0 ∧ c0 .c0Le 5 5 = some 1 ∧ c0 .c0Len 6 5 = some 0 ∧
    c0 .c0Eq 0x100000005 5 = some 1 ∧ c0 .c0Eq64 0x100000005 5 = some 0 ∧ c0 .c0Ne 1 2 = some 1 ∧ c0 .c0Lt64 0xFFFFFFFFFFFFFFFF 0 = some 1 ∧
    c0 .c0Ltn64 0xFFFFFFFFFFFFFFFF 0 = some 0 := by decide +kernel
theorem test_floatCompares : c0 .c0Feq 0 0x80000000 = some 1 ∧ c0 .c0Fne 0x7FC00000 0x7FC00000 = some 1 ∧ c0 .c0Flt 0xBF800000 0 = some 1 ∧
    c0 .c0Fle 0x7FC00000 0 = some 0 ∧ c0 .c0Fun 0 0x7FC00000 = some 1 ∧ c0 .c0Fcls 0x80000001 4 = some 1 ∧ c0 .c0Btst 0x80000000 63 = some 1 := by
  decide +kernel

/-! R287 to R295. Every lane delivers the same value: sums over eight lanes. -/
def p0 (i : Mv → Instr) (a t : W64) : Option W64 := (ran base i 0x0B t [(0, a)]).map (·.1)
theorem test_permutes : p0 .p0Idx 7 9 = some 9 ∧ p0 .p0Idx 8 9 = some 0 ∧ p0 .p0Scan 0 3 = some 3 ∧ p0 .p0Redadd 0 3 = some 24 ∧
    p0 .p0Scanf 0 0x3F800000 = some 0x3F800000 ∧ p0 .p0Redmax 0 0xFFFFFFFF = some 0xFFFFFFFF ∧ p0 .p0Redmin 0 5 = some 5 ∧
    p0 .p0Ballot 0 1 = some 0xFF ∧ p0 .p0Popl 0 1 = some 0 ∧ p0 .p0Pack8 0x0001FF00 0x0100FFFF = some 0x7FFF0180 ∧
    p0 .p0Unpk8 1 0x80FF0102 = some 0xFF80FFFF := by decide +kernel
def bf (i : Mv → Instr) (a b c t : W64) : Option (W64 × Option W64) := ran base i 0x13 t [(0, a), (1, b), (2, c)]
/-- The examples of R295. -/
theorem test_dit2 : bf .bfDit2 0x3F800000 0x3F800000 0 0xBF3504F33F3504F3 = some (0xBF3504F33FDA827A, some 0x3F3504F33E95F61A) := by decide +kernel
theorem test_fft4e : bf .bfFft4e 0x3F800000 0x3F80000000000000 0x40000000 0xBF80000000000000 = some (0x40400000, some 0x40400000) := by decide +kernel
theorem test_fft4o : bf .bfFft4o 0x3F800000 0x3F80000000000000 0x40000000 0xBF80000000000000 = some (0x3F800000, some 0xC0400000) := by decide +kernel
/-- (1 + 2i)(3 + 4i) = −5 + 10i, and with the conjugate 11 + 2i (R292); (1 + i) ± 1, the difference times 1 (R294). -/
theorem test_cmul : bf .bfCmul 0x400000003F800000 0 0 0x4080000040400000 = some (0x41200000C0A00000, none) ∧
    bf .bfCmulc 0x400000003F800000 0 0 0x4080000040400000 = some (0x4000000041300000, none) ∧
    bf .bfDif2 0x3F8000003F800000 0x3F800000 0 0x3F800000 = some (0x3F80000040000000, some 0x3F80000000000000) := by decide +kernel

/-! Registers, control, memory -/

/-- A word of the group after an instruction with trigger value t and operands. -/
def after (s : State) (i : Mv → Instr) (unit : Nat) (t : W64) (ops : List (Nat × W64)) : Option Group :=
  match exec (i fromS0) (withOps s unit t ops) with
  | .next u => u.group? theGroup
  | _ => none
/-- The source is 64 bits of s0: a pair of v4, a scalar register, one bit a lane of a guard register, an operand port (R204). -/
theorem test_moves : (after base (.moveVector 0 4) 4 0x900000007 []).map (fun g => (g.v 3 4, g.v 3 5)) = some (7, 9) ∧ (after base (.moveScalarGuard 9) 4 7 []).map (·.s 9) = some 7 ∧
    (after base (.moveScalarGuard 66) 4 0x7A5 []).map (·.k 2) = some 0xA5 ∧ (after base (.moveOperand 7 3) 4 7 []).map (fun g => g.opnd 6 7 3) = some 7 := by
  decide +kernel
/-- A register lane in error delivers 0 and consumes poison (R408). -/
theorem test_badRegister :
    (after (on base fun g => g.modLane 0 fun x => { x with vregs := setAt x.vregs 6 5, vbad := [6] })
      (fun m => .moveScalarGuard 9 { m with s := 6 }) 4 0 []).map (fun g => (g.s 9, g.check.toNat)) = some (0, 0x10001) := by decide +kernel
/-- A jump to text offset 60 of 64 bytes; 64 is no target (R332, R334). -/
theorem test_jmp : (after base .syJmp 0x12 60 []).map (fun g => (g.pc - g0.pc, g.handler)) = some (60, false) := by decide +kernel
theorem test_mark : (after base .syMark 0x12 60 []).map (fun g => g.mj.length) = some 1 := by decide +kernel
theorem test_end : (after base .syEnd 0x12 0 []).map (·.ended) = some true := by decide +kernel
/-- A load, a store and an atomic queue one operation in eight lanes. -/
theorem test_ld : (after base .ldL32 0x0C 4 [(0, 0x100000)]).map (fun g => (g.ldq.length, g.ldr.length)) = some (1, 1) := by decide +kernel
theorem test_st : (after base .ldS32 0x0C 4 [(0, 0x100000), (1, 9)]).map (fun g => (g.stq.length, g.ldr.length)) = some (1, 0) := by decide +kernel
theorem test_am : (after base .amCas 0x10 9 [(0, 0x100000), (1, 5)]).map (fun g => (g.amq.length, g.amr.length)) = some (1, 1) := by decide +kernel
/-- What the atomics compute (R306): cas that meets and misses, signed min, wrapping add. -/
theorem test_amValues : amResult .cas 4 5 9 5 = (9, true) ∧ amResult .cas 4 6 9 5 = (6, false) ∧ amResult .min 4 0xFFFFFFFF 1 0 = (0xFFFFFFFF, true) ∧
    amResult .add 8 0xFFFFFFFFFFFFFFFF 2 0 = (1, true) := by decide +kernel
/-- The agenda's first entry runs after its time. -/
theorem test_agenda : (match step { base with agenda := [⟨5, .commandComplete⟩] } with
    | .next s => (s.clock == base.clock + 5, s.agenda.isEmpty)
    | _ => (false, false)) = (true, true) := by decide +kernel

end Sys2Proof.Tests
end

