-- ==== Sys2Proof/Tests/WitUnits.lean ====
section
/-!
SUPPORT. WitUnits: for every rule about cp, q0, mx, xe and sy that has a premise, an issue that meets it.
-/

set_option Elab.async false

namespace Sys2Proof.Tests

open Sys2Proof.Machine Sys2Proof.Claims

/-- Every trigger that acts in the lowest lane where its move applies, and here applies to none. -/
theorem witness_nowhere : ∀ d ∈ [trig 0x0C 0x0E, trig 0x0C 0x0F, trig 0x0C 0x10] ++ ports 0x0D 0x0B ++ ports 0x0E 0x09 ++ ports 0x0F 0x0B ++
    ports 0x11 0x09 ++ (ports 0x12 0x20).erase (sy 0x06), Wit d fun f => f.first = none := wits_of base nowhere (by decide +kernel)

/-! ### cp -/

/-- Copies between the data page and the scratchpad, with a barrier to tell. -/
theorem witness_g2s : Wit (trig 0x0D 0x04) fun f => f.first = some 0 ∧ f.copyOk .g2s (f.t 0) :=
  wit_of (withOps base 0x0D 0x10 [(0, 0x100000), (1, 0xFF000000000040), (2, 1), (3, 16)]) fromS0 (by decide +kernel)
theorem witness_s2g : Wit (trig 0x0D 0x05) fun f => f.first = some 0 ∧ f.copyOk .s2g (f.t 0) :=
  wit_of (withOps base 0x0D 4 [(0, 0xFF000000000040), (1, 0x100000), (3, 16)]) fromS0 (by decide +kernel)
theorem witness_s2s : Wit (trig 0x0D 0x06) fun f => f.first = some 0 ∧ f.copyOk .s2s (f.t 0) :=
  wit_of (withOps base 0x0D 8 [(0, 0xFF000000000040), (1, 0xFF000000000080), (3, 1)]) fromS0 (by decide +kernel)
theorem witness_cpOthers : ∀ d ∈ [trig 0x0D 0x07, trig 0x0D 0x08, trig 0x0D 0x09, trig 0x0D 0x0A], Wit d fun f => f.first = some 0 :=
  wits_of (withOps base 0x0D 3 []) fromS0 (by decide +kernel)
theorem witness_cpBar : Wit (trig 0x0D 0x0B) fun f =>
    f.first = some 0 ∧ f.start.barAt f.ref ((f.t 0).getLsbD 5) = some (.wg 0) ∧ (f.t 0).toNat % 32 < (f.start.bars (.wg 0)).length :=
  wit_of (withOps base 0x0D 1 [(0, 64)]) fromS0 (by decide +kernel)

/-! ### q0 -/

theorem witness_queue : ∀ d ∈ [trig 0x0E 0x04, trig 0x0E 0x05, trig 0x0E 0x06, trig 0x0E 0x07, trig 0x0E 0x09],
    Wit d fun f => f.first = some 0 := wits_of base fromS0 (by decide +kernel)

/-- qinit of the workgroup's queue, and of a name that is none. -/
theorem witness_qinit : Wit (trig 0x0E 0x08) fun f => f.first = some 0 ∧ ∀ a, f.start.queueAt f.ref (f.t 0) = some a →
    ∃ q owner, f.start.queue? a = some q ∧ f.start.wg? a.wid = some owner ∧
      n32 (f.op 0 0) % 4 = 0 ∧ n32 (f.op 0 0) + 4 * q.depth ≤ owner.scratchSize := by
  refine wit_mono (P := fun f => f.first = some 0 ∧ (match f.start.queueAt f.ref (f.t 0) with
    | some a => match f.start.queue? a, f.start.wg? a.wid with
      | some q, some owner => n32 (f.op 0 0) % 4 == 0 && decide (n32 (f.op 0 0) + 4 * q.depth ≤ owner.scratchSize)
      | _, _ => false
    | none => false) = true) ?_ (wit_of (withOps base 0x0E 0 [(0, 4080)]) fromS0 (by decide +kernel))
  intro f ⟨h1, h2⟩
  refine ⟨h1, fun a ha => ?_⟩
  rw [ha] at h2
  dsimp only at h2
  split at h2
  · rename_i q owner h3 h4
    simp only [Bool.and_eq_true, beq_iff_eq, decide_eq_true_eq] at h2
    exact ⟨q, owner, h3, h4, h2⟩
  · cases h2
theorem witness_qinitNoName : Wit (trig 0x0E 0x08) fun f => f.first = some 0 ∧ f.start.queueAt f.ref (f.t 0) = none :=
  wit_of (withOps base 0x0E 7 []) fromS0 (by decide +kernel)

/-! ### mx -/

/-- The group's workgroup is found, and more holds of it. -/
def HasWg (R : Fire → Workgroup → Prop) (f : Fire) : Prop := ∃ x, f.start.wg? f.ref.wg = some x ∧ R f x

def hasWgB (R : Fire → Workgroup → Prop) [∀ f x, Decidable (R f x)] (f : Fire) : Bool :=
  match f.start.wg? f.ref.wg with
  | some x => decide (R f x)
  | none => false

theorem hasWg_of {R : Fire → Workgroup → Prop} [∀ f x, Decidable (R f x)] {d : BitVec 12} (s : State)
    (h : find s fromS0 d (readyB fun f => hasWgB R f = true) = true) : Wit d (HasWg R) := by
  refine wit_mono (fun f hf => ?_) (wit_of s fromS0 h)
  unfold hasWgB at hf
  split at hf
  · rename_i x hx
    exact ⟨x, hx, by simpa using hf⟩
  · cases hf

/-- A command of 8-bit integers that drains nothing (R361 to R370). -/
def command : List W32 := (0x66 : W32) :: (7 : W32) :: List.replicate 49 0
/-- The workgroup's nest with these words in the OPEN slot. -/
def withNest (t : W64) (words : List W32) (h : Nest → Nest) : State :=
  (withOps base 0x0F t [(0, 5)]).modWg 0 fun w =>
    { w with nest := h { w.nest with slots := modAt w.nest.slots 0 fun x => { x with words := words } } }

theorem witness_cfg : Wit (trig 0x0F 0x04) (HasWg fun f x => f.first = some 0 ∧ x.accumBanks ≠ [] ∧ x.nest.openSlot = some 0 ∧
    1 ≤ n32 (f.t 0) ∧ n32 (f.t 0) ≤ 50) := hasWg_of (withNest 50 command id) (by decide +kernel)
theorem witness_fmt : Wit (trig 0x0F 0x05) (HasWg fun f x => f.first = some 0 ∧ x.accumBanks ≠ [] ∧ x.nest.openSlot = some 0) :=
  hasWg_of (withNest 0x66 command id) (by decide +kernel)
theorem witness_go : Wit (trig 0x0F 0x06) (HasWg fun f x => f.first = some 0 ∧ x.accumBanks ≠ [] ∧ x.nest.openSlot = some 0 ∧
    x.nest.faulted = false ∧ formatOk (x.nest.slots[0]?.getD (NSlot.zero .free)).words = true ∧
    stepCount (x.nest.slots[0]?.getD (NSlot.zero .free)).words ≤ 1048576) := hasWg_of (withNest 3 command id) (by decide +kernel)
theorem witness_mxOwned : ∀ d ∈ [trig 0x0F 0x07, trig 0x0F 0x08, trig 0x0F 0x09, trig 0x0F 0x0B],
    Wit d (HasWg fun f x => f.first = some 0 ∧ x.accumBanks ≠ []) := by
  have h : ([trig 0x0F 0x07, trig 0x0F 0x08, trig 0x0F 0x09, trig 0x0F 0x0B].all fun d => find (withNest 0 command id) fromS0 d
      (readyB fun f => hasWgB (fun f x => f.first = some 0 ∧ x.accumBanks ≠ []) f = true)) = true := by decide +kernel
  exact fun d hd => hasWg_of _ (List.all_eq_true.1 h d hd)
theorem witness_bank : Wit (trig 0x0F 0x0A) (HasWg fun f x => f.first = some 0 ∧ x.accumBanks ≠ [] ∧
    (f.t 0).toNat % 2 < x.accumBanks.length) := hasWg_of (withNest 2 command id) (by decide +kernel)

theorem witness_mxNoBanks : ∀ d ∈ ports 0x0F 0x0B, Wit d (HasWg fun f x => f.first = some 0 ∧ x.accumBanks = []) := by
  have h : ((ports 0x0F 0x0B).all fun d => find (base.modWg 0 fun w => { w with accumBanks := [] }) fromS0 d
      (readyB fun f => hasWgB (fun f x => f.first = some 0 ∧ x.accumBanks = []) f = true)) = true := by decide +kernel
  exact fun d hd => hasWg_of _ (List.all_eq_true.1 h d hd)
theorem witness_cfgWord0 : Wit (trig 0x0F 0x04) (HasWg fun f x => f.first = some 0 ∧ x.accumBanks ≠ [] ∧ n32 (f.t 0) = 0) :=
  hasWg_of (withNest 0 command id) (by decide +kernel)
theorem witness_cfgWord51 : Wit (trig 0x0F 0x04) (HasWg fun f x => f.first = some 0 ∧ x.accumBanks ≠ [] ∧ 50 < n32 (f.t 0)) :=
  hasWg_of (withNest 51 command id) (by decide +kernel)
theorem witness_goFormat : Wit (trig 0x0F 0x06) (HasWg fun f x => f.first = some 0 ∧ x.accumBanks ≠ [] ∧ x.nest.openSlot = some 0 ∧
    formatOk (x.nest.slots[0]?.getD (NSlot.zero .free)).words = false) :=
  hasWg_of (withNest 0 (List.replicate 51 0) id) (by decide +kernel)
theorem witness_goSteps : Wit (trig 0x0F 0x06) (HasWg fun f x => f.first = some 0 ∧ x.accumBanks ≠ [] ∧ x.nest.openSlot = some 0 ∧
    formatOk (x.nest.slots[0]?.getD (NSlot.zero .free)).words = true ∧
    1048576 < stepCount (x.nest.slots[0]?.getD (NSlot.zero .free)).words) :=
  hasWg_of (withNest 0 ((command.set 16 0xFFFF).set 21 0xFFFF) id) (by decide +kernel)
theorem witness_bankTrap : Wit (trig 0x0F 0x0A) (HasWg fun f x => f.first = some 0 ∧ x.accumBanks ≠ [] ∧
    x.accumBanks.length ≤ (f.t 0).toNat % 2) := hasWg_of (withNest 1 command id) (by decide +kernel)
theorem witness_goFaulted : Wit (trig 0x0F 0x06) (HasWg fun f x => f.first = some 0 ∧ x.accumBanks ≠ [] ∧ x.nest.openSlot = some 0 ∧
    formatOk (x.nest.slots[0]?.getD (NSlot.zero .free)).words = true ∧
    stepCount (x.nest.slots[0]?.getD (NSlot.zero .free)).words ≤ 1048576 ∧ x.nest.faulted = true) :=
  hasWg_of (withNest 0 command fun n => { n with faulted := true }) (by decide +kernel)

/-! ### xe -/

/-- A phase of core 0 alone, in its third cycle. -/
def phase5 : Phase := { pid := 5, die := 0, mask := 1, members := [(0, theGroup)], sends := [], closed := [], broken := false }
def inPhase (t : W64) : State := { on (withOps base 0x11 t [(0, 3), (1, 7)]) fun g => { g with phase := some (5, 3) } with phases := [phase5] }

theorem witness_open : Wit (trig 0x11 0x04) (HasWg fun f x => f.first = some 0 ∧ f.start.openValid x ((f.t 0).toNat % 16777216) = true) :=
  hasWg_of (withOps base 0x11 1 []) (by decide +kernel)
theorem witness_brokenOpen : Wit (trig 0x11 0x04) (HasWg fun f x =>
    f.first = some 0 ∧ f.start.openValid x ((f.t 0).toNat % 16777216) = false ∧ f.start.phaseOn x.core = false) :=
  hasWg_of (withOps base 0x11 2 []) (by decide +kernel)
/-- The same while a group of another slot of the core is in a phase. -/
theorem witness_brokenOpenWaits : Wit (trig 0x11 0x04) (HasWg fun f x =>
    f.first = some 0 ∧ f.start.openValid x ((f.t 0).toNat % 16777216) = false ∧ f.start.phaseOn x.core = true) :=
  hasWg_of ((withOps base 0x11 2 []).modWg 0 fun w => { w with groups := w.groups ++ w.groups.map fun g =>
    { g with gi := 1, slot := g.slot + 1, phase := some (5, 0), waits := [.barPhase false 0 false 1] } }) (by decide +kernel)
theorem witness_phase : ∀ d ∈ [trig 0x11 0x05, trig 0x11 0x07], Wit d (HasWg fun f _ => f.first = some 0 ∧ f.g.phase = some (5, 3)) := by
  have h : ([trig 0x11 0x05, trig 0x11 0x07].all fun d => find (inPhase 9) fromS0 d
      (readyB fun f => hasWgB (fun f _ => f.first = some 0 ∧ f.g.phase = some (5, 3)) f = true)) = true := by decide +kernel
  exact fun d hd => hasWg_of _ (List.all_eq_true.1 h d hd)
theorem witness_sel : Wit (trig 0x11 0x06) (HasWg fun f _ => f.first = some 0 ∧ f.g.phase = some (5, 3) ∧ f.start.phase? 5 = some phase5) :=
  hasWg_of (inPhase 1) (by decide +kernel)
theorem witness_noPhase : ∀ d ∈ [trig 0x11 0x05, trig 0x11 0x06, trig 0x11 0x07, trig 0x11 0x08, trig 0x11 0x09],
    Wit d fun f => f.first = some 0 ∧ f.g.phase = none := wits_of base fromS0 (by decide +kernel)

end Sys2Proof.Tests
end

