-- ==== Sys2Proof/Tests/WitControl.lean ====
section
/-!
SUPPORT. WitControl: for every rule about sy, about moves into registers, and about traps that has a premise, a case that meets it.
-/

set_option Elab.async false

namespace Sys2Proof.Tests

open Sys2Proof.Machine Sys2Proof.Claims

/-- A state for a sy trigger: value, operands a and b. -/
def sys (t : W64) (a b : W64) : State := withOps base 0x12 t [(0, a), (1, b)]
/-- A move guarded by k1. -/
def guarded : Mv := { fromS0 with g := true, k := 1 }
/-- The same with lanes 0 and 2 in k1. -/
def some2 (s : State) : State := on s fun g => g.setK 1 5

/-! ### Transfers and stacks -/

theorem witness_target : ∀ d ∈ [sy 0x04, sy 0x05, sy 0x08], Wit d fun f =>
    f.first = some 0 ∧ f.validTarget (lo32 (f.t 0)) ∧ f.g.mj.length < 32 := wits_of (sys 60 0 0) fromS0 (by decide +kernel)
theorem witness_brSplit : Wit (sy 0x05) fun f => f.first = some 0 ∧ f.validTarget (lo32 (f.t 0)) ∧ f.lanes ≠ f.g.k0 ∧ f.g.mj.length < 32 :=
  wit_of (some2 (sys 60 0 0)) guarded (by decide +kernel)

def pendingTop : MJEntry := ⟨.pending, 8, 0xF0⟩
def callTop : MJEntry := ⟨.callPend, 8, 0xF0⟩
def mjOf (l : List MJEntry) : State := on (sys 0 0 0) fun g => { g with mj := l }
def rasOf (mj : List MJEntry) (l : List RetEntry) : State := on (sys 0 0 0) fun g => { g with mj := mj, ras := l }

theorem witness_join : Wit (sy 0x09) fun f => f.first = some 0 ∧ f.g.mj = pendingTop :: [] ∧
    (pendingTop.kind = .rejoin ∨ pendingTop.kind = .pending) := wit_of (mjOf [pendingTop]) fromS0 (by decide +kernel)
theorem witness_call : Wit (sy 0x06) fun f => f.applied ≠ [] ∧ (∀ k ∈ f.applied, lo32 (f.op 0 k) = 12) ∧ f.validTarget 12 ∧
    f.lanes = f.g.k0 ∧ f.g.ras.length < 16 := wit_of (sys 0 12 0) fromS0 (by decide +kernel)
theorem witness_callSerial : Wit (sy 0x06) fun f => callTargets f.moved (f.trigIn 0x12 0x06) = (12, 5) :: [] ∧ f.validTarget 12 ∧
    (∀ x ∈ ([] : List (W32 × Mask)), f.validTarget x.1) ∧ ¬(f.lanes = f.g.k0 ∧ ([] : List (W32 × Mask)) = []) ∧ f.g.mj.length + 1 + 0 ≤ 32 ∧
    f.g.ras.length < 16 :=
  wit_mono (P := fun f => callTargets f.moved (f.trigIn 0x12 0x06) = (12, 5) :: [] ∧ f.validTarget 12 ∧
    ¬(f.lanes = f.g.k0 ∧ ([] : List (W32 × Mask)) = []) ∧ f.g.mj.length + 1 + 0 ≤ 32 ∧ f.g.ras.length < 16)
    (fun _ h => ⟨h.1, h.2.1, nofun, h.2.2⟩) (wit_of (some2 (sys 0 12 0)) guarded (by decide +kernel))
/-- Two targets: lane 0 calls 12, the others 16. -/
theorem witness_callTwo : Wit (sy 0x06) fun f => callTargets f.moved (f.trigIn 0x12 0x06) = (12, 1) :: [(16, 0xFE)] ∧ f.validTarget 12 ∧
    (∀ x ∈ [((16 : W32), (0xFE : Mask))], f.validTarget x.1) ∧ ¬(f.lanes = f.g.k0 ∧ [((16 : W32), (0xFE : Mask))] = []) ∧
    f.g.mj.length + 1 + 1 ≤ 32 ∧ f.g.ras.length < 16 :=
  wit_mono (P := fun f => callTargets f.moved (f.trigIn 0x12 0x06) = (12, 1) :: [(16, 0xFE)] ∧ f.validTarget 12 ∧ f.validTarget 16 ∧
    ¬(f.lanes = f.g.k0 ∧ [((16 : W32), (0xFE : Mask))] = []) ∧ f.g.mj.length + 1 + 1 ≤ 32 ∧ f.g.ras.length < 16)
    (fun _ h => ⟨h.1, h.2.1, fun x hx => by rw [List.mem_singleton.1 hx]; exact h.2.2.1, h.2.2.2⟩)
    (wit_of (on (sys 0 16 0) fun g => g.setOpnd 0 0x12 0 12) fromS0 (by decide +kernel))
theorem witness_callNone : Wit (sy 0x06) fun f => f.applied = [] := wit_of base nowhere (by decide +kernel)
theorem witness_ret : Wit (sy 0x07) fun f => f.first = some 0 ∧ f.g.ras = ⟨8, 1, false⟩ :: [] ∧ 1 = f.g.mj.length ∧ false = false :=
  wit_of (rasOf [pendingTop] [⟨8, 1, false⟩]) fromS0 (by decide +kernel)
theorem witness_retSerial : Wit (sy 0x07) fun f => f.first = some 0 ∧ f.g.ras = ⟨8, 1, true⟩ :: [] ∧ 1 = f.g.mj.length ∧ f.g.mj = callTop :: [] :=
  wit_of (rasOf [callTop] [⟨8, 1, true⟩]) fromS0 (by decide +kernel)

theorem witness_badTarget : ∀ d ∈ [sy 0x04, sy 0x05, sy 0x08], Wit d fun f => f.first = some 0 ∧ ¬f.validTarget (lo32 (f.t 0)) :=
  wits_of (sys 64 0 0) fromS0 (by decide +kernel)
theorem witness_oddTarget : ∀ d ∈ [sy 0x04, sy 0x05, sy 0x08], Wit d fun f => f.first = some 0 ∧ ¬f.validTarget (lo32 (f.t 0)) :=
  wits_of (sys 6 0 0) fromS0 (by decide +kernel)
theorem witness_callBad : Wit (sy 0x06) fun f => callTargets f.moved (f.trigIn 0x12 0x06) = (64, 0xFF) :: [] ∧ (¬f.validTarget 64 ∨
    ∃ x ∈ ([] : List (W32 × Mask)), ¬f.validTarget x.1) :=
  wit_mono (P := fun f => callTargets f.moved (f.trigIn 0x12 0x06) = (64, 0xFF) :: [] ∧ ¬f.validTarget 64) (fun _ h => ⟨h.1, .inl h.2⟩)
    (wit_of (sys 0 64 0) fromS0 (by decide +kernel))
theorem witness_mjFull : Wit (sy 0x08) fun f => f.first = some 0 ∧ f.validTarget (lo32 (f.t 0)) ∧ 32 ≤ f.g.mj.length :=
  wit_of (mjOf (List.replicate 32 pendingTop)) fromS0 (by decide +kernel)
theorem witness_brFull : Wit (sy 0x05) fun f => f.first = some 0 ∧ f.validTarget (lo32 (f.t 0)) ∧ f.lanes ≠ f.g.k0 ∧ 32 ≤ f.g.mj.length :=
  wit_of (some2 (mjOf (List.replicate 32 pendingTop))) guarded (by decide +kernel)
theorem witness_joinEmpty : Wit (sy 0x09) fun f => f.first = some 0 ∧ f.g.mj = [] := wit_of base fromS0 (by decide +kernel)
theorem witness_joinCall : Wit (sy 0x09) fun f => f.first = some 0 ∧ f.g.mj = callTop :: [] :=
  wit_of (mjOf [callTop]) fromS0 (by decide +kernel)
theorem witness_retEmpty : Wit (sy 0x07) fun f => f.first = some 0 ∧ f.g.ras = [] ∧ f.g.spilled = 0 := wit_of base fromS0 (by decide +kernel)
theorem witness_retDepth : Wit (sy 0x07) fun f => f.first = some 0 ∧ f.g.ras = ⟨8, 1, false⟩ :: [] ∧ 1 ≠ f.g.mj.length :=
  wit_of (rasOf [] [⟨8, 1, false⟩]) fromS0 (by decide +kernel)

/-- A call that is serialised on a mark-join stack of 32; and one with 16 entries of the return stack on chip and 1020 spilled. -/
theorem witness_callFull : Wit (sy 0x06) fun f => (callTargets f.moved (f.trigIn 0x12 0x06) = (12, 5) :: [] ∧ f.validTarget 12 ∧
    ∀ x ∈ ([] : List (W32 × Mask)), f.validTarget x.1) ∧ ¬(f.lanes = f.g.k0 ∧ ([] : List (W32 × Mask)) = []) ∧ 32 < f.g.mj.length + 1 + 0 :=
  wit_mono (P := fun f => callTargets f.moved (f.trigIn 0x12 0x06) = (12, 5) :: [] ∧ f.validTarget 12 ∧
    ¬(f.lanes = f.g.k0 ∧ ([] : List (W32 × Mask)) = []) ∧ 32 < f.g.mj.length + 1 + 0)
    (fun _ h => ⟨⟨h.1, h.2.1, nofun⟩, h.2.2⟩)
    (wit_of (some2 (on (sys 0 12 0) fun g => { g with mj := List.replicate 32 pendingTop })) guarded (by decide +kernel))
theorem witness_callNoRoom : Wit (sy 0x06) fun f => (callTargets f.moved (f.trigIn 0x12 0x06) = (12, 0xFF) :: [] ∧ f.validTarget 12 ∧
    ∀ x ∈ ([] : List (W32 × Mask)), f.validTarget x.1) ∧ ((f.lanes = f.g.k0 ∧ ([] : List (W32 × Mask)) = []) ∨ f.g.mj.length + 1 + 0 ≤ 32) ∧
    16 ≤ f.g.ras.length ∧ 1024 < f.g.spilled + 8 :=
  wit_mono (P := fun f => callTargets f.moved (f.trigIn 0x12 0x06) = (12, 0xFF) :: [] ∧ f.validTarget 12 ∧ f.lanes = f.g.k0 ∧
    16 ≤ f.g.ras.length ∧ 1024 < f.g.spilled + 8)
    (fun _ h => ⟨⟨h.1, h.2.1, nofun⟩, .inl ⟨h.2.2.1, rfl⟩, h.2.2.2⟩)
    (wit_of (on (sys 0 12 0) fun g => { g with ras := List.replicate 16 ⟨8, 0, false⟩, spilled := 1020 }) fromS0 (by decide +kernel))

/-! ### Loops, barriers, waits -/

theorem witness_loop : Wit (sy 0x0A) fun f => f.first = some 0 ∧ f.loopOk 0 := wit_of (sys 5 56 8) fromS0 (by decide +kernel)
theorem witness_loopBeyond : Wit (sy 0x0A) fun f => f.first = some 0 ∧ ¬f.loopOk 0 := wit_of (sys 5 60 1) fromS0 (by decide +kernel)
theorem witness_loopStages : Wit (sy 0x0A) fun f => f.first = some 0 ∧ ¬f.loopOk 0 := wit_of (sys 5 8 9) fromS0 (by decide +kernel)
theorem witness_brk : Wit (sy 0x0B) always := wit_of (P := fun _ => True) base fromS0 (by decide +kernel)

/-- The group is in a loop over its text from 0 to 32. -/
def gLooping : Group := { g0 with loop := { g0.loop with active := true, s0 := 0, len := 32 } }
theorem witness_brkInLoop : Heads (st gLooping) (wOf gLooping) gLooping l0 who0 ∧ gLooping.handler = false ∧ gLooping.loop.active = true ∧
    loneCheck gLooping l0 fromS0 (sy 0x0B) = .go ∧ (⟨st gLooping, fromS0, sy 0x0B, wOf gLooping, gLooping, l0, who0⟩ : Fire).first ≠ none := by
  refine ⟨⟨?_, ?_, ?_, ?_, ?_, ?_, ?_, ?_, ?_, ?_, ?_⟩, ?_⟩ <;> decide +kernel

/-- A loop inside it. -/
theorem witness_loopNested : Heads (st gLooping) (wOf gLooping) gLooping l0 who0 ∧ gLooping.loop.active = true ∧
    loneCheck gLooping l0 fromS0 (sy 0x0A) = .go ∧ (⟨st gLooping, fromS0, sy 0x0A, wOf gLooping, gLooping, l0, who0⟩ : Fire).first ≠ none := by
  refine ⟨⟨?_, ?_, ?_, ?_, ?_, ?_, ?_, ?_, ?_, ?_, ?_⟩, ?_⟩ <;> decide +kernel
/-- The body of its loop ends inside the bundle. -/
def gStraddling : Group := { g0 with loop := { g0.loop with active := true, s0 := 0, len := 4 } }
theorem witness_straddle : Heads (st gStraddling) (wOf gStraddling) gStraddling l0 who0 ∧ gStraddling.handler = false ∧
    gStraddling.loop.active = true ∧ bundleError gStraddling.advance (loneBundle (mvWord fromS0 (sy 0x0A))) = none ∧
    gStraddling.loop.s0 ≤ (l0.textOffset gStraddling.pc).toNat ∧ (l0.textOffset gStraddling.pc).toNat < gStraddling.loop.s0 + gStraddling.loop.len ∧
    gStraddling.loop.s0 + gStraddling.loop.len < (l0.textOffset gStraddling.pc).toNat + loneLen fromS0 (sy 0x0A) := by
  refine ⟨⟨?_, ?_, ?_, ?_, ?_, ?_, ?_, ?_, ?_, ?_, ?_⟩, ?_⟩ <;> decide +kernel

/-- The group's workgroup is a gang of its own, with a barrier. -/
def inGang (s : State) : State :=
  { s.modWg 0 fun w => { w with gang := some 0 } with gangs := [{ lid := 0, num := 0, die := 0, members := [0], bars := [barrier2] }] }

theorem witness_bars : ∀ d ∈ [sy 0x0C, sy 0x0D, sy 0x10], Wit d fun f => f.first = some 0 ∧ f.bar false ((f.t 0).toNat % 32) (.wg 0) barrier2 :=
  wits_of (sys 0 0 0) fromS0 (by decide +kernel)
theorem witness_barInvalid : ∀ d ∈ [sy 0x0C, sy 0x0D], Wit d fun f =>
    f.first = some 0 ∧ f.bar false ((f.t 0).toNat % 32) (.wg 0) { barrier2 with valid := false } := wits_of (sys 1 0 0) fromS0 (by decide +kernel)
theorem witness_cbars : ∀ d ∈ [sy 0x11, sy 0x12, sy 0x14], Wit d fun f =>
    f.first = some 0 ∧ f.bar true ((f.t 0).toNat % 32) (.gang 0 0) barrier2 := wits_of (inGang (sys 0 0 0)) fromS0 (by decide +kernel)
theorem witness_barwt : Wit (sy 0x0E) fun f => f.first = some 0 ∧ f.bar ((f.t 0).getLsbD 5) ((f.t 0).toNat % 32) (.gang 0 0) barrier2 :=
  wit_of (inGang (sys 0x20 0 0)) fromS0 (by decide +kernel)
theorem witness_barinit : Wit (sy 0x0F) fun f => f.first = some 0 ∧ f.bar false ((f.t 0).toNat % 32) (.wg 0) barrier2 ∧
    0 < (f.op 0 0).toNat % 65536 ∧ (f.op 0 0).toNat % 65536 ≤ 16 ∧ f.start.barWaited (.wg 0) false ((f.t 0).toNat % 32) = false :=
  wit_of (sys 0 16 0) fromS0 (by decide +kernel)
theorem witness_cbarinit : Wit (sy 0x13) fun f => f.first = some 0 ∧ f.bar true ((f.t 0).toNat % 32) (.gang 0 0) barrier2 ∧
    0 < (f.op 0 0).toNat % 65536 ∧ (f.op 0 0).toNat % 65536 ≤ 384 ∧ f.start.barWaited (.gang 0 0) true ((f.t 0).toNat % 32) = false :=
  wit_of (inGang (sys 0 384 0)) fromS0 (by decide +kernel)
theorem witness_noBar : ∀ d ∈ [sy 0x0C, sy 0x0D, sy 0x0F, sy 0x10], Wit d fun f => f.first = some 0 ∧ f.noBar false ((f.t 0).toNat % 32) := by
  intro d hd
  refine wit_mono (fun f hf => ⟨hf.1, fun b hb => ?_⟩) (wits_of (ds := [sy 0x0C, sy 0x0D, sy 0x0F, sy 0x10])
    (P := fun f => f.first = some 0 ∧ f.start.barAt f.ref false = some (.wg 0) ∧ (f.start.bars (.wg 0))[(f.t 0).toNat % 32]? = none)
    (sys 2 1 0) fromS0 (by decide +kernel) d hd)
  rw [hf.2.1] at hb
  cases hb
  exact hf.2.2
theorem witness_noCluster : ∀ d ∈ [sy 0x11, sy 0x12, sy 0x13, sy 0x14], Wit d fun f => f.first = some 0 ∧ f.noBar true ((f.t 0).toNat % 32) := by
  intro d hd
  refine wit_mono (fun f hf => ⟨hf.1, fun b hb => ?_⟩) (wits_of (ds := [sy 0x11, sy 0x12, sy 0x13, sy 0x14])
    (P := fun f => f.first = some 0 ∧ f.start.barAt f.ref true = none) (sys 0 1 0) fromS0 (by decide +kernel) d hd)
  rw [hf.2] at hb
  cases hb
theorem witness_barwtNone : Wit (sy 0x0E) fun f => f.first = some 0 ∧ f.noBar ((f.t 0).getLsbD 5) ((f.t 0).toNat % 32) := by
  refine wit_mono (P := fun f => f.first = some 0 ∧ f.start.barAt f.ref ((f.t 0).getLsbD 5) = none) (fun f hf => ⟨hf.1, fun b hb => ?_⟩)
    (wit_of (sys 0x20 0 0) fromS0 (by decide +kernel))
  rw [hf.2] at hb
  cases hb
theorem witness_barinitZero : Wit (sy 0x0F) fun f => f.first = some 0 ∧ f.bar false ((f.t 0).toNat % 32) (.wg 0) barrier2 ∧
    ((f.op 0 0).toNat % 65536 = 0 ∨ 16 < (f.op 0 0).toNat % 65536) := wit_of (sys 0 17 0) fromS0 (by decide +kernel)
/-- Another group of the workgroup waits at barrier 0. -/
theorem witness_barinitWaited : Wit (sy 0x0F) fun f => f.first = some 0 ∧ f.bar false ((f.t 0).toNat % 32) (.wg 0) barrier2 ∧
    0 < (f.op 0 0).toNat % 65536 ∧ (f.op 0 0).toNat % 65536 ≤ 16 ∧ f.start.barWaited (.wg 0) false ((f.t 0).toNat % 32) = true :=
  wit_of ((sys 0 16 0).modWg 0 fun w => { w with groups := w.groups ++ w.groups.map fun g =>
    { g with gi := 1, waits := [.barPhase false 0 false 1] } }) fromS0 (by decide +kernel)

/-- A wait on a word of the data page. -/
theorem witness_wait : Wit (sy 0x15) fun f => f.first = some 0 ∧ (∃ ps es, f.start.checkLane f.who 0 (f.op 0 0) 8 .load false = .ok ps es ∧
    (ps.map (·.target)).head? = some (.phys 0x50008 .s false true)) ∧ (f.op 0 0).toNat % 8 = 0 ∧ paClass 0x50008 = 0 := by
  refine wit_mono (P := fun f => f.first = some 0 ∧ (match f.start.checkLane f.who 0 (f.op 0 0) 8 .load false with
    | .ok ps _ => decide ((ps.map (·.target)).head? = some (.phys 0x50008 .s false true))
    | _ => false) = true ∧ (f.op 0 0).toNat % 8 = 0 ∧ paClass 0x50008 = 0) (fun f hf => ?_) (wit_of (sys 0x20001 0x100008 7) fromS0 (by decide +kernel))
  obtain ⟨h1, h2, h3⟩ := hf
  refine ⟨h1, ?_, h3⟩
  split at h2
  · rename_i ps es hc
    exact ⟨ps, es, hc, by simpa using h2⟩
  · cases h2
theorem witness_sySelf : ∀ d ∈ [sy 0x16, sy 0x17, sy 0x18, sy 0x1A, sy 0x1B, sy 0x1C, sy 0x1D, sy 0x1E, sy 0x1F, sy 0x20],
    Wit d fun f => f.first = some 0 := wits_of (sys 1 0 0) fromS0 (by decide +kernel)
theorem witness_segchk : Wit (sy 0x19) fun f => f.first = some 0 ∧ (lo32 (f.op 0 0)).toNat = f.g.segCount ∧ lo32 (f.op 1 0) = f.g.segSig :=
  wit_of (on (sys 0 4 0x1234) fun g => { g with segCount := 4, segSig := 0x1234 }) fromS0 (by decide +kernel)

end Sys2Proof.Tests
end

