-- ==== Sys2Proof/Tests/WitCore.lean ====
section
/-!
SUPPORT. WitCore: for every rule about the device's own steps at a core that has a premise, a state that meets it.
-/

set_option Elab.async false

namespace Sys2Proof.Tests

open Sys2Proof.Machine Sys2Proof.Claims

/-! ### Issue -/

def isDone : IssueRes → Bool
  | .done _ => true
  | _ => false
theorem done_of {x : IssueRes} (h : isDone x = true) : ∃ u, x = .done u := by
  cases x with
  | done s => exact ⟨s, rfl⟩
  | _ => cases h
/-- The issue is done, and this holds of the state after it. -/
def doneAnd (x : IssueRes) (p : State → Bool) : Bool :=
  match x with
  | .done s => p s
  | _ => false
theorem doneAnd_of {x : IssueRes} {p : State → Bool} (h : doneAnd x p = true) : ∃ u, x = .done u ∧ p u = true := by
  cases x with
  | done s => exact ⟨s, rfl, h⟩
  | _ => cases h
theorem some_of {α : Type} {x : Option α} (h : x.isSome = true) : ∃ u, x = some u := Option.isSome_iff_exists.1 h

/-- A group that may issue, alone in its slot, and whose bundle is at hand. -/
theorem witness_issues : Issues base theGroup w0 g0 l0 who0 ∧ base.mates w0 g0 = [] := by unfold Issues; decide +kernel
theorem witness_issue : ∃ b ws len t u, base.fetch who0 l0 g0.pc = .bundle b ws len t ∧ execBundle trigTable t theGroup g0 l0 b ws g0.pc len false = .done u := by
  have h : (match base.fetch who0 l0 g0.pc with
    | .bundle b ws len t => isDone (execBundle trigTable t theGroup g0 l0 b ws g0.pc len false)
    | _ => false) = true := by decide +kernel
  split at h
  · rename_i b ws len t hb
    obtain ⟨u, hu⟩ := done_of h
    exact ⟨b, ws, len, t, u, hb, hu⟩
  · cases h
/-- Two groups of the slot at one program counter, in columns of their own. -/
def gMate : Group := { g0 with gi := 1, entry := g0.entry + 1, col := g0.col + g0.width }
def wTwo : Workgroup := { w0 with groups := [g0, gMate] }
def paired : State := { base with wgs := [wTwo] }
def mateRef : GRef := ⟨0, 1⟩
def whoMate : Who := (paired.who? mateRef).getD who0
theorem witness_coIssues : Issues paired theGroup wTwo g0 l0 who0 ∧ paired.mates wTwo g0 = [(wTwo, gMate)] ∧ refOf wTwo gMate = mateRef ∧
    g0.col + g0.width ≤ gMate.col := by unfold Issues; decide +kernel
theorem witness_coIssue : ∃ b ws len t p u v, paired.fetch who0 l0 g0.pc = .bundle b ws len t ∧
    execBundle trigTable t theGroup g0 l0 b ws g0.pc len false = .done p ∧
    issueAs trigTable b ws len t (wTwo, g0) = .done u ∧ issueAs trigTable b ws len u (wTwo, gMate) = .done v ∧
    t.wg? 0 = some wTwo ∧ t.group? theGroup = some g0 ∧ t.launchOf? theGroup = some l0 ∧ t.who? theGroup = some who0 ∧
    t.candidate wTwo g0 = true ∧ (issueAs trigTable b ws len t (wTwo, gMate)).isWait = false := by
  have h : (match paired.fetch who0 l0 g0.pc with
    | .bundle b ws len t =>
      isDone (execBundle trigTable t theGroup g0 l0 b ws g0.pc len false) &&
        doneAnd (issueAs trigTable b ws len t (wTwo, g0)) fun u => isDone (issueAs trigTable b ws len u (wTwo, gMate)) &&
          decide (t.wg? 0 = some wTwo ∧ t.group? theGroup = some g0 ∧ t.launchOf? theGroup = some l0 ∧ t.who? theGroup = some who0 ∧
            t.candidate wTwo g0 = true ∧ (issueAs trigTable b ws len t (wTwo, gMate)).isWait = false)
    | _ => false) = true := by decide +kernel
  split at h
  · rename_i b ws len t hb
    obtain ⟨h1, h2⟩ := Bool.and_eq_true _ _ ▸ h
    obtain ⟨p, hp⟩ := done_of h1
    obtain ⟨u, hu, h3⟩ := doneAnd_of h2
    obtain ⟨h4, h5⟩ := Bool.and_eq_true _ _ ▸ h3
    obtain ⟨v, hv⟩ := done_of h4
    exact ⟨b, ws, len, t, p, u, v, hb, hp, hu, hv, of_decide_eq_true h5⟩
  · cases h
/-- Past the text: 64 bytes of it are loaded. -/
def gPast : Group := { g0 with pc := g0.pc + 64 }
theorem witness_fetchTrap : ∃ t, Issues (st gPast) theGroup (wOf gPast) gPast l0 who0 ∧ (st gPast).fetch who0 l0 gPast.pc = .trap t := by
  have h : (match (st gPast).fetch who0 l0 gPast.pc with
    | .trap _ => true
    | _ => false) = true := by decide +kernel
  split at h
  · rename_i t ht
    exact ⟨t, by unfold Issues; decide +kernel, ht⟩
  · cases h
def gPad : Group := { g0 with pad := 3, padPc := g0.pc, padLen := 4 }
theorem witness_pad : ∃ u, (st gPad).candidate (wOf gPad) gPad = true ∧ stopHere (wOf gPad) gPad = none ∧ gPad.pad ≠ 0 ∧
    execBundle trigTable (st gPad) theGroup gPad l0 { header := ⟨0, 0, 0, false, 0⟩, moves := [], ext := [] } [] gPad.padPc gPad.padLen
      true = .done u := by
  have h0 : (st gPad).candidate (wOf gPad) gPad = true ∧ stopHere (wOf gPad) gPad = none ∧ gPad.pad ≠ 0 := by decide +kernel
  obtain ⟨u, hu⟩ := done_of (x := execBundle trigTable (st gPad) theGroup gPad l0 { header := ⟨0, 0, 0, false, 0⟩, moves := [], ext := [] } []
    gPad.padPc gPad.padLen true) (by decide +kernel)
  exact ⟨u, h0.1, h0.2.1, h0.2.2, hu⟩
/-- One more pad and the last, with empty latches; and a pad of a group whose workgroup is asked to leave. -/
theorem witness_emptyPad : gPad.latches = noLatches ∧ ({ gPad with pad := 1 } : Group).latches = noLatches ∧
    (st { gPad with pad := 1 }).candidate (wOf { gPad with pad := 1 }) { gPad with pad := 1 } = true ∧
    stopHere (wOf { gPad with pad := 1 }) { gPad with pad := 1 } = none := by decide +kernel
def wLeaving : Workgroup := { wOf gPad with preempt := true }
def leaving : State := { base with wgs := [wLeaving] }
theorem witness_padStop : ∃ f, leaving.wg? 0 = some wLeaving ∧ leaving.group? theGroup = some gPad ∧ leaving.launchOf? theGroup = some l0 ∧
    leaving.who? theGroup = some who0 ∧ leaving.candidate wLeaving gPad = true ∧ stopHere wLeaving gPad = some f := by
  obtain ⟨f, hf⟩ := some_of (x := stopHere wLeaving gPad) (by decide +kernel)
  exact ⟨f, by decide +kernel, by decide +kernel, by decide +kernel, by decide +kernel, by decide +kernel, hf⟩
theorem witness_noPad : base.group? theGroup = some g0 ∧ g0.pad = 0 := by decide +kernel
def gLong : Group := { g0 with waited := clockedCycles 48 }
theorem witness_promotion : (st gLong).candidate (wOf gLong) gLong = true ∧ clockedCycles 48 ≤ gLong.waited := by decide +kernel

/-! ### Results and waits -/

/-- A store, a load and an atomic of lane 0, at the scratchpad and at the data page. -/
def pieceAtScratch : Piece := Piece.new (.scratch 0 64) 0 4
def pieceAtData : Piece := Piece.new (.phys 0x80008 .s false true) 0 4
def laneOp (p : Piece) (va : W64) : LaneOp := newLaneOp 0 va [p] 0xFF55 0 0 false
def entryOf (op : MemOp) (o : LaneOp) : MemEntry := { id := 0, op := op, size := 4, pc := 0, lanes := [o], popped := false }
def landing : LaneOp := { laneOp pieceAtData 0x100008 with done := true, val := 0x80000001 }
def gLoad : Group := { g0 with ldq := [entryOf (.load true) landing], ldr := [{ freshEntry g0 1 with id := 0 }], ord := 1 }
def gAm : Group := { g0 with amq := [entryOf (.atomic .add) landing], amr := [{ freshEntry g0 1 with id := 0 }], ord := 1 }
def varRes : VarRes := { port := .cp, id := 0, lanes := 1, val := 7, ask := none }
def gVar : Group := { g0 with varPend := [varRes] }
/-- The read of channel 1 of the group. -/
def varAsk : VarRes := { varRes with ask := some 1 }
def gAsk : Group := { g0 with varPend := [varAsk] }

theorem witness_loadLands : (wOf gLoad).group? 0 = some gLoad ∧ gLoad.ldq.find? (fun x => x.id == 0) = some (entryOf (.load true) landing) ∧
    (entryOf (.load true) landing).lanes.find? (fun x => x.lane == 0) = some landing ∧ (entryOf (.load true) landing).size ∈ [1, 2, 4, 8] ∧
    landing.val.toNat < 256 ^ 4 ∧ landing.landed = false ∧ landing.done = true ∧ landing.status = 0 := by decide +kernel
theorem witness_amLands : (st gAm).group? theGroup = some gAm ∧ gAm.amq.find? (fun x => x.id == 0) = some (entryOf (.atomic .add) landing) ∧
    (entryOf (.atomic .add) landing).lanes.find? (fun x => x.lane == 0) = some landing ∧ landing.landed = false ∧ landing.done = true := by
  decide +kernel
theorem witness_varLands : (st gVar).group? theGroup = some gVar ∧
    gVar.varPend.find? (fun y => y.port == .cp && y.id == 0 && y.lanes.getLsbD 0) = some varRes ∧ varRes.ask = none := by
  decide +kernel
theorem witness_wptrLands : (st gAsk).group? theGroup = some gAsk ∧
    gAsk.varPend.find? (fun y => y.port == .cp && y.id == 0 && y.lanes.getLsbD 0) = some varAsk ∧ varAsk.ask = some 1 ∧
    gAsk.syncHeld varAsk.id = false ∧ (1 : W64).toNat / 16 % 16 = gAsk.gi ∧ (gAsk.chans[(1 : W64).toNat % 4]?).map (·.written) = some 0 := by
  decide +kernel

def gWaits (x : Wait) : Group := { g0 with waits := [x] }
theorem witness_waits : ∀ x ∈ [Wait.yield 3, .redirect, .trapEntry, .growth, .icinv 0xFC000000000000 64, .wake 0x100008 0x50008 .eq 1 (some 0) 1],
    (st (gWaits x)).group? theGroup = some (gWaits x) ∧ (st (gWaits x)).wg? 0 = some (wOf (gWaits x)) ∧ (wOf (gWaits x)).out = false := by
  decide +kernel
theorem witness_icinv : (gWaits (.icinv 0xFC000000000000 64)).writesBefore g0.ord = true := by decide +kernel
theorem witness_timeout : 0 ≤ (st (gWaits (.wake 0x100008 0x50008 .eq 1 (some 0) 1))).time := by decide +kernel
theorem witness_yield : (gWaits (.yield 3)).waits = [.yield 3] ∧ 3 ≤ ({ st (gWaits (.yield 3)) with clocked := 3 } : State).clocked ∧
    ({ st (gWaits (.yield 3)) with clocked := 3 } : State).group? theGroup = some (gWaits (.yield 3)) := by decide +kernel

/-! ### Traps -/

/-- The state with the group area of segment 0 mapped, and a vector that is enabled or not (R395). -/
def withArea (g : Group) (vector : Nat) : State :=
  let s := (st g).modCtx 0 fun c => { c with segMarks := [(0, (1, 0))] }
  let va := segBase 0
  let mem := ((s.mem.writeNat (loadRoot + 8 * levelIndex 3 va) 8 0x200001).writeNat (0x200000 + 8 * levelIndex 2 va) 8 0x204001).writeNat
    (0x204000 + 8 * levelIndex 1 va) 8 0x208001
  { s with mem := (mem.writeNat (0x208000 + 8 * levelIndex 0 va) 8 (loadLeaf.toNat + 0x240000 - loadFrame)).writeNat 0x240000 8 vector }
def imprecise : TrapInfo := { precise 0x20 1 0 with imprecise := true }
def gPend : Group := { g0 with pend := [imprecise] }
def gHeld : Group := { g0 with held := [imprecise] }
def gEnded : Group := { gPend with ended := true }
def vectorOn : Nat := 2 ^ 32 + 8

theorem witness_imprecise : ∃ u, (withArea gPend vectorOn).wg? 0 = some (wOf gPend) ∧ (withArea gPend vectorOn).who? theGroup = some who0 ∧
    (wOf gPend).out = false ∧ boundary gPend = true ∧ gPend.handler = false ∧
    (((withArea gPend vectorOn).setGroup theGroup { gPend with pend := [] }).modGroup theGroup fun x =>
      x.dropWaits fun y => y == .translate || y == .missRoom || y == .growth).takeTrap theGroup { imprecise with exited := false } (gPend.resumeAt l0) = some u := by
  have h0 : (withArea gPend vectorOn).wg? 0 = some (wOf gPend) ∧ (withArea gPend vectorOn).who? theGroup = some who0 ∧
    (wOf gPend).out = false ∧ boundary gPend = true ∧ gPend.handler = false := by decide +kernel
  obtain ⟨u, hu⟩ := some_of (x := (((withArea gPend vectorOn).setGroup theGroup { gPend with pend := [] }).modGroup theGroup fun x =>
      x.dropWaits fun y => y == .translate || y == .missRoom || y == .growth).takeTrap theGroup { imprecise with exited := false } (gPend.resumeAt l0))
    (by decide +kernel)
  exact ⟨u, h0.1, h0.2.1, h0.2.2.1, h0.2.2.2.1, h0.2.2.2.2, hu⟩
/-- They pass the check point; with poison outside a region their workgroup ends there. -/
theorem witness_entryPasses : psn gPend.check = false ∧ psn gHeld.check = false := by decide +kernel
def gPendBad : Group := { gPend with check := 1 }
def gHeldBad : Group := { gHeld with check := 1 }
def isGone : CheckRes → Bool
  | .gone _ => true
  | .pass => false
theorem gone_of {x : CheckRes} (h : isGone x = true) : ∃ u, x = .gone u := by
  cases x with
  | gone s => exact ⟨s, rfl⟩
  | pass => cases h
theorem witness_entryCheck : (∃ u, checkPoint (st gPendBad) theGroup (gPendBad.resumeAt l0) none = .gone u) ∧
    (∃ u, checkPoint (st gHeldBad) theGroup (gHeldBad.resumeAt l0) none = .gone u) ∧
    (∀ g ∈ [gPendBad, gHeldBad], (st g).wg? 0 = some (wOf g) ∧ (st g).group? theGroup = some g ∧ (st g).launchOf? theGroup = some l0 ∧
      (st g).who? theGroup = some who0 ∧ g.ended = false ∧ (wOf g).out = false ∧ boundary g = true ∧ g.handler = false) ∧
    gPendBad.pend = [imprecise] ∧ gHeldBad.held = [imprecise] ∧ imprecise.code ≠ 0x0B :=
  ⟨gone_of (by decide +kernel), gone_of (by decide +kernel), by decide +kernel⟩
theorem witness_impreciseEnded : (st gEnded).group? theGroup = some gEnded ∧ gEnded.pend = imprecise :: [] ∧ gEnded.ended = true := by decide +kernel
theorem witness_held : ∃ u, (wOf gHeld).out = false ∧ gHeld.handler = false ∧ gHeld.ended = false ∧ boundary gHeld = true ∧
    (((withArea gHeld vectorOn).setGroup theGroup { gHeld with held := [] }).modGroup theGroup fun x =>
      x.dropWaits fun y => y == .translate || y == .missRoom || y == .growth).takeTrap theGroup imprecise (gHeld.resumeAt l0) = some u := by
  have h0 : (wOf gHeld).out = false ∧ gHeld.handler = false ∧ gHeld.ended = false ∧ boundary gHeld = true := by decide +kernel
  obtain ⟨u, hu⟩ := some_of (x := (((withArea gHeld vectorOn).setGroup theGroup { gHeld with held := [] }).modGroup theGroup fun x =>
      x.dropWaits fun y => y == .translate || y == .missRoom || y == .growth).takeTrap theGroup imprecise (gHeld.resumeAt l0)) (by decide +kernel)
  exact ⟨u, h0.1, h0.2.1, h0.2.2.1, h0.2.2.2, hu⟩

/-- The area is reached, and the vector is enabled, or is not. -/
def areaOf (g : Group) (v : Nat) (en : Bool) : Bool :=
  match (stampedState (withArea g v) (precise 7 1 0)).groupArea who0 0 false with
  | (.ok pa, s1) => (w64 (bytesNat (s1.ownLoad theGroup l0.ctx pa 8))).getLsbD 32 == en
  | _ => false
theorem area_of {g : Group} {v : Nat} {en : Bool} (h : areaOf g v en = true) : ∃ pa s1,
    (stampedState (withArea g v) (precise 7 1 0)).groupArea who0 0 false = (.ok pa, s1) ∧
      (w64 (bytesNat (s1.ownLoad theGroup l0.ctx pa 8))).getLsbD 32 = en := by
  unfold areaOf at h
  split at h
  · rename_i pa s1 hp
    exact ⟨pa, s1, hp, by simpa using h⟩
  · cases h
theorem witness_entry : ∃ pa s1, (withArea g0 vectorOn).group? theGroup = some g0 ∧ g0.handler = false ∧
    (stampedState (withArea g0 vectorOn) (precise 7 1 0)).groupArea who0 0 false = (.ok pa, s1) ∧
      (w64 (bytesNat (s1.ownLoad theGroup l0.ctx pa 8))).getLsbD 32 = true := by
  obtain ⟨pa, s1, h⟩ := area_of (g := g0) (v := vectorOn) (en := true) (by decide +kernel)
  exact ⟨pa, s1, by decide +kernel, by decide +kernel, h.1, h.2⟩
theorem witness_noHandler : ∃ pa s1, (withArea g0 8).group? theGroup = some g0 ∧ g0.handler = false ∧
    (stampedState (withArea g0 8) (precise 7 1 0)).groupArea who0 0 false = (.ok pa, s1) ∧
      (w64 (bytesNat (s1.ownLoad theGroup l0.ctx pa 8))).getLsbD 32 = false := by
  obtain ⟨pa, s1, h⟩ := area_of (g := g0) (v := 8) (en := false) (by decide +kernel)
  exact ⟨pa, s1, by decide +kernel, by decide +kernel, h.1, h.2⟩
def gHandler : Group := { g0 with handler := true }
theorem witness_double : (st gHandler).group? theGroup = some gHandler ∧ (st gHandler).who? theGroup = some who0 ∧ gHandler.handler = true := by
  decide +kernel

/-! ### Accesses -/

def oScratch : LaneOp := laneOp pieceAtScratch 0xFF000000000040
def oData : LaneOp := laneOp pieceAtData 0x100008
def gStore (o : LaneOp) : Group := { g0 with stq := [entryOf .store o], ord := 1 }
def gLoads (o : LaneOp) : Group := { g0 with ldq := [entryOf (.load true) o], ord := 1 }

theorem witness_scratchStore : Performable (st (gStore oScratch)) theGroup .st 0 0 0 (wOf (gStore oScratch)) (gStore oScratch) l0
    (entryOf .store oScratch) oScratch pieceAtScratch := by unfold Performable; decide +kernel
theorem witness_scratchLoad : Performable (st (gLoads oScratch)) theGroup .ld 0 0 0 (wOf (gLoads oScratch)) (gLoads oScratch) l0
    (entryOf (.load true) oScratch) oScratch pieceAtScratch := by unfold Performable; decide +kernel
theorem witness_memStore : Performable (st (gStore oData)) theGroup .st 0 0 0 (wOf (gStore oData)) (gStore oData) l0
    (entryOf .store oData) oData pieceAtData := by unfold Performable; decide +kernel
theorem witness_scratchGood : (st (gStore oScratch)).wg? 0 = some (wOf (gStore oScratch)) ∧ (wOf (gStore oScratch)).scratchUe 64 4 = false ∧
    (st (gLoads oScratch)).wg? 0 = some (wOf (gLoads oScratch)) ∧ pieceAtScratch.target = .scratch 0 64 := by decide +kernel
/-- Charon lets an uncached store through. -/
def homeOpData : HomeOp := homeOpOf (wOf (gStore oData)) l0 (entryOf .store oData) oData pieceAtData 0x80008 .s false true
def uncached : HomeOp := { homeOpData with c := false }
theorem witness_memStoreGoes : ∃ t, (st (gStore oData)).isCovered 0 0x80008 false true = false ∧
    (st (gStore oData)).beforeWrite uncached 0 = .ok t ∧ overlayOf l0 false = none ∧ paClass 0x80008 = 0 ∧ paUsable 0x80008 = true ∧
    (t.noteWrite (partOf 0x80008)).badLines.contains (lineOf ((t.noteWrite (partOf 0x80008)).bytePlace none 0x80008)) = false := by
  have h : (match (st (gStore oData)).beforeWrite uncached 0 with
    | .ok t => !(t.noteWrite (partOf 0x80008)).badLines.contains (lineOf ((t.noteWrite (partOf 0x80008)).bytePlace none 0x80008))
    | .error _ => false) = true := by decide +kernel
  split at h
  · rename_i t ht
    exact ⟨t, by decide +kernel, ht, by decide +kernel, by decide +kernel, by decide +kernel, by simpa using h⟩
  · cases h
/-- Two groups store to one word. -/
def gOther : Group := { gStore oScratch with gi := 1 }
def racing : State := { base with wgs := [{ w0 with groups := [gStore oScratch, gOther] }] }
def raceIn : RaceIn :=
  { ctx := some 0, me := some theGroup, ps := [pieceAtScratch], write := true, plain := plain (entryOf .store oScratch) oScratch pieceAtScratch
    own := pieceAtScratch.own l0 }
theorem witness_race : raceIn.ctx = some 0 ∧ (∀ p ∈ raceIn.ps, racing.duplicated p = false) ∧ 0 ∈ racing.racesQueued raceIn ∧
    (racing.contexts.any fun d => d.num == 0) = true := by decide +kernel
/-- A load in a context that has raced. -/
def raced : State := (st (gLoads oScratch)).modCtx 0 fun c => { c with raced := true }
def racedIn : RaceIn := { raceIn with write := false, plain := plain (entryOf (.load true) oScratch) oScratch pieceAtScratch }
theorem raced_alone : raced.noteRace racedIn true = raced := by decide +kernel
theorem witness_racedLoad : raced.pieceAt (pieceRef theGroup .ld 0 0 0) =
      some (wOf (gLoads oScratch), gLoads oScratch, entryOf (.load true) oScratch, oScratch, pieceAtScratch) ∧ raced.launch? 0 = some l0 ∧
    (gLoads oScratch).mayPerform (entryOf (.load true) oScratch) oScratch pieceAtScratch
      (raced.coveredPiece (wOf (gLoads oScratch)) (entryOf (.load true) oScratch) pieceAtScratch) = true ∧
    raced.acquireHeld theGroup (entryOf (.load true) oScratch) oScratch pieceAtScratch = false ∧
    ∃ x, (((raced.noteRace racedIn true).stray 0).ctx 0).raced = true ∧ ((raced.noteRace racedIn true).stray 0).wg? 0 = some x ∧
      x.scratchUe 64 4 = false := by
  refine ⟨by decide +kernel, by decide +kernel, by decide +kernel, by decide +kernel, ?_⟩
  rw [raced_alone]
  obtain ⟨hc, m, hm⟩ := stray_frame raced 0 0 (wOf (gLoads oScratch)) (by decide +kernel)
  refine ⟨_, ?_, hm, (by decide +kernel : (wOf (gLoads oScratch)).scratchUe 64 4 = false)⟩
  unfold State.ctx
  rw [hc]
  decide +kernel
def oDone : LaneOp := { oScratch with done := true }
theorem witness_storePerformed : (st (gStore oDone)).group? theGroup = some (gStore oDone) ∧
    (gStore oDone).stq.find? (fun x => x.id == 0) = some (entryOf .store oDone) ∧ (entryOf .store oDone).lanes.all (·.done) = true := by
  decide +kernel

/-! ### Caches, directories, walks -/

def core0 : CoreId := ⟨0, 0⟩
/-- The base state with a change of its core. -/
def cored (h : Core → Core) : State := base.modCore core0 h
def slice0 : SliceId := ⟨0, 0⟩
def inval : RegionInval := { at_ := slice0, base := 0, size := 512, half := 0, halfSize := 256, line := 0, byDie := 0, awaited := [1] }
def regionOf (b : Nat) : RegionEntry := { at_ := slice0, base := b, size := 256, mask := 1, lastFill := 0, lastSplit := 0 }

theorem witness_victim : ((cored fun c => { c with victims := [⟨5, true⟩] }).core core0).victims.any (fun v => v.line == 5) = true := by
  decide +kernel
theorem witness_snoop : base.cores.any (fun k => k.id == core0) = true := by decide +kernel
theorem witness_cxlSnoop : ∃ line, paClass (line * 128) = 1 := ⟨0x80000000000, by decide +kernel⟩
theorem witness_regionInval : ({ base with regionInvals := [inval] } : State).regionInvals.find?
    (fun x => x.base == 0 && x.size == 512 && x.awaited.contains 1) = some inval := by decide +kernel
theorem witness_regionAck : ({ base with regionInvals := [{ inval with awaited := [] }] } : State).regionInvals.find?
    (fun x => x.base == 0 && x.size == 512 && x.awaited.isEmpty) = some { inval with awaited := [] } := by decide +kernel
theorem witness_regionMerge : 256 ≤ 512 ∧ 512 ≤ 65536 ∧ 0 % 512 = 0 ∧ (regionOf 0).at_ = (regionOf 256).at_ ∧ (regionOf 0).size = 512 / 2 ∧
    (regionOf 256).size = 512 / 2 ∧ (regionOf 256).base = 0 + 512 / 2 ∧ 1048576 ≤ cyclesSince 1000000 (regionOf 0).lastSplit ∧
    1048576 ≤ cyclesSince 1000000 (regionOf 256).lastSplit ∧ base.regionInvals = [] := by decide +kernel

/-- A walk of the page of the loaded code, and of the page behind it. -/
def walkOf (page : Nat) (running : Bool) : Walk := { ctx := 0, page := page, running := running }
def codePage : Nat := loadCode / 65536
def walking (page : Nat) : State := { base with walks := [(0, walkOf page true)] }
/-- The first walk of all; and two contexts' walks behind one of context 5, where context 7 comes before context 0. -/
def queued : State := { base with walks := [(0, walkOf codePage false)] }
def walk7 : Walk := { walkOf codePage false with ctx := 7 }
def queued2 : State := { queued with walks := queued.walks ++ [(0, walk7)], lastWalkCtx := [(0, 5)] }
theorem witness_walkStart : (∀ x ∈ queued.walks, x.2.ctx < 128) ∧ queued.lastWalkCtx.find? (fun x => x.1 == 0) = none ∧
    queued.walks.find? (fun x => x.1 == 0 && !x.2.running && x.2.ctx == 0) = some (0, walkOf codePage false) ∧
    (∀ x ∈ queued.walks, turn 127 0 ≤ turn 127 x.2.ctx) ∧ (∀ x ∈ queued2.walks, x.2.ctx < 128) ∧
    queued2.lastWalkCtx.find? (fun x => x.1 == 0) = some (0, 5) ∧
    queued2.walks.find? (fun x => x.1 == 0 && !x.2.running && x.2.ctx == 7) = some (0, walk7) ∧
    ∀ x ∈ queued2.walks, turn 5 7 ≤ turn 5 x.2.ctx := by decide +kernel
theorem witness_walkLeaf : ∃ level va e t, (walking codePage).walks.find? (fun y => y.1 == 0 && y.2.ctx == 0 && y.2.page == codePage && y.2.running) =
      some (0, walkOf codePage true) ∧
    walk { walking codePage with walks := (walking codePage).walks.filter fun y => !(y == (0, walkOf codePage true)) } (some 0) 0
      (codePage * 65536) = (.leaf level va e, t) := by
  have h : (match walk { walking codePage with walks := (walking codePage).walks.filter fun y => !(y == (0, walkOf codePage true)) } (some 0) 0
      (codePage * 65536) with
    | (.leaf _ _ _, _) => true
    | _ => false) = true := by decide +kernel
  split at h
  · rename_i level va e t hw
    exact ⟨level, va, e, t, by decide +kernel, hw⟩
  · cases h
theorem witness_walkFault : ∃ t, (walking (codePage + 1)).walks.find?
      (fun y => y.1 == 0 && y.2.ctx == 0 && y.2.page == codePage + 1 && y.2.running) = some (0, walkOf (codePage + 1) true) ∧
    walk { walking (codePage + 1) with walks := (walking (codePage + 1)).walks.filter fun y => !(y == (0, walkOf (codePage + 1) true)) }
      (some 0) 0 ((codePage + 1) * 65536) = (.fault fcNotMapped, t) ∧ fcNotMapped ≠ fcMalformed ∧ fcNotMapped ≠ fcKeyMismatch := by
  have h : (match walk { walking (codePage + 1) with
      walks := (walking (codePage + 1)).walks.filter fun y => !(y == (0, walkOf (codePage + 1) true)) } (some 0) 0 ((codePage + 1) * 65536) with
    | (.fault c, _) => c == fcNotMapped
    | _ => false) = true := by decide +kernel
  split at h
  · rename_i c t hw
    rw [beq_iff_eq] at h
    subst h
    exact ⟨t, by decide +kernel, hw, by decide +kernel⟩
  · cases h

/-- An access has met a page that is not resident. -/
def fwOf (code : Nat) (chan : Option Nat) : FwFault :=
  { code := code, g := theGroup, ctx := 0, va := loadCode + 65536, since := 0, expired := false, taken := false, chan := chan }
def absent : State :=
  let s := cored fun c => { c with fw := [fwOf fcNotResident none] }
  { s with mem := s.mem.writeNat (loadTable0 + 8 * levelIndex 0 (loadCode + 65536)) 8 6 }
theorem witness_resident : (absent.core core0).serving = some (fwOf fcNotResident none) ∧ (absent.ctx 0).en = true ∧
    (stallOver absent core0 (fwOf fcNotResident none) []).readWord 0
      (walkEnd (stallOver absent core0 (fwOf fcNotResident none) []) 0 (loadCode + 65536) 3
        ((stallOver absent core0 (fwOf fcNotResident none) []).ctx 0).root).2 &&& 7 = 6 := by decide +kernel
theorem witness_faultlimit : (absent.core core0).serving = some (fwOf fcNotResident none) ∧
    (fwOf fcNotResident none).since + ((absent.modCtx 0 fun c => { c with faultLimit := 0 }).ctx 0).faultLimit * 1000 ≤ absent.time := by
  decide +kernel

theorem witness_poolProd : (0 : Nat) < Config.numContexts ∧ base.served = true := by decide +kernel

/-! ### Copies, queues, phases, barriers, matrix -/

/-- A copy of four words from the scratchpad to the scratchpad. -/
def job : CopyJob := copyJob { a := 0, b := 0, c := 0, d := 2 } 0 0 0 0xFF000000000040 0xFF000000000080 0 4 0
/-- The copy engine asks for it. -/
def whoCopy : Who := { who0 with chan := some 1 }
def gCopy : Group := { g0 with chans := modAt g0.chans 1 fun c => { c with jobs := [job] }, cpq := [.copy 0], ord := 1 }
theorem witness_copies : Copies (st gCopy) theGroup 1 (wOf gCopy) gCopy l0 whoCopy job ∧ (st gCopy).noteElem whoCopy l0 job = st gCopy ∧
    ((st gCopy).ctx (wOf gCopy).ctx).raced = false := by unfold Copies; decide +kernel
theorem witness_copy : ∃ v t u, v < 2 ^ 64 ∧
    elemRead whoCopy l0 job (job.srcVa job.next).toNat (elemRuns (job.srcVa job.next).toNat job.esize) (st gCopy) = .ok v t ∧
    (t.ctx (wOf gCopy).ctx).raced = false ∧
    elemWrite whoCopy l0 job (job.dstVa job.next).toNat v (elemRuns (job.dstVa job.next).toNat job.esize) t = .ok 0 u := by
  have h : (match elemRead whoCopy l0 job (job.srcVa job.next).toNat (elemRuns (job.srcVa job.next).toNat job.esize) (st gCopy) with
    | .ok v t => decide (v < 2 ^ 64) && !(t.ctx (wOf gCopy).ctx).raced &&
        match elemWrite whoCopy l0 job (job.dstVa job.next).toNat v (elemRuns (job.dstVa job.next).toNat job.esize) t with
        | .ok 0 _ => true
        | _ => false
    | _ => false) = true := by decide +kernel
  split at h
  · rename_i v t hr
    simp only [Bool.and_eq_true, decide_eq_true_eq, Bool.not_eq_true'] at h
    obtain ⟨⟨h1, h2⟩, h3⟩ := h
    split at h3
    · rename_i u hw
      exact ⟨v, t, u, h1, hr, h2, hw⟩
    · cases h3
  · cases h
def stalled : State := (st gCopy).modCore core0 fun c => { c with fw := [fwOf fcNotResident (some 1)] }
theorem witness_takeover : stalled.copyAt theGroup 1 = some (wOf gCopy, gCopy, l0, whoCopy, job) ∧
    (stalled.core core0).fw.find? (fun x => x.g == theGroup && x.chan == some 1 && !x.expired && !x.taken) =
      some (fwOf fcNotResident (some 1)) := by decide +kernel

def pushOp : QOp := { id := 0, kind := .push, name := 0, handle := 9, lanes := 0xFF, arrived := false, done := false, popped := false }
def gQueue : Group := { g0 with q0q := [pushOp], ord := 1 }
theorem witness_queueArrives : gQueue.q0q.find? (fun x => !x.arrived) = some pushOp ∧ (wOf gQueue).out = false ∧
    gQueue.performedBefore pushOp.id = true ∧ (st gQueue).wg? 0 = some (wOf gQueue) ∧ (st gQueue).group? theGroup = some gQueue := by
  decide +kernel
theorem witness_phaseOpen : (maskCores ((1 : W64).toNat % 16777216)).map
    (fun c => ((st (gWaits (.xeOpen 1))).opener (wOf (gWaits (.xeOpen 1))) 1 c theGroup).map (c, ·)) = [(0, theGroup)].map some ∧
    (st (gWaits (.xeOpen 1))).openValid (wOf (gWaits (.xeOpen 1))) ((1 : W64).toNat % 16777216) = true := by decide +kernel
theorem witness_brokenPhase : (wOf (gWaits (.xeOpen 0))).core.core < 24 ∧ (st (gWaits (.xeOpen 0))).phaseOn core0 = false ∧
    (st (gWaits (.xeOpen 0))).openValid (wOf (gWaits (.xeOpen 0))) ((0 : W64).toNat % 16777216) = false := by decide +kernel
def gOld : Group := { g0 with phase := some (5, 65536) }
def phaseOld : Phase := { pid := 5, die := 0, mask := 1, members := [(0, theGroup)], sends := [], closed := [], broken := false }
theorem witness_phaseTimeout : (st gOld).group? theGroup = some gOld ∧ gOld.phase = some (5, 65536) ∧
    ({ st gOld with phases := [phaseOld] } : State).phase? 5 = some phaseOld ∧ 65536 ≤ 65536 ∧ phaseOld.broken = false := by decide +kernel
def gArrives : Group := { gWaits (.barArrive false 0 true 0) with ord := 1 }
theorem witness_arrival : (st gArrives).barAt theGroup false = some (.wg 0) ∧ ((st gArrives).bars (.wg 0))[0]? = some barrier2 ∧
    barrier2.valid = true ∧ barrier2.rem ≠ 0 ∧ (wOf gArrives).out = false ∧ gArrives.performedBefore 0 = true := by
  decide +kernel

/-- A sealed command at the head of the nest. -/
def commandSlot : NSlot :=
  { st := .running, words := (0x66 : W32) :: (7 : W32) :: List.replicate 49 0, seq := 1, tag := 3, byGroup := 0, ord := 0, pc := 0, order := 0 }
def wMx (active : Bool) (steps : Nat) : Workgroup :=
  { w0 with nest := { w0.nest with slots := [commandSlot, NSlot.zero .opened], active := active, steps := steps, cmdSeq := 1 } }
def stMx (active : Bool) (steps : Nat) : State := { base with wgs := [wMx active steps] }
/-- RUNNING, or READY with nothing before it. -/
def readySlot : NSlot := { commandSlot with st := .ready }
def wReady : Workgroup := { wMx false 0 with nest := { (wMx false 0).nest with slots := [readySlot, NSlot.zero .opened] } }
theorem witness_mxStart : (stMx false 0).wg? 0 = some (wMx false 0) ∧ (wMx false 0).nest.running = some commandSlot ∧ (wMx false 0).out = false ∧
    (wMx false 0).retired = false ∧ (stMx false 0).mxOf core0 = none ∧ (stMx false 0).wgs = [wMx false 0] ∧
    (wMx false 0).group? 0 = some g0 ∧ g0.performedBefore 0 = true ∧ wReady.nest.running = none ∧ wReady.nest.readied = some readySlot ∧
    wReady.preempt = false := by decide +kernel
/-- An allocation of 64 KiB, which the step's rows lie in. -/
def wStep : Workgroup := { wMx true 0 with scratchSize := 65536 }
def stepping : State := { base with wgs := [wStep] }
theorem witness_mxSteps : MxSteps stepping core0 wStep commandSlot (.ints true true) := by
  refine ⟨?_, ?_, ?_, ?_, ?_, ?_, ?_, ?_, ?_⟩ <;> decide +kernel
def goes {ε α : Type} : Except ε α → Bool
  | .ok _ => true
  | .error _ => false
theorem goes_of {ε α : Type} {x : Except ε α} (h : goes x = true) : ∃ y, x = .ok y := by
  cases x with
  | ok y => exact ⟨y, rfl⟩
  | error e => cases h
theorem fails_of {ε α : Type} {x : Except ε α} (h : goes x = false) : ∃ e, x = .error e := by
  cases x with
  | ok y => cases h
  | error e => exact ⟨e, rfl⟩
def idx0 : List Nat := stepIdx commandSlot.words 0
theorem witness_mxStep : (∃ x, stepping.stepRead wStep commandSlot.words idx0 (.ints true true) = .ok x) ∧ wStep.accUe 0 = none ∧
    stepWindow commandSlot.words idx0 = 0 ∧ drainsAfter commandSlot.words idx0 true = false := ⟨goes_of (by decide +kernel), by decide +kernel⟩
/-- A command that drains after its last step. -/
def drainSlot : NSlot := { commandSlot with words := (0x66 : W32) :: (6 : W32) :: List.replicate 49 0 }
def wDrain : Workgroup := { wStep with nest := { wStep.nest with slots := [drainSlot, NSlot.zero .opened] } }
def draining : State := { base with wgs := [wDrain] }
theorem witness_mxDrain : MxSteps draining core0 wDrain drainSlot (.ints true true) ∧
    (∃ x, draining.stepRead wDrain drainSlot.words idx0 (.ints true true) = .ok x) ∧ wDrain.accUe 0 = none ∧
    stepIdx drainSlot.words wDrain.nest.steps = idx0 ∧ stepWindow drainSlot.words idx0 = 0 ∧
    drainsAfter drainSlot.words idx0 (wDrain.nest.steps + 1 == stepCount drainSlot.words) = true := by
  refine ⟨⟨?_, ?_, ?_, ?_, ?_, ?_, ?_, ?_, ?_⟩, goes_of ?_, ?_⟩ <;> decide +kernel
theorem witness_drainRow : (∃ outs, (rows128 fun j => draining.drainElem wDrain drainSlot.words (.ints true true) 0 0 0 j 0) = .ok outs) ∧
    ∃ p, draining.mxPlace wDrain (cw drainSlot.words 10) (cf drainSlot.words 11 16 4) (0 + (0 * cf drainSlot.words 11 0 16 +
      0 * ofmtBytes (cf drainSlot.words 11 20 4) : Nat)) (ofmtBytes (cf drainSlot.words 11 20 4)) 5 0 0 = .ok p :=
  ⟨goes_of (by decide +kernel), goes_of (by decide +kernel)⟩
/-- An allocation of no bytes, which the rows lie beyond; and a window with a bad element. -/
def wBound : Workgroup := { wMx true 0 with scratchSize := 0 }
def bounded : State := { base with wgs := [wBound] }
def wBad : Workgroup := { wStep with accumBad := [5] }
def badWindow : State := { base with wgs := [wBad] }
theorem witness_mxStepFault : MxSteps bounded core0 wBound commandSlot (.ints true true) ∧
    (∃ e, bounded.stepRead wBound commandSlot.words idx0 (.ints true true) = .error e) ∧
    MxSteps badWindow core0 wBad commandSlot (.ints true true) ∧
    (∃ x, badWindow.stepRead wBad commandSlot.words idx0 (.ints true true) = .ok x) ∧ wBad.accUe 0 = some (0, 5) := by
  refine ⟨⟨?_, ?_, ?_, ?_, ?_, ?_, ?_, ?_, ?_⟩, fails_of ?_, ⟨?_, ?_, ?_, ?_, ?_, ?_, ?_, ?_, ?_⟩, goes_of ?_, ?_⟩ <;> decide +kernel
/-- The rows of a step. -/
theorem witness_stepValue : (⟨[0x01020304], [5], [0x60], [0x61]⟩ : StepIn).a[0]? = some 0x01020304 := rfl
theorem witness_mxComplete : (stMx true 1).mxOf core0 = some (wMx true 1) ∧ (wMx true 1).nest.running = some commandSlot ∧
    stepCount commandSlot.words ≤ (wMx true 1).nest.steps ∧ cyclesSince (stMx true 1).clock (wMx true 1).nest.began < 4194304 := by
  decide +kernel
theorem witness_mxOvertime : ({ stMx true 0 with clock := 3000000 } : State).mxOf core0 = some (wMx true 0) ∧
    (wMx true 0).nest.running = some commandSlot ∧ 4194304 ≤ cyclesSince 3000000 (wMx true 0).nest.began := by decide +kernel
theorem witness_bankZeroed : ({ w0 with nest := { w0.nest with zeroing := [0] } } : Workgroup).nest.zeroing.contains 0 = true := by decide +kernel

end Sys2Proof.Tests
end

