-- ==== Sys2Proof/Tests/WitDevice.lean ====
section
/-!
SUPPORT. WitDevice: for every rule about Charon, streams, launches, workgroups and transactions that has a premise, a state that
meets it.
-/

set_option Elab.async false

namespace Sys2Proof.Tests

open Sys2Proof.Machine Sys2Proof.Claims

/-! ### Charon -/

def partial0 : Part := base.part 8
def parted (h : Part → Part) : State := base.modPart 8 h
def late : State := { base with clock := 2 ^ 25 }

theorem witness_epoch : (late.epoch + 1) * 2 ^ 20 ≤ late.clock * 3 / 2 := by decide +kernel
theorem witness_epochEarly : base.clock * 3 / 2 < (base.epoch + 1) * 2 ^ 20 := by decide +kernel
theorem witness_fill : ((parted fun p => { p with st := .readDup, filling := [(1, 7)] }).part 8).filling = [(1, 7)] ∧
    ((parted fun p => { p with st := .readDup, filling := [(1, 7)] }).part 8).st = .readDup := by decide +kernel
theorem witness_exchange : ((parted fun p => { p with st := .migrating, partner := some 9 }).part 8).partner = some 9 ∧
    ((parted fun p => { p with st := .migrating, partner := some 9 }).part 8).st = .migrating ∧
    (parted fun p => { p with st := .migrating, partner := some 9 }).mergedPart 8 = false ∧
    (parted fun p => { p with st := .migrating, partner := some 9 }).mergedPart 9 = false := by decide +kernel
theorem witness_collapseRequest : ((parted fun p => { p with st := .readDup, copies := [(1, 7)], requested := true }).part 8).requested = true ∧
    ((parted fun p => { p with st := .readDup, copies := [(1, 7)], requested := true }).part 8).st = .readDup ∧
    (parted fun p => { p with st := .readDup, copies := [(1, 7)], requested := true }).mergedPart 8 = false := by decide +kernel
theorem witness_collapseInvalidation : ((parted fun p => { p with st := .collapsing, copies := [(1, 7)], awaited := [1] }).part 8).st = .collapsing ∧
    1 ∈ ((parted fun p => { p with st := .collapsing, copies := [(1, 7)], awaited := [1] }).part 8).awaited := by decide +kernel
theorem witness_collapseAck : ((parted fun p => { p with st := .collapsing, copies := [(1, 7)] }).part 8).st = .collapsing ∧
    ((parted fun p => { p with st := .collapsing, copies := [(1, 7)] }).part 8).awaited = [] := by decide +kernel
/-- A 2 MiB page that allows read duplication, of a unit that is split. -/
def quiet : State :=
  { late with leafWalks := [{ ctx := 0, base := 0, count := 32, epoch := 0, order := 1, pm := .auto, pd := 0, rd := true }] }.modUnit 0 fun u =>
    { u with split := true, lastWrite := 0 }
theorem witness_merge : quiet.largeUnit 0 = true ∧ (quiet.unit 0).split = true ∧ 2 ^ 24 ≤ (quiet.clock - (quiet.unit 0).lastWrite) * 3 / 2 ∧
    ∀ p, p / 32 = 0 → quiet.rdAllowed p = true ∧ quiet.committedHere p = false ∧ quiet.counterHere p = false ∧ (quiet.part p).st = .single ∧
      (quiet.part p).copies = [] ∧ (quiet.part p).filling = [] := by
  have h : ∀ p, p < 32 → quiet.rdAllowed p = true ∧ quiet.committedHere p = false ∧ quiet.counterHere p = false ∧ (quiet.part p).st = .single ∧
      (quiet.part p).copies = [] ∧ (quiet.part p).filling = [] := by decide +kernel
  have h0 : quiet.largeUnit 0 = true ∧ (quiet.unit 0).split = true ∧ 2 ^ 24 ≤ (quiet.clock - (quiet.unit 0).lastWrite) * 3 / 2 := by decide +kernel
  exact ⟨h0.1, h0.2.1, h0.2.2, fun p hp => h p (by omega)⟩

/-! ### Streams and launches -/

/-- Stream 3, and its head record. -/
def streamed (h : Stream → Stream) : State := base.modStrm 3 h
def txRec : LaunchRec := { loadRecord with ntxn := false }
def headOf (r : LaunchRec) : Head := { lrec := r, hdr := loadHeader 64, prev := none }
def headed (r : LaunchRec) : State := streamed fun x => { x with en := true, st := .active, head := some (headOf r) }
def armedRec : LaunchRec := { txRec with armed := true, armAddr := 0xFC000000000000, armVal := 0 }

theorem witness_served : base.served = true := by decide +kernel
theorem witness_streams : (3 < Config.numStreams ∧ (base.strm 3).rearmed = false ∧ (base.strm 3).en = false ∧ (base.strm 3).st ≠ .halted) ∧
    ((streamed fun x => { x with en := true, st := .halted }).strm 3).st = .halted := by decide +kernel
/-- A stream whose ring is misplaced reads its head and halts. -/
theorem witness_advance : ∃ t, (streamed fun x => { x with en := true, ringLog2 := 3 }).readHead 3 = some t :=
  Option.isSome_iff_exists.1 (by decide +kernel)
theorem witness_start : (headed txRec).requeued 3 = none ∧ ((headed txRec).strm 3).head = some (headOf txRec) ∧ (headOf txRec).lrec.armed = false ∧
    (headed txRec).headReady ((headed txRec).strm 3) (headOf txRec) = true := by decide +kernel
theorem witness_started : ((headed txRec).strm 3).head = some (headOf txRec) ∧ (headOf txRec).lrec.ntxn = false ∧
    (headOf txRec).lrec.rearm = false ∧ ∀ l ∈ ({ headed txRec with nextLid := 1 } : State).launches,
      l.lid < ({ headed txRec with nextLid := 1 } : State).nextLid := by decide +kernel
def lTx (p : LPhase) : Launch := { l0 with lrec := { l0.lrec with ntxn := false }, phase := p }
def launched (l : Launch) : State := { base with launches := [l], wgs := [] }
theorem witness_requeued : (launched (lTx .queued)).requeued 0 = some (lTx .queued) := by decide +kernel
theorem witness_fire : ∃ pa, ((headed armedRec).strm 3).head = some (headOf armedRec) ∧ (headOf armedRec).lrec.armed = true ∧
    (headOf armedRec).lrec.consume = false ∧ (headed armedRec).headReady ((headed armedRec).strm 3) (headOf armedRec) = true ∧
    (headed armedRec).frontWord ((headed armedRec).strm 3).ctx (headOf armedRec).lrec.armAddr = some (0, pa) ∧
    (wakeCmpOf (headOf armedRec).lrec.armCmp).holds 0 (headOf armedRec).lrec.armVal = true := ⟨0x30000, by decide +kernel⟩
theorem witness_notFired : ∃ pa, (headed { armedRec with armCmp := 1 }).frontWord ((headed { armedRec with armCmp := 1 }).strm 3).ctx
      (headOf { armedRec with armCmp := 1 }).lrec.armAddr = some (0, pa) ∧
    (headed { armedRec with armCmp := 1 }).headReady ((headed { armedRec with armCmp := 1 }).strm 3) (headOf { armedRec with armCmp := 1 }) = true ∧
    (wakeCmpOf (headOf { armedRec with armCmp := 1 }).lrec.armCmp).holds 0 (headOf { armedRec with armCmp := 1 }).lrec.armVal = false :=
  ⟨0x30000, by decide +kernel⟩
def waitRec : LaunchRec := { txRec with waitKind := 2, waitStream := 4, waitSeq := 9 }
theorem witness_dependence : ((headed waitRec).modStrm 4 fun x => { x with statuses := [(9, 0x11)], rdIdx := 10 }).finalStatus 4 9 = some 0x11 ∧
    ((headed waitRec).strm 3).head = some (headOf waitRec) ∧ (headOf waitRec).lrec.waitKind = 2 ∧ ((headed waitRec).strm 3).en = true ∧
    ((headed waitRec).strm 3).st = .active ∧ (headOf waitRec).prev = none ∧
    (headOf waitRec).lrec.rearm = false := by decide +kernel
/-- An armed record that consumes its word. -/
def consumeRec : LaunchRec := { armedRec with consume := true }
def consuming : State := headed consumeRec
/-- The own store of a 0 to its word, behind the A and M bits. -/
def consumed : PerfRes :=
  (consuming.setAM ioDie (consuming.strm 3).ctx (headOf consumeRec).lrec.armAddr.toNat true).ownStore (consuming.strm 3).ctx 0x30000
    (consuming.frontC (consuming.strm 3).ctx (headOf consumeRec).lrec.armAddr) 0
theorem witness_fireConsume : ∃ t, (consuming.strm 3).head = some (headOf consumeRec) ∧ (headOf consumeRec).lrec.armed = true ∧
    (headOf consumeRec).lrec.consume = true ∧ consuming.headReady (consuming.strm 3) (headOf consumeRec) = true ∧
    consuming.frontWord (consuming.strm 3).ctx (headOf consumeRec).lrec.armAddr = some (0, 0x30000) ∧
    (wakeCmpOf (headOf consumeRec).lrec.armCmp).holds 0 (headOf consumeRec).lrec.armVal = true ∧
    consumed = .done 0 0 false false t ∧ t.strm 3 = consuming.strm 3 := by
  have h : (match consumed with
    | .done 0 v false false t => v == 0 && t.strm 3 == consuming.strm 3
    | _ => false) = true := by decide +kernel
  split at h
  · rename_i v t ht
    simp only [Bool.and_eq_true, beq_iff_eq] at h
    obtain ⟨rfl, h2⟩ := h
    exact ⟨t, by decide +kernel, by decide +kernel, by decide +kernel, by decide +kernel, by decide +kernel, by decide +kernel, ht, h2⟩
  · cases h

/-! ### Rings and records -/

/-- Words from an address up. -/
def putWords (m : Memory) (a : Nat) (ws : List Nat) : Memory :=
  ((List.range ws.length).zip ws).foldl (fun m (i, v) => if v = 0 then m else m.writeNat (a + 8 * i) 8 v) m
/-- A record of one workgroup of one group, its code, arguments and completion word at 0x2000 of the code window, 0x3000 and 0x4000. -/
def goodRec : List Nat :=
  [0x0100000000010001, 0, 0x0000002000001000, 0x0001000100000001, 0xFC000000002000, 0, 0x3000, 0x4000, 0, 0, 0, 0, 0, 0, 0, 0]
/-- A code header with 64 bytes of text, and the device's code hash. -/
def goodHdr : List Nat := [0x0000004000000001, 0x6F1D2A930C45B7E8, 0x91A03C5ED7224B16, 128] ++ List.replicate 12 0
/-- An argument block with one affinity entry. -/
def goodArgs : List Nat := [1, 0, 0x5000, 4096]
/-- 2 MiB of data from address 0, with a ring at 0x1000, read index 0, and the write index at 0x800. -/
def ringAt (wr : Nat) (ws hs as : List Nat) : State :=
  let tables := ((base.mem.writeNat loadRoot 8 0x200001).writeNat 0x200000 8 0x244001).writeNat 0x244000 8 0x40602B
  let s := streamed fun x => { x with en := true, ringLog2 := 4, ringVa := 0x1000, wridxVa := 0x800, rdIdx := 0 }
  { s with mem := putWords (putWords (putWords (tables.writeNat 0x400800 8 wr) 0x401000 ws) 0x32000 hs) 0x403000 as }
def goodRing : State := ringAt 1 goodRec goodHdr goodArgs

theorem looking : Looking goodRing 3 ∧ Placed (goodRing.strm 3) ∧ (goodRing.ctx (goodRing.strm 3).ctx).en = true ∧
    Looking (ringAt 0 goodRec goodHdr goodArgs) 3 ∧ Placed ((ringAt 0 goodRec goodHdr goodArgs).strm 3) := by
  refine ⟨⟨?_, ?_, ?_, ?_⟩, ⟨?_, ?_, ?_⟩, ?_, ⟨?_, ?_, ?_, ?_⟩, ⟨?_, ?_, ?_⟩⟩ <;> decide +kernel
theorem witness_ring : Looking (streamed fun x => { x with en := true, ringLog2 := 3 }) 3 ∧
    ¬Placed ((streamed fun x => { x with en := true, ringLog2 := 3 }).strm 3) ∧
    Looking (goodRing.modCtx 0 fun c => { c with en := false }) 3 ∧ Placed ((goodRing.modCtx 0 fun c => { c with en := false }).strm 3) ∧
    ((goodRing.modCtx 0 fun c => { c with en := false }).ctx ((goodRing.modCtx 0 fun c => { c with en := false }).strm 3).ctx).en = false := by
  refine ⟨⟨?_, ?_, ?_, ?_⟩, ?_, ⟨?_, ?_, ?_, ?_⟩, ⟨?_, ?_, ?_⟩, ?_⟩
  all_goals first | (unfold Placed; decide +kernel) | decide +kernel

/-- What a stream reads of its write index, and what its head record's check answers. -/
def headB (s : State) (p : Nat → State → Bool) : Bool :=
  match s.frontLeaf 0 0x800 false with
  | .ok (l, u) => !u.unreleased (l.pa 0x800) 8 && !u.readHeld none (l.pa 0x800) &&
      p (fld (w64 (bytesNat (u.readPhys none 0 (l.pa 0x800) 8))) 0 32) u
  | .error _ => false
theorem headB_of {s : State} {p : Nat → State → Bool} (hc : (s.strm 3).ctx = 0) (hw : (s.strm 3).wridxVa = 0x800) (h : headB s p = true) :
    ∃ w u, IndexIs s 3 w u ∧ p w u = true := by
  unfold headB at h
  split at h
  · rename_i l u hl
    simp only [Bool.and_eq_true, Bool.not_eq_true'] at h
    refine ⟨_, u, ⟨l, ?_, ?_, ?_, ?_⟩, h.2⟩
    · rw [hc, hw]; exact hl
    · rw [hw]; exact h.1.1
    · rw [hw]; exact h.1.2
    · rw [hc, hw]; rfl
  · cases h
def refusedWith (e : Refuse) (x : Except FrontStop (Head × State)) : Bool :=
  match x with
  | .error (.refuse f) => f == e
  | _ => false
def passedCheck (x : Except FrontStop (Head × State)) : Bool :=
  match x with
  | .ok _ => true
  | .error _ => false
/-- The index equals RDIDX; it differs and the record passes; it differs and the record is refused. -/
theorem witness_head : (∃ w u, IndexIs (ringAt 0 goodRec goodHdr goodArgs) 3 w u ∧ (w == 0) = true) ∧
    (∃ w u, IndexIs goodRing 3 w u ∧ (w == 1 && passedCheck (u.checkRecord 0 0x1000)) = true) ∧
    ∃ w u, IndexIs (ringAt 1 (2 :: goodRec.tail) goodHdr goodArgs) 3 w u ∧ (w == 1 && refusedWith .format (u.checkRecord 0 0x1000)) = true :=
  ⟨headB_of (p := fun w _ => w == 0) (by decide +kernel) (by decide +kernel) (by decide +kernel),
   headB_of (p := fun w u => w == 1 && passedCheck (u.checkRecord 0 0x1000)) (by decide +kernel) (by decide +kernel) (by decide +kernel),
   headB_of (p := fun w u => w == 1 && refusedWith .format (u.checkRecord 0 0x1000)) (by decide +kernel) (by decide +kernel) (by decide +kernel)⟩

/-- The state with other notes of leaf walks. -/
def noted (s : State) (x : List LeafWalk × Nat) : State := { s with leafWalks := x.1, walkCount := x.2 }
/-- The walk of an address finds this leaf. -/
def leafAt (s : State) (ctx : Nat) (l : Leaf) (va : Nat) : Bool :=
  match walk s none ctx va with
  | (.fault _, _) => false
  | (.leaf level _ e, _) => level == l.level && e == l.e
/-- A word that the front end reads under a leaf without changing more than those notes: the leaf allows the read and shows A. -/
def plainWord (s : State) (ctx : Nat) (l : Leaf) (va : Nat) : Option W64 :=
  if !isHole va && (bits va 48 8 ≤ 0xEF || bits va 48 8 == 0xFC) && (s.leafFault ctx l va .load).isNone && (l.e ||| 0x2000) == l.e then
    some (w64 (bytesNat (s.readPhys none ctx (l.pa va) 8)))
  else none
/-- Do two addresses take the same entries of the tables? -/
def sameEntries (va vb : Nat) : Bool := (List.range 4).all fun k => levelIndex k va == levelIndex k vb
/-- Do the words from an address up read as these, under the leaf of an address of the same page? -/
def readsFrom (s : State) (ctx : Nat) (l : Leaf) (vb : Nat) : (va : Nat) → List Nat → Bool
  | _, [] => true
  | va, w :: ws => sameEntries va vb && plainWord s ctx l va == some (w64 w) && readsFrom s ctx l vb (va + 8) ws
def readsAs (s : State) (ctx : Nat) (l : Leaf) (va : Nat) (ws : List Nat) : Bool := leafAt s ctx l va && readsFrom s ctx l va va ws
theorem walkFrom_same {va vb : Nat} (h : sameEntries va vb = true) (s : State) (ctx : Nat) : ∀ k ≤ 3, ∀ t,
    (walkFrom s none ctx va k t).1 = (walkFrom s none ctx vb k t).1 := by
  have hl : ∀ k ≤ 3, levelIndex k va = levelIndex k vb := by
    intro k hk
    simpa using List.all_eq_true.1 h k (List.mem_range.2 (by omega))
  intro k
  induction k with
  | zero => intro hk t; simp only [walkFrom, hl 0 hk]
  | succ k ih =>
    intro hk t
    simp only [walkFrom, hl _ hk, State.countWalk, Option.bind_none, Option.getD_none, Option.isSome_none]
    split
    · rfl
    · rfl
    · exact ih (by omega) _
theorem walk_same {va vb : Nat} (h : sameEntries va vb = true) (s : State) (ctx : Nat) :
    (walk s none ctx va).1 = (walk s none ctx vb).1 := by
  simp only [walk]
  split
  · rfl
  · split
    · rfl
    · exact walkFrom_same h s ctx 3 (Nat.le_refl _) _
theorem leafAt_same {s : State} {ctx : Nat} {l : Leaf} {va vb : Nat} (h : sameEntries va vb = true) (hl : leafAt s ctx l vb = true) :
    ∃ epa, (walk s none ctx va).1 = .leaf l.level epa l.e := by
  rw [walk_same h]
  unfold leafAt at hl
  split at hl
  · cases hl
  rename_i level epa e t hw
  simp only [Bool.and_eq_true, beq_iff_eq] at hl
  exact ⟨epa, by rw [hw, hl.1, hl.2]⟩
def note (s : State) (ctx : Nat) (x : List LeafWalk × Nat) (l : Leaf) : List LeafWalk × Nat :=
  (((noted s x).learnLeaf ctx l).leafWalks, ((noted s x).learnLeaf ctx l).walkCount)

/-- No part has a record, no page an overlay, and no unit is held as stored bits or under a key. -/
structure Untouched (s : State) : Prop where
  parts : s.parts = []
  overlays : s.overlays = []
  raw : s.rawUnits = []
  keys : s.unitKeys = []

theorem readPhys_noted {s : State} (hu : Untouched s) (x : List LeafWalk × Nat) (own : Option Nat) (ctx pa n : Nat) :
    (noted s x).readPhys own ctx pa n = s.readPhys own ctx pa n := by
  induction n generalizing pa with
  | zero => rfl
  | succ n ih =>
    have h : ∀ p, (noted s x).plainByte ctx p = s.plainByte ctx p := by
      intro p
      simp [State.plainByte, State.sealedFor, noted, hu.raw, hu.keys]
    simp only [State.readPhys, State.readByte, ih, h]
    rfl
theorem walkFrom_noted {s : State} (hu : Untouched s) (x : List LeafWalk × Nat) (ctx va : Nat) (level table : Nat) :
    walkFrom (noted s x) none ctx va level table = ((walkFrom s none ctx va level table).1, noted s x) := by
  induction level generalizing table with
  | zero =>
    simp only [walkFrom, State.countWalk, State.readWord, readPhys_noted hu]
    split <;> rfl
  | succ k ih =>
    simp only [walkFrom, State.countWalk, State.readWord, readPhys_noted hu, Option.bind_none, Option.getD_none, Option.isSome_none]
    split
    · rfl
    · rfl
    · exact ih _
theorem walk_noted {s : State} (hu : Untouched s) (x : List LeafWalk × Nat) (ctx va : Nat) :
    walk (noted s x) none ctx va = ((walk s none ctx va).1, noted s x) := by
  have h : (noted s x).ctx ctx = s.ctx ctx := rfl
  simp only [walk, h]
  split
  · rfl
  · split
    · rfl
    · exact walkFrom_noted hu ..
theorem learnLeaf_noted {s : State} (hu : Untouched s) (ctx : Nat) (l : Leaf) (x : List LeafWalk × Nat) :
    (noted s x).learnLeaf ctx l = noted s (note s ctx x l) := by
  have h : (noted s x).parts = [] := hu.parts
  simp only [note]
  generalize ht : (noted s x).learnLeaf ctx l = t
  simp only [State.learnLeaf, h, List.filter_nil, List.map_nil, show dedup ([] : List Nat) = [] from rfl, ite_self, List.foldl_nil] at ht
  split at ht
  · subst ht; rfl
  · rw [← hu.parts] at ht
    split at ht <;> (subst ht; rfl)
/-- The state's notes, and those after n words under a leaf. -/
def startNotes (s : State) : List LeafWalk × Nat := (s.leafWalks, s.walkCount)
def afterRead (s : State) (ctx : Nat) (l : Leaf) : Nat → List LeafWalk × Nat → List LeafWalk × Nat
  | 0, x => x
  | n + 1, x => afterRead s ctx l n (note s ctx x l)
theorem noted_start (s : State) : noted s (startNotes s) = s := rfl
/-- Such words are read, and the state changes in no more than those notes. -/
theorem frontWords_readsFrom {s : State} (hu : Untouched s) (ctx : Nat) (l : Leaf) {vb : Nat} (hl : leafAt s ctx l vb = true) :
    ∀ (ws : List Nat) (va : Nat) (x : List LeafWalk × Nat), readsFrom s ctx l vb va ws = true →
    State.frontWords ctx ws.length va (noted s x) = .ok (ws.map w64, noted s (afterRead s ctx l ws.length x)) := by
  intro ws
  induction ws with
  | nil => intro va x _; rfl
  | cons w ws ih =>
    intro va x h
    simp only [readsFrom, Bool.and_eq_true, beq_iff_eq] at h
    obtain ⟨⟨hs, hy⟩, hys⟩ := h
    obtain ⟨epa, hw⟩ := leafAt_same hs hl
    simp only [plainWord] at hy
    split at hy
    · rename_i hc
      simp only [Bool.and_eq_true, Bool.not_eq_true', beq_iff_eq, Option.isNone_iff_eq_none] at hc
      obtain ⟨⟨⟨h1, h2⟩, h3⟩, h4⟩ := hc
      have hf : (noted s x).frontLeaf ctx va false = .ok (l, noted s (note s ctx x l)) := by
        have h6 : (noted s x).leafFault ctx l va .load = none := h3
        have h7 : ∀ z, (noted s z).setAM ioDie ctx va false = noted s z := by
          intro z
          simp only [State.setAM, walk_noted hu, hw, Bool.false_eq_true, if_false, h4, beq_self_eq_true, if_true]
        simp only [State.frontLeaf, h1, walk_noted hu, hw]
        simp only [Bool.false_eq_true, if_false]
        rw [if_neg (by simp [h2])]
        simp only [h6, learnLeaf_noted hu ctx l x, h7]
      have hh : ∀ z pa, (noted s z).readHeld none pa = false := by
        intro z pa
        have : (noted s z).overlays = [] := hu.overlays
        simp [State.readHeld, this]
      simp only [List.length_cons, State.frontWords, hf, hh, Bool.false_eq_true, if_false]
      rw [ih (va + 8) (note s ctx x l) hys]
      simp only [Except.map, readPhys_noted hu, List.map_cons, afterRead, Option.some.inj hy]
    · cases hy
theorem frontWords_readsAs {s : State} (hu : Untouched s) (ctx : Nat) (l : Leaf) (ws : List Nat) (va : Nat) (x : List LeafWalk × Nat)
    (h : readsAs s ctx l va ws = true) :
    State.frontWords ctx ws.length va (noted s x) = .ok (ws.map w64, noted s (afterRead s ctx l ws.length x)) :=
  frontWords_readsFrom hu ctx l (Bool.and_eq_true_iff.1 h).1 ws va x (Bool.and_eq_true_iff.1 h).2
theorem baseUntouched : base.parts = [] ∧ base.overlays = [] ∧ base.rawUnits = [] ∧ base.unitKeys = [] := by decide +kernel
theorem ringUntouched (wr : Nat) (ws hs as : List Nat) : Untouched (ringAt wr ws hs as) :=
  ⟨baseUntouched.1, baseUntouched.2.1, baseUntouched.2.2.1, baseUntouched.2.2.2⟩
/-- The leaves of the data and of the code. -/
def dataLeaf : Leaf := ⟨1, 0x40602B⟩
def codeLeaf : Leaf := ⟨0, loadLeaf⟩
/-- Which of a record's own checks is the first to fail. -/
def ownCheck (ws : List W64) (u : State) : Nat :=
  let r := recordOf ws
  if formatBad ws then 1 else if r.shapeBad then 2 else if r.modeBad then 8 else if r.stale (u.strm r.waitStream).rdIdx then 10
  else if r.codeBad then 4 else 0
def setWord (i v : Nat) (ws : List Nat) : List Nat := ws.set i v
theorem ownCheck_noted (ws : List W64) (s : State) (x : List LeafWalk × Nat) : ownCheck ws (noted s x) = ownCheck ws s := rfl
def records : List (List Nat × Nat) :=
  [(setWord 0 2 goodRec, 1), (setWord 0 0x10001 goodRec, 2), (setWord 0 0x0100000000200001 goodRec, 8),
   (setWord 5 0x200000000 (setWord 8 0xFFFFFF00 goodRec), 10), (setWord 4 0xFC000000002040 goodRec, 4)]
theorem witness_record : ∀ x ∈ records, ∃ ws u, State.frontWords 0 16 0x1000 (ringAt 1 x.1 goodHdr goodArgs) = .ok (ws, u) ∧
    (ownCheck ws u == x.2) = true := by
  have h : (records.all fun x => x.1.length == 16 && readsAs (ringAt 1 x.1 goodHdr goodArgs) 0 dataLeaf 0x1000 x.1 &&
      ownCheck (x.1.map w64) (ringAt 1 x.1 goodHdr goodArgs) == x.2) = true := by decide +kernel
  intro x hx
  have hx' := List.all_eq_true.1 h x hx
  simp only [Bool.and_eq_true, beq_iff_eq] at hx'
  obtain ⟨⟨hl, hr⟩, hc⟩ := hx'
  have hf := frontWords_readsAs (ringUntouched 1 x.1 goodHdr goodArgs) 0 dataLeaf x.1 0x1000 (startNotes (ringAt 1 x.1 goodHdr goodArgs)) hr
  rw [hl, noted_start] at hf
  exact ⟨_, _, hf, by rw [ownCheck_noted]; exact beq_iff_eq.2 hc⟩
/-- Which check behind the code header is the first to fail: CODE 4, HASH 5, ARGS 6, the words 7, FIT 3, or none. -/
def laterCheck (ws : List W64) (hs : List W64) (v : State) : Nat :=
  let r := recordOf ws
  if headerBad r hs then 4 else if (hs[1]?.getD 0, hs[2]?.getD 0) != codeHash v.plat.step then 5 else if r.argsBad then 6
  else match v.readArgs 0 r with
    | .ok (user, aff, t) => match t.wordsOk 0 r with
      | .ok _ => if fits r { headerOf hs with userVa := user, affinity := aff } then 0 else 3
      | .error _ => 7
    | .error _ => 9
def headers : List (List Nat × List Nat × Nat) :=
  [(goodRec, 2 :: goodHdr.tail, 4), (goodRec, setWord 1 5 goodHdr, 5), (setWord 2 0x0000000C00001000 goodRec, goodHdr, 6),
   (setWord 7 0x4004 goodRec, goodHdr, 7), (setWord 2 0x0000002000400000 goodRec, goodHdr, 3), (goodRec, goodHdr, 0)]
/-- The states after the record and after its header have been read. -/
def recRead (s : State) : List LeafWalk × Nat := afterRead s 0 dataLeaf 16 (startNotes s)
def hdrRead (s : State) : State := noted s (afterRead s 0 codeLeaf 16 (recRead s))
theorem witness_header : ∀ x ∈ headers, ∃ ws u hs v, State.frontWords 0 16 0x1000 (ringAt 1 x.1 x.2.1 goodArgs) = .ok (ws, u) ∧
    State.frontWords 0 16 (recordOf ws).code.toNat u = .ok (hs, v) ∧ (ownCheck ws u == 0 && laterCheck ws hs v == x.2.2) = true := by
  have h : (headers.all fun x => x.1.length == 16 && x.2.1.length == 16 && readsAs (ringAt 1 x.1 x.2.1 goodArgs) 0 dataLeaf 0x1000 x.1 &&
      readsAs (ringAt 1 x.1 x.2.1 goodArgs) 0 codeLeaf (recordOf (x.1.map w64)).code.toNat x.2.1 &&
      (ownCheck (x.1.map w64) (ringAt 1 x.1 x.2.1 goodArgs) == 0 &&
        laterCheck (x.1.map w64) (x.2.1.map w64) (hdrRead (ringAt 1 x.1 x.2.1 goodArgs)) == x.2.2)) = true := by decide +kernel
  intro x hx
  have hx' := List.all_eq_true.1 h x hx
  rw [Bool.and_eq_true, Bool.and_eq_true, Bool.and_eq_true, Bool.and_eq_true, beq_iff_eq, beq_iff_eq] at hx'
  obtain ⟨⟨⟨⟨hl, hm⟩, hr⟩, hs⟩, hc⟩ := hx'
  have hu := ringUntouched 1 x.1 x.2.1 goodArgs
  have hf := frontWords_readsAs hu 0 dataLeaf x.1 0x1000 (startNotes (ringAt 1 x.1 x.2.1 goodArgs)) hr
  have hg := frontWords_readsAs hu 0 codeLeaf x.2.1 _ (recRead (ringAt 1 x.1 x.2.1 goodArgs)) hs
  rw [hl, noted_start] at hf
  rw [hm] at hg
  refine ⟨_, _, _, _, hf, hg, ?_⟩
  rw [ownCheck_noted]
  exact hc
/-- Words 0 and 1 of a block and its one entry, as they should be and with a bit of word 1 set. -/
theorem witness_args : ∀ x ∈ [(0 : Nat), 1], ∃ u v, State.frontWords 0 2 0x3000 (ringAt 1 goodRec goodHdr (setWord 1 x goodArgs)) = .ok ([1, w64 x], u) ∧
    State.frontWords 0 2 (0x3000 + 16) u = .ok ([0x5000, 4096], v) := by
  have h : ([(0 : Nat), 1].all fun x => readsAs (ringAt 1 goodRec goodHdr (setWord 1 x goodArgs)) 0 dataLeaf 0x3000 [1, x] &&
    readsAs (ringAt 1 goodRec goodHdr (setWord 1 x goodArgs)) 0 dataLeaf (0x3000 + 16) [0x5000, 4096]) = true := by decide +kernel
  intro x hx
  have hx' := Bool.and_eq_true_iff.1 (List.all_eq_true.1 h x hx)
  have hu := ringUntouched 1 goodRec goodHdr (setWord 1 x goodArgs)
  have hf := frontWords_readsAs hu 0 dataLeaf [1, x] _ (startNotes (ringAt 1 goodRec goodHdr (setWord 1 x goodArgs))) hx'.1
  rw [noted_start] at hf
  exact ⟨_, _, hf, frontWords_readsAs hu 0 dataLeaf [0x5000, 4096] _ _ hx'.2⟩

/-- Stream 3 waits for the page of its ring, behind a tier stub. -/
def xAbsent : Stream := { base.strm 3 with en := true, absent := some (0, 0) }
def ringAway : State := { base with launches := [], streams := [xAbsent], mem := base.mem.writeNat (base.ctx 0).root 8 6 }
theorem witness_streamPage : (ringAway.core ⟨0, 0⟩).serving = none ∧ ringAway.launches = [] ∧ ringAway.streams = [xAbsent] ∧
    xAbsent.absent = some (0, 0) ∧ ringAway.readWord xAbsent.ctx (walkEnd ringAway xAbsent.ctx 0 3 (ringAway.ctx xAbsent.ctx).root).2 &&& 7 = 6 := by
  decide +kernel

/-! ### Workgroups -/

def lNext : Launch := { l0 with lrec := { l0.lrec with gridX := 2 }, nextWg := 1 }
def creating : State := { base with launches := [lNext] }
theorem witness_create : ∃ c r segs, creating.launch? 0 = some lNext ∧ lNext.phase = .running ∧ lNext.nextWg < lNext.lrec.count ∧
    creating.diesRun = true ∧ lNext.lrec.gang = 0 ∧ creating.pickCore lNext lNext.rank (creating.newEntryOn lNext.ctx) = some (c, r) ∧
    creating.freeSegs lNext.ctx (lNext.lrec.groups + 1) = some segs ∧ lNext.staggerOk c creating.clock = true := by
  have h : (match creating.pickCore lNext lNext.rank (creating.newEntryOn lNext.ctx), creating.freeSegs lNext.ctx (lNext.lrec.groups + 1) with
    | some (c, _), some _ => lNext.staggerOk c creating.clock
    | _, _ => false) = true := by decide +kernel
  have h0 : creating.launch? 0 = some lNext ∧ lNext.phase = .running ∧ lNext.nextWg < lNext.lrec.count ∧
    creating.diesRun = true ∧ lNext.lrec.gang = 0 := by decide +kernel
  split at h
  · rename_i c r segs hc hs
    exact ⟨c, r, segs, h0.1, h0.2.1, h0.2.2.1, h0.2.2.2.1, h0.2.2.2.2, hc, hs, h⟩
  · cases h
def reserving : State :=
  { (base.modCore ⟨0, 0⟩ fun c => { c with reservedFor := some 0 }) with launches := [{ l0 with reservedAt := some 0 }], time := 100000 }
theorem witness_reservation : reserving.launch? 0 = some { l0 with reservedAt := some 0 } ∧ 0 + 100000 ≤ reserving.time ∧
    reserving.wgs = [w0] ∧ (reserving.core w0.core).reservedFor = some 0 ∧ reserving.movable w0 = true ∧
    reserving.prioOf { l0 with reservedAt := some 0 } ≤ reserving.wgPrio w0 := by decide +kernel
def wEnded : Workgroup := wOf { g0 with ended := true }
theorem witness_retire : (st { g0 with ended := true }).wg? 0 = some wEnded ∧ (st { g0 with ended := true }).canRetire wEnded = true := by
  decide +kernel
theorem witness_complete : (launched { l0 with retired := 1 }).launch? 0 = some { l0 with retired := 1 } ∧ l0.lrec.ntxn = true ∧
    l0.phase = .running ∧ l0.lrec.count ≤ 1 ∧ ∀ w ∈ (launched { l0 with retired := 1 }).wgs, w.lid ≠ 0 := by decide +kernel
/-- A launch of another context with a workgroup still to create. -/
def sharing : State := { base with launches := [l0, { l0 with lid := 1, ctx := 1, nextWg := 0, waitSince := some 0 }], time := 100000 }
theorem witness_slice : sharing.wg? 0 = some w0 ∧ sharing.wgs = [w0] ∧ sharing.movable w0 = true ∧
    w0.residentSince + 100000 ≤ sharing.time ∧ sharing.othersWait w0 = true := by decide +kernel
def wStopped : Workgroup := { wOf { g0 with stopped := true } with preempt := true }
/-- Its private segment's first 2 MiB are mapped by one leaf. -/
def mapped : State :=
  let s := ({ base with wgs := [wStopped] } : State).modCtx 0 fun c => { c with segMarks := [(0, (32, 0))] }
  let va := segBase 0
  { s with mem := ((s.mem.writeNat (loadRoot + 8 * levelIndex 3 va) 8 0x200001).writeNat
      (0x200000 + 8 * levelIndex 2 va) 8 0x244001).writeNat (0x244000 + 8 * levelIndex 1 va) 8 0x40002B }
theorem witness_save : mapped.wg? 0 = some wStopped ∧ mapped.canSave wStopped = true ∧ mapped.launch? 0 = some l0 ∧
    (mapped.reachImage (mapped.imageAreas wStopped)).1 = none ∧ mapped.covOps = [] ∧ mapped.awaitCovered wStopped = none := by decide +kernel
/-- A covered operation of the group is outstanding; the wait is to begin, goes on, or is over. -/
def outOp : CovOp :=
  { ref := ⟨g0.ident, 5⟩, ctx := 0, die := 0, home := ⟨0, 1⟩, slice := 2, stamp := 1, pred := none
    body := .access { g := theGroup, q := .st, id := 0, lane := 0, piece := 0 }
      { ctx := 0, core := ⟨0, 0⟩, own := none, pa := 0x50008, len := 4, kind := .r, c := false, am := none, t := 0xAB, b := 0, ver := 0 }
    st := .sent, due := 0, firstSent := 0, lastSent := 0, interval := 16000, answered := false, nonBusy := false, incCause := false }
def wWaits (since : Option Nat) : Workgroup := { wStopped with saveFrom := since }
def waiting (since : Option Nat) (now : Nat) : State := { mapped with wgs := [wWaits since], covOps := [outOp], time := now }
theorem witness_saveWaits : ∀ x ∈ [((none : Option Nat), 7), (some 7, 20006), (some 7, 20007)],
    (waiting x.1 x.2).wg? 0 = some (wWaits x.1) ∧ (waiting x.1 x.2).canSave (wWaits x.1) = true ∧ (wWaits x.1).gang = none ∧
      (waiting x.1 x.2).covOut (wWaits x.1) = true := by decide +kernel
theorem witness_quitCore : (base.core ⟨0, 0⟩).serving = none ∧ (base.core ⟨0, 0⟩).misses = [] ∧ (base.core ⟨0, 0⟩).fw = [] ∧
    ((base.modCore ⟨0, 0⟩ fun c => { c with misses := [who0.miss 5 none] }).core ⟨0, 0⟩).serving = none ∧
    ((base.modCore ⟨0, 0⟩ fun c => { c with misses := [who0.miss 5 none] }).core ⟨0, 0⟩).misses ≠ [] := by decide +kernel
/-- A stub stands where that leaf was. -/
def unmapped : State := { mapped with mem := mapped.mem.writeNat (0x244000 + 8 * levelIndex 1 (segBase 0)) 8 6 }
theorem witness_saveStops : ∃ f, unmapped.wg? 0 = some wStopped ∧ unmapped.canSave wStopped = true ∧ unmapped.launch? 0 = some l0 ∧
    (unmapped.reachImage (unmapped.imageAreas wStopped)).1 = some f ∧ f.code = fcNotResident ∧
    ((unmapped.reachImage (unmapped.imageAreas wStopped)).2.core wStopped.core).fw = [] ∧
    (unmapped.reachImage (unmapped.imageAreas wStopped)).2.expiredFw f.who none = none ∧ unmapped.awaitCovered wStopped = none :=
  ⟨⟨⟨0, ⟨0, 0⟩, 0, ⟨0, 0⟩, none, 0, 0⟩, 65536, fcNotResident⟩, by decide +kernel⟩
theorem witness_image : g0.kregs.length = 16 ∧ ({ g0 with sregs := List.replicate 64 0 } : Group).sregs.length = 64 := by decide +kernel
theorem witness_debugWrite : Wait.debug ∈ ({ g0 with waits := [.debug] } : Group).waits ∧ 7 < g0.width ∧ 255 < g0.vregCount ∧ 255 < 256 := by
  decide +kernel
/-- A workgroup that is switched out, without groups: nothing of its image is sealed. -/
def wOut : Workgroup := { w0 with out := true, groups := [] }
def away : State := { base with wgs := [wOut] }
theorem witness_restore : ∃ r, away.wg? 0 = some wOut ∧ away.launch? 0 = some l0 ∧ wOut.out = true ∧ wOut.retired = false ∧ wOut.gang = none ∧
    l0.lrec.dieMask = 0 ∧ away.diesRun = true ∧ 1 < Config.numDies ∧ 5 < Config.coresPerDie ∧ away.coreOpen ⟨1, 5⟩ l0 = true ∧
    away.roomOn ⟨1, 5⟩ l0 lowestEntry = some r ∧ away.badLines = [] ∧ away.sealBroken wOut = false := by
  obtain ⟨r, hr⟩ := Option.isSome_iff_exists.1 (show (away.roomOn ⟨1, 5⟩ l0 lowestEntry).isSome = true by decide +kernel)
  have h0 : away.wg? 0 = some wOut ∧ away.launch? 0 = some l0 ∧ wOut.out = true ∧ wOut.retired = false ∧ wOut.gang = none ∧
    l0.lrec.dieMask = 0 ∧ away.diesRun = true ∧ 1 < Config.numDies ∧ 5 < Config.coresPerDie ∧ away.coreOpen ⟨1, 5⟩ l0 = true := by decide +kernel
  obtain ⟨a, b, c, d, e, f, g, h, i, j⟩ := h0
  exact ⟨r, a, b, c, d, e, f, g, h, i, j, hr, by decide +kernel⟩
/-- A line of its image reports an uncorrectable error. -/
def awayBad : State := { mapped with wgs := [{ wStopped with out := true, preempt := false }], badLines := [0x410000 / 128] }
/-- A group of no lanes, which no run reaches and whose part is the shortest. -/
def gNarrow : Group := { g0 with lanes := [], sregs := List.replicate 64 0 }
def wNarrow : Workgroup := { wOf gNarrow with out := true, scratchSize := 0, accumBanks := [] }
/-- The first 2 MiB of its segment lie at address 0, the tables behind. -/
def segTables : Memory :=
  let m : Memory := []
  ((m.writeNat (0x300000 + 8 * levelIndex 3 (segBase 0)) 8 0x340001).writeNat (0x340000 + 8 * levelIndex 2 (segBase 0)) 8 0x380001).writeNat
    (0x380000 + 8 * levelIndex 1 (segBase 0)) 8 0x602B
def imagedBy (ws : List (Nat × W64)) : State :=
  ({ base with wgs := [wNarrow], mem := (ws.filter (·.2 != 0)).foldl (fun m p => m.writeNat (0x10000 + 8 * p.1) 8 p.2.toNat) segTables } :
    State).modCtx 0 fun c => { c with root := 0x300000, segMarks := [(0, (32, 0))] }
def narrowWords : List (Nat × W64) := gNarrow.laidWords (imagedBy []) l0
/-- A word of the area's first page, once the area has been reached. -/
def pageWord (s : State) (n : Nat) : Option W64 :=
  match s.groupArea who0 0x10000 false with
  | (.ok pa, s) => some (w64 (bytesNat (s.readPhys none 0 (pa + 8 * n) 8)))
  | (.error _, _) => none
theorem imageWordAt_page (s : State) {n : Nat} (h : n < 8192) : s.imageWordAt who0 0x10000 n = pageWord s n := by
  unfold State.imageWordAt pageWord
  rw [show 0x10000 + 8 * n / 65536 * 65536 = 0x10000 by omega, show 8 * n % 65536 = 8 * n by omega]
  rfl
/-- Its words as the device wrote them; and s5 changed since. -/
def changed : State := imagedBy (narrowWords ++ [(0x25, 7)])
theorem witness_readBack : (∀ p ∈ gNarrow.laidWords (imagedBy narrowWords) l0, (imagedBy narrowWords).imageWordAt who0 0x10000 p.1 = some p.2) ∧
    7 ≠ gNarrow.s 5 ∧ gNarrow.sregs.length = 64 ∧ changed.imageWordAt who0 0x10000 (0x20 + 5) = some 7 ∧
    ∀ p ∈ gNarrow.laidWords changed l0, p.1 ≠ 0x20 + 5 → changed.imageWordAt who0 0x10000 p.1 = some p.2 := by
  have h1 : ((gNarrow.laidWords (imagedBy narrowWords) l0).all fun p => decide (p.1 < 8192) &&
      pageWord (imagedBy narrowWords) p.1 == some p.2) = true := by decide +kernel
  have h2 : ((gNarrow.laidWords changed l0).all fun p => p.1 == 0x25 || decide (p.1 < 8192) && pageWord changed p.1 == some p.2) = true := by decide +kernel
  refine ⟨fun p hp => ?_, by decide +kernel, by decide +kernel, ?_, fun p hp hne => ?_⟩
  · have h := List.all_eq_true.1 h1 p hp
    simp only [Bool.and_eq_true, decide_eq_true_eq, beq_iff_eq] at h
    rw [imageWordAt_page _ h.1]
    exact h.2
  · rw [imageWordAt_page _ (by omega)]
    decide +kernel
  · have h := List.all_eq_true.1 h2 p hp
    rw [Bool.or_eq_true, beq_iff_eq, Bool.and_eq_true, decide_eq_true_eq, beq_iff_eq] at h
    obtain ⟨h, h'⟩ := h.resolve_left hne
    rw [imageWordAt_page _ h]
    exact h'

/-- An image of zeros, but for the seal's word. -/
def sealedBy (v : W64) : State := imagedBy [(1, v)]
theorem sealed_parts (v : W64) : (sealedBy v).imageParts wNarrow = (who0, 0x10000, 0x2000) :: ((sealedBy v).imageParts wNarrow).tail := by
  have h : (sealedBy v).who? (refOf wNarrow gNarrow) = some who0 := by
    rw [show (sealedBy v).who? (refOf wNarrow gNarrow) = (imagedBy []).who? (refOf wNarrow gNarrow) from rfl]
    decide +kernel
  have hb : gNarrow.imageBytes = 0x2000 := by decide +kernel
  have hg : wNarrow.groups = [gNarrow] := rfl
  simp [State.imageParts, hg, h, hb]
theorem sealed_words {v : W64} (h : ((List.range 1024).all fun n => pageWord (sealedBy v) n == some (if n = 1 then v else 0)) = true) :
    (sealedBy v).imageWords who0 0x10000 1024 = (List.range 1024).map fun n => if n = 1 then v else 0 := by
  refine List.map_congr_left fun n hn => ?_
  rw [imageWordAt_page _ (by have := List.mem_range.1 hn; omega), beq_iff_eq.1 (List.all_eq_true.1 h n hn), Option.getD_some]
/-- Of two images that differ in nothing but their seals at least one is broken. -/
theorem witness_sealBroken : ∃ s : State, s.wg? 0 = some wNarrow ∧ s.launch? 0 = some l0 ∧ wNarrow.out = true ∧ wNarrow.retired = false ∧
    wNarrow.gang = none ∧ s.badLines = [] ∧ s.sealBroken wNarrow = true := by
  have h0 := sealed_words (v := 0) (by decide +kernel)
  have h1 := sealed_words (v := 1) (by decide +kernel)
  have hb : ∀ v, (sealedBy v).launch? 0 = some l0 ∧ (sealedBy v).badLines = [] := fun v => by
    rw [show (sealedBy v).launch? 0 = base.launch? 0 from rfl, show (sealedBy v).badLines = base.badLines from rfl]
    decide +kernel
  have hw : ∀ v, (sealedBy v).wg? 0 = some wNarrow := fun _ => rfl
  let ws (v : W64) : List W64 := (List.range 1024).map fun n => if n = 1 then v else 0
  have len : ∀ v, (ws v).length = 1024 := fun v => by simp only [ws, List.length_map, List.length_range]
  have at1 : ∀ v, (ws v)[1]? = some v := fun v => by
    simp only [ws, List.getElem?_map, List.getElem?_range (show 1 < 1024 by omega), Option.map_some, if_true]
  have same : setAt (ws 1) 1 (pair 0 (hi32 1)) = setAt (ws 0) 1 (pair 0 (hi32 0)) := by
    rw [show pair 0 (hi32 1) = pair 0 (hi32 0) by decide]
    refine List.ext_getElem? fun i => ?_
    by_cases hi : i = 1
    · subst hi
      rw [setAt, setAt, List.getElem?_set_self (by rw [len]; omega), List.getElem?_set_self (by rw [len]; omega)]
    · simp only [setAt, ws, List.getElem?_set_ne (Ne.symm hi), List.getElem?_map]
      by_cases hn : i < 1024
      · simp only [List.getElem?_range hn, hi, Option.map_some, if_false]
      · rw [List.getElem?_eq_none (show (List.range 1024).length ≤ i by rw [List.length_range]; omega)]; rfl
  have key : (sealedBy 0).sealBroken wNarrow = true ∨ (sealedBy 1).sealBroken wNarrow = true := by
    unfold State.sealBroken
    rw [sealed_parts 0, sealed_parts 1]
    simp only [List.any_cons, Bool.or_eq_true, Bool.not_eq_true', Nat.reduceDiv, h0, h1]
    change (sealFits (ws 0) = false ∨ _) ∨ (sealFits (ws 1) = false ∨ _)
    by_cases h : sealFits (ws 0) = false
    · exact .inl (.inl h)
    · refine .inr (.inl ?_)
      simp only [sealFits, at1, Option.getD_some, Bool.not_eq_false, beq_iff_eq] at h
      simp only [sealFits, at1, Option.getD_some, beq_eq_false_iff_ne, ne_eq, same, ← h]
      decide
  rcases key with h | h
  · exact ⟨_, hw 0, (hb 0).1, rfl, rfl, rfl, (hb 0).2, h⟩
  · exact ⟨_, hw 1, (hb 1).1, rfl, rfl, rfl, (hb 1).2, h⟩
theorem witness_restoreBad : awayBad.imageBad { wStopped with out := true, preempt := false } = true := by decide +kernel

/-! ### Transactions -/

theorem witness_attemptEnd : (launched { lTx .running with retired := 1 }).launch? 0 = some { lTx .running with retired := 1 } ∧
    (lTx .running).lrec.ntxn = false ∧ (lTx .running).lrec.count ≤ 1 ∧ ∀ w ∈ (launched { lTx .running with retired := 1 }).wgs, w.lid ≠ 0 := by
  decide +kernel
theorem witness_ticket : (launched (lTx .ended)).launch? 0 = some (lTx .ended) ∧ ((launched (lTx .ended)).ticketsOut 0).length < 256 ∧
    (launched (lTx .ended)).predOk (lTx .ended) = true ∧ (launched (lTx .ended)).frameBad 0 = false ∧
    (launched (lTx .ended)).endedBefore (lTx .ended) = false := by decide +kernel
/-- Two attempts of streams of their own have ended. -/
def lFirst : Launch := { lTx .ended with lid := 1, stream := 1, endOrder := 1 }
def lSecond : Launch := { lTx .ended with endOrder := 2 }
def bothEnded : State := { base with launches := [lSecond, lFirst], wgs := [] }
theorem witness_ticketWaits : bothEnded.launch? 0 = some lSecond ∧ lSecond.phase = .ended ∧ bothEnded.frameBad 0 = false ∧
    lFirst ∈ bothEnded.launches ∧ lFirst.ctx = lSecond.ctx ∧ lFirst.phase = .ended ∧ lFirst.endOrder < lSecond.endOrder ∧
    bothEnded.predOk lFirst = true := by decide +kernel
def lTicket (n : Nat) (p : LPhase) : Launch := { lTx p with ticket := some n }
theorem witness_commit : (launched (lTicket 1 .ticketed)).launch? 0 = some (lTicket 1 .ticketed) ∧
    (∀ x ∈ (launched (lTicket 1 .ticketed)).ticketsOut 0, x.ticket = some 1) ∧ (launched (lTicket 1 .ticketed)).frameBad 0 = false ∧
    (launched (lTicket 1 .ticketed)).conflicts (lTicket 1 .ticketed) = false ∧
    ∀ o ∈ (launched (lTicket 1 .ticketed)).entriesOf 0, ((launched (lTicket 1 .ticketed)).part o.part).st ≠ .readDup := by decide +kernel
/-- An entry of another attempt that was published under ticket 1, on a line the attempt has touched. -/
def entry (lid n : Nat) : Overlay :=
  { ctx := 0, lid := lid, ver := 1, ticket := some n, part := 8, frame := some (Config.reserveBase + 65536), lines := [3], bytes := [384]
    discarded := false, pending := false }
def conflicting : State := { (launched (lTicket 2 .ticketed)).modCtx 0 fun c => { c with cTicket := 1 } with overlays := [entry 7 1, entry 0 2] }
theorem witness_conflict : conflicting.launch? 0 = some (lTicket 2 .ticketed) ∧ conflicting.frameBad 0 = false ∧
    (lTicket 2 .ticketed).lrec.policy = false ∧ conflicting.conflicts (lTicket 2 .ticketed) = true ∧
    ∀ x ∈ conflicting.ticketsOut 0, x.ticket = some 2 := by decide +kernel
/-- A line of its frame has an uncorrectable error. -/
def badFrame (p : LPhase) (dies : List Nat) : State :=
  { launched { lTicket 2 p with prepared := dies } with overlays := [entry 0 2], badLines := [(Config.reserveBase + 65536) / 128] }
theorem witness_frameError : ∀ p ∈ [(LPhase.ended, []), (.ticketed, []), (.committing, [0, 1, 2, 3])],
    (badFrame p.1 p.2).frameBad 0 = true ∧ (badFrame p.1 p.2).launch? 0 = some { lTicket 2 p.1 with prepared := p.2 } ∧
    ∀ x ∈ (badFrame p.1 p.2).ticketsOut 0, x.ticket = some 2 := by decide +kernel
def two : State := { base with launches := [lTicket 2 .ticketed, { lTicket 1 .ticketed with lid := 1 }] }
theorem witness_commitWaits : two.launch? 0 = some (lTicket 2 .ticketed) ∧ { lTicket 1 .ticketed with lid := 1 } ∈ two.ticketsOut 0 ∧
    1 ≠ 2 ∧ ticketLe 1 2 = true := by decide +kernel
def lPrepared : Launch := { lTicket 1 .committing with prepared := [0, 1, 2, 3] }
theorem witness_prepare : (launched (lTicket 1 .committing)).launch? 0 = some (lTicket 1 .committing) ∧ 3 < Config.numDies ∧
    3 ∉ (lTicket 1 .committing).prepared ∧ ∀ o ∈ (launched (lTicket 1 .committing)).entriesOf 0,
      ((launched (lTicket 1 .committing)).part o.part).st = .single ∨ ((launched (lTicket 1 .committing)).part o.part).st = .migrating := by
  decide +kernel
theorem witness_frameGood : (launched (lTicket 1 .committing)).frameBad 0 = false ∧ (launched lPrepared).frameBad 0 = false := by decide +kernel
theorem witness_publish : (launched lPrepared).launch? 0 = some lPrepared ∧ lPrepared.phase = .committing ∧ lPrepared.prepared.length = 4 ∧
    lPrepared.ticket = some 1 := by decide +kernel
theorem witness_release : (launched (lTicket 1 .committed)).launch? 0 = some (lTicket 1 .committed) ∧ 0 < Config.numDies ∧
    0 ∉ (lTicket 1 .committed).released := by decide +kernel
theorem witness_completion : (launched { lTicket 1 .committed with released := [0, 1, 2, 3] }).launch? 0 =
      some { lTicket 1 .committed with released := [0, 1, 2, 3] } ∧ 4 ≤ ({ lTicket 1 .committed with released := [0, 1, 2, 3] } : Launch).released.length ∧
    (launched { lTicket 1 .committed with released := [0, 1, 2, 3] }).doneAbsent { lTicket 1 .committed with released := [0, 1, 2, 3] } = false := by
  decide +kernel
/-- A done launch. -/
def lDone : Launch := { l0 with phase := .done, status := some 1 }
theorem witness_completionDone : (launched lDone).launch? 0 = some lDone ∧ lDone.status = some 1 ∧ (launched lDone).doneAbsent lDone = false := by
  decide +kernel
/-- Its completion word lies behind a tier stub. -/
def wordAway (since : Option Nat) : State :=
  let s := launched { lDone with doneSince := since }
  { s with mem := s.mem.writeNat (s.ctx 0).root 8 6 }
theorem witness_completionWaits : (wordAway none).launch? 0 = some lDone ∧ lDone.phase = .done ∧ lDone.status = some 1 ∧
    (wordAway none).doneAbsent lDone = true ∧ lDone.doneSince = none := by decide +kernel
theorem witness_completionLate : (wordAway (some 0)).launch? 0 = some { lDone with doneSince := some 0 } ∧
    0 + ({ wordAway (some 0) with time := 2 ^ 40 }.ctx 0).faultLimit * 1000 ≤ { wordAway (some 0) with time := 2 ^ 40 }.time := by
  decide +kernel
theorem witness_completionPage : ((wordAway (some 0)).core ⟨0, 0⟩).serving = none ∧
    (wordAway (some 0)).launches.find? (fun x => x.doneSince.isSome && (wordAway (some 0)).doneAbsent x) = some { lDone with doneSince := some 0 } ∧
    (wordAway (some 0)).readWord 0 (walkEnd (wordAway (some 0)) 0 0 3 ((wordAway (some 0)).ctx 0).root).2 &&& 7 = 6 := by decide +kernel
def stall : Stall := { lid := 0, ctx := 0, part := 8, since := 0 }
def stalling : State := { (launched (lTx .running)).modCtx 0 fun c => { c with quota := 4 } with stalls := [stall] }
theorem witness_stallRelease : ∃ t, stalling.stalls.find? (fun y => y.ctx == 0) = some stall ∧
    ({ stalling with stalls := stalling.stalls.filter fun y => !(y == stall) } : State).launch? 0 = some (lTx .running) ∧
    (stalling.part stall.part).st ≠ .migrating ∧
    ({ stalling with stalls := stalling.stalls.filter fun y => !(y == stall) } : State).newEntry (lTx .running) 8 = some t := by
  obtain ⟨t, ht⟩ := Option.isSome_iff_exists.1 (show (({ stalling with stalls := stalling.stalls.filter fun y => !(y == stall) } : State).newEntry
    (lTx .running) 8).isSome = true by decide +kernel)
  exact ⟨t, by decide +kernel, by decide +kernel, by decide +kernel, ht⟩
/-- Its context may have no frame. -/
def noFrame : State := { (launched (lTx .running)) with stalls := [stall], time := 2 ^ 30 }
theorem witness_txstall : noFrame.launch? 0 = some (lTx .running) ∧ stall ∈ noFrame.stalls ∧
    stall.since + (lTx .running).lrec.txStall * 1000 ≤ noFrame.time ∧ noFrame.stalls.find? (fun z => z.ctx == 0) = some stall ∧
    ({ noFrame with stalls := noFrame.stalls.filter fun z => !(z == stall) } : State).stallEntry (lTx .running) 8 = none := by decide +kernel
theorem witness_txstallFrame : ∃ t, stalling.launch? 0 = some (lTx .running) ∧ stalling.stalls = [stall] ∧ stall.lid = 0 ∧
    stall.ctx = (lTx .running).ctx ∧ stall.since + (lTx .running).lrec.txStall * 1000 ≤ ({ stalling with time := 2 ^ 30 } : State).time ∧
    ({ stalling with time := 2 ^ 30, stalls := [] } : State).stallEntry (lTx .running) stall.part = some t := by
  obtain ⟨t, ht⟩ := Option.isSome_iff_exists.1 (show (({ stalling with time := 2 ^ 30, stalls := [] } : State).stallEntry (lTx .running)
    stall.part).isSome = true by decide +kernel)
  exact ⟨t, by decide +kernel, by decide +kernel, by decide +kernel, by decide +kernel, by decide +kernel, ht⟩
def published : State := { (launched (lTx .running)).modCtx 0 fun c => { c with cTicket := 1 } with overlays := [entry 7 1] }
theorem witness_fold : published.foldable 0 = some (entry 7 1) := by decide +kernel
theorem witness_foldBytes : (entry 7 1).frame = some (Config.reserveBase + 65536) ∧ published.mem.wf = true ∧ (entry 7 1).bytes = [384] ∧
    ∀ b ∈ (entry 7 1).bytes, published.sealedFor (entry 7 1).ctx (((entry 7 1).part * 65536 + b) / 128) = false := by decide +kernel
theorem witness_foldFrame : ({ entry 7 1 with bytes := [] } : Overlay).frame = some (Config.reserveBase + 65536) ∧
    ({ entry 7 1 with bytes := [] } : Overlay).bytes = [] := by decide +kernel
/-- A conflict under a retry limit of 2, after one retry and after two. -/
def lAborting (k : Nat) : Launch := { lTx .aborting with lrec := { (lTx .aborting).lrec with retry := 2 }, retries := k, status := some 0x16 }
theorem witness_abort : (launched (lAborting 1)).launch? 0 = some (lAborting 1) ∧ (lAborting 1).retries < (lAborting 1).lrec.retry ∧
    (launched (lAborting 2)).launch? 0 = some (lAborting 2) ∧ ¬(lAborting 2).retries < (lAborting 2).lrec.retry := by decide +kernel
/-- An aborting attempt behind a lower ticket. -/
def behind : State := { base with launches := [{ lTicket 2 .aborting with status := some 0x11 }, { lTicket 1 .ticketed with lid := 1 }] }
theorem witness_abortWaits : behind.launch? 0 = some { lTicket 2 .aborting with status := some 0x11 } ∧
    { lTicket 1 .ticketed with lid := 1 } ∈ behind.ticketsOut 0 ∧ 1 ≠ 2 ∧ ticketLe 1 2 = true := by decide +kernel
theorem witness_abortNtxn : (launched { l0 with phase := .aborting, status := some 0x11 }).launch? 0 =
    some { l0 with phase := .aborting, status := some 0x11 } ∧ l0.lrec.ntxn = true := by decide +kernel

end Sys2Proof.Tests
end

