-- ==== Sys2Proof/Tests/WitFaults.lean ====
section
/-!
SUPPORT. WitFaults: a case that meets the premises of each rule about traps of control, check points and regions.
-/

set_option Elab.async false

namespace Sys2Proof.Tests

open Sys2Proof.Machine Sys2Proof.Claims

/-! ### trap and rfe -/

/-- The base state with the group area mapped, and the value of s0. -/
def areaS0 (g : Group) (vector : Nat) (t : W64) : State := on (withArea g vector) fun g => { g with sregs := g.sregs.set 0 t }

theorem witness_trapNone : Wit (sy 0x17) fun f => f.first = none := wit_of base nowhere (by decide +kernel)
/-- Does taking the trap that f describes answer a state? -/
def trapTaken (f : Fire) (k : Nat) : Bool :=
  let t := f.t k
  let info : TrapInfo := { precise 0x0B (t.toNat % 256) 0 with
    lane := k, lanes := f.lanes, pc := f.pc, addr := w64 (t.toNat % 65536), info0 := f.op 0 k, info1 := f.op 1 k
    time := f.start.sampleTime.1 }
  ((f.start.sampleTime.2.modGroup f.ref fun x =>
    { loneDone f.g x f.m (sy 0x17) with padPc := f.g.pc, padLen := loneLen f.m (sy 0x17) }).takeTrap f.ref info (f.l.textOffset (f.g.pc + w64 (loneLen f.m (sy 0x17))))).isSome
theorem witness_trap : Wit (sy 0x17) fun f => f.first = some 0 ∧ trapTaken f 0 = true :=
  wit_of (areaS0 g0 vectorOn 0x1234) fromS0 (by decide +kernel)

theorem witness_rfeNone : Wit (sy 0x1D) fun f => f.first = none := wit_of base nowhere (by decide +kernel)
/-- In the handler, with a frame whose word 9 is this: it resumes at text offset 8, say. -/
def inAreaOf (g : Group) (v : Nat) : State :=
  let s := withArea g vectorOn
  { s with mem := s.mem.writeNat (0x240000 + 0x80 + 72) 8 v }
def inArea : State := inAreaOf gHandler 8
def rfeReady (f : Fire) : Bool :=
  match f.start.reachArea (f.trigIn 0x12 0x1D) 0x80 with
  | .at_ pa u =>
    let w := w64 (bytesNat (u.ownLoad f.ref f.w.ctx (pa + 8 * 9) 8))
    w.toNat / 2 ^ 36 % 2 ^ 6 == f.g.mj.length && w.toNat / 2 ^ 42 % 2 ^ 11 == f.g.rasAll && decide (f.validTarget (lo32 w))
  | .fail _ => false
theorem witness_rfe : LeadingWit (sy 0x1D) fun f => f.g.handler = true ∧ loneCheck f.g f.l f.m (sy 0x1D) = .go ∧ f.g.trapPad = none ∧
    f.first ≠ none ∧ rfeReady f = true := leadingWit_of inArea fromS0 (by decide +kernel)
/-- The trap interrupted a bundle with two pads left, or with none any more. -/
def gPadTrap : Group := { gHandler with trapPad := some (g0.pc, 8, none) }
theorem witness_rfePad : LeadingWit (sy 0x1D) fun f => f.g.handler = true ∧ loneCheck f.g f.l f.m (sy 0x1D) = .go ∧
    f.g.trapPad = some (g0.pc, 8, none) ∧ f.first ≠ none ∧ rfeReady f = true ∧ (8 + 2 * 2 ^ 32) / 2 ^ 32 % 16 ≠ 0 :=
  leadingWit_of (inAreaOf gPadTrap (8 + 2 * 2 ^ 32)) fromS0 (by decide +kernel)
/-- The frame has another depth of the mark-join stack, another of the return stack, or no valid resume address. -/
def rfeBad (f : Fire) : Bool :=
  match f.start.reachArea (f.trigIn 0x12 0x1D) 0x80 with
  | .at_ pa u =>
    let w := w64 (bytesNat (u.ownLoad f.ref f.w.ctx (pa + 8 * 9) 8))
    w.toNat / 2 ^ 36 % 2 ^ 6 != f.g.mj.length || w.toNat / 2 ^ 42 % 2 ^ 11 != f.g.rasAll || !decide (f.validTarget (lo32 w))
  | .fail _ => false
theorem witness_rfeFrame : ∀ v ∈ [8 + 2 ^ 36, 8 + 2 ^ 42, 6], LeadingWit (sy 0x1D) fun f => f.g.handler = true ∧
    loneCheck f.g f.l f.m (sy 0x1D) = .go ∧ f.first ≠ none ∧ rfeBad f = true := by
  intro v hv
  simp only [List.mem_cons, List.not_mem_nil, or_false] at hv
  rcases hv with rfl | rfl | rfl
  · exact leadingWit_of (inAreaOf gHandler (8 + 2 ^ 36)) fromS0 (by decide +kernel)
  · exact leadingWit_of (inAreaOf gHandler (8 + 2 ^ 42)) fromS0 (by decide +kernel)
  · exact leadingWit_of (inAreaOf gHandler 6) fromS0 (by decide +kernel)

/-! ### Check points -/

/-- An explicit trap of the group at its area; poison, and a region that is open, with some retries. -/
def explicitTrap : TrapInfo := { precise 0x0B 1 0 with pc := 0 }
theorem witness_raise : ∃ u, (withArea g0 vectorOn).group? theGroup = some g0 ∧ (withArea g0 vectorOn).launchOf? theGroup = some l0 ∧
    psn g0.check = false ∧ (withArea g0 vectorOn).takeTrap theGroup { explicitTrap with pc := 0 } 0 = some u := by
  obtain ⟨u, hu⟩ := some_of (x := (withArea g0 vectorOn).takeTrap theGroup { explicitTrap with pc := 0 } 0) (by decide +kernel)
  exact ⟨u, by decide +kernel, by decide +kernel, by decide +kernel, hu⟩
def gPoison : Group := { g0 with check := 1 }
theorem witness_poisonEnd : (st gPoison).group? theGroup = some gPoison ∧ (st gPoison).launchOf? theGroup = some l0 ∧
    psn gPoison.check = true ∧ gPoison.handler = false ∧ regOpen gPoison.check = false := by decide +kernel
def region0 : Region :=
  { pc := 8, k := g0.kregs, loop := g0.loop, latches := noLatches, mjDepth := 0, rasDepth := 0, segCount := 0, segSig := 0 }
def gRegion (retries : W64) : Group := { g0 with check := 0x11 + 4 * retries, region := some region0 }
theorem witness_retry : (st (gRegion 1)).group? theGroup = some (gRegion 1) ∧ psn (gRegion 1).check = true ∧ (gRegion 1).handler = false ∧
    regOpen (gRegion 1).check = true ∧ (gRegion 1).region = some region0 ∧ retriesOf (gRegion 1).check ≠ 2 ∧ retriesOf (gRegion 1).check < 2 ∧
    region0.mjDepth ≤ (gRegion 1).mj.length ∧ region0.rasDepth ≤ (gRegion 1).rasAll := by decide +kernel
theorem witness_giveUp : (st (gRegion 2)).group? theGroup = some (gRegion 2) ∧ psn (gRegion 2).check = true ∧ (gRegion 2).handler = false ∧
    regOpen (gRegion 2).check = true ∧ (gRegion 2).region = some region0 ∧ retriesOf (gRegion 2).check = 2 := by decide +kernel

end Sys2Proof.Tests
end

