-- ==== Sys2Proof/Tests/WitMachine.lean ====
section
/-!
SUPPORT. WitMachine: for every rule about the step, fetch, sources, bundles, memory, frames, and check points that has a premise, a
case that meets it.
-/

set_option Elab.async false

namespace Sys2Proof.Tests

open Sys2Proof.Machine Sys2Proof.Claims

/-! ### The step and fetch -/

/-- A move of the short immediate 0x14 to v2, as R337 writes it out. -/
def wordImm : W32 := 0x01014002
def loadedImm : State := State.reset.withFetchWord 32 0x01014002
def timed : State := loadedImm.pass 1
def gImm : Group := (timed.group? theGroup).getD g0
def wImm : Workgroup := (timed.wg? 0).getD w0
def lImm : Launch := (timed.launchOf? theGroup).getD l0
def whoImm : Who := (timed.who? theGroup).getD who0

theorem witness_stepTurn : loadedImm.agenda = [] ∧ loadedImm.clock % 2 = 0 ∧ firstTry (phaseTries timed) timed = none ∧
    timed.order = (wImm, gImm) :: [] ∧ timed.wg? 0 = some wImm ∧ timed.group? theGroup = some gImm ∧ timed.launchOf? theGroup = some lImm ∧
    timed.who? theGroup = some whoImm ∧ timed.candidate wImm gImm = true ∧ stopHere wImm gImm = none ∧ gImm.pad = 0 := by
  refine ⟨?_, ?_, Option.isNone_iff_eq_none.1 ?_, ?_, ?_⟩ <;> decide +kernel
theorem witness_stepAlone : timed.mates wImm gImm = [] := by decide +kernel
theorem witness_stepWord : (decodeMove wordImm).toOption = some (.moveVector 0 2 (plainMv 0x1014)) := by decide +kernel
theorem witness_step : ∃ t u, timed.fetch whoImm lImm gImm.pc = .bundle (loneBundle wordImm) (loneWords wordImm) 8 t ∧
    Leads t wImm gImm lImm whoImm ∧ issueLone t wImm gImm wordImm = .done u := by
  have h : (match timed.fetch whoImm lImm gImm.pc with
    | .bundle b ws len t => b == loneBundle wordImm && ws == loneWords wordImm && len == 8 && isDone (issueLone t wImm gImm wordImm) &&
        leadingB ⟨t, fromS0, 2, wImm, gImm, lImm, whoImm⟩ && !gImm.handler
    | _ => false) = true := by decide +kernel
  split at h
  · rename_i b ws len t hf
    simp only [Bool.and_eq_true, beq_iff_eq, Bool.not_eq_true'] at h
    obtain ⟨⟨⟨⟨⟨h1, h2⟩, h3⟩, h4⟩, h5⟩, h6⟩ := h
    obtain ⟨u, hu⟩ := done_of h4
    subst h1 h2 h3
    exact ⟨t, u, hf, ⟨leading_of h5, h6⟩, hu⟩
  · cases h

/-- The word at the program counter: its page is buffered, the code cache is empty, and its line can be filled. -/
theorem witness_fetchWord : ∃ e u, timed.translate whoImm 0 gImm.pc.toNat 4 .fetch = .ok (.phys (loadFrame + 128) .s false true) e ∧
    (loadFrame + 128) % 128 = 4 * 0 ∧ (∀ x ∈ ((timed.touch whoImm e false).core whoImm.core).code, x.line ≠ (loadFrame + 128) / 128) ∧
    (timed.touch whoImm e false).fillRead whoImm.core whoImm.ctx ((loadFrame + 128) / 128 * 128) true = (u, true) := by
  have h : (match timed.translate whoImm 0 gImm.pc.toNat 4 .fetch with
    | .ok p e => p == .phys (loadFrame + 128) .s false true && ((timed.touch whoImm e false).core whoImm.core).code.isEmpty &&
        ((timed.touch whoImm e false).fillRead whoImm.core whoImm.ctx ((loadFrame + 128) / 128 * 128) true).2
    | _ => false) = true := by decide +kernel
  split at h
  · rename_i p e ht
    simp only [Bool.and_eq_true, beq_iff_eq, List.isEmpty_iff] at h
    obtain ⟨⟨h1, h2⟩, h3⟩ := h
    subst h1
    exact ⟨e, _, ht, rfl, by simp [h2], Prod.ext rfl h3⟩
  · cases h

/-! ### Sources -/

/-- Does a source read so in lane 0 of the base group? -/
theorem witness_sources : decodeDest 0x200 matches .ok _ ∧ decodeDest 0x002 matches .ok _ ∧ toVector 0x002 = true ∧ toVector 0x200 = false ∧
    regSrc 0 true 127 = 0x0FF ∧ regSrc 2 false 79 = 0x44F ∧ regSrc 2 true 64 = 0x4C0 ∧ portSrc 4 false true = 0x908 ∧
    portSrc 0x13 true false = 0xCD0 ∧ extSrc 0 3 = 0x1980 := by decide
/-- Lanes that read lane 1 of them, and lane 9, which a group of 8 does not have. -/
theorem witness_cross : extSrc 0 2 = 0x1900 ∧ (5 : BitVec 3).toNat ≤ 5 ∧ (9 : BitVec 8).toNat < 64 ∧ 0 < g0.width ∧ g0.vBad 0 3 = false ∧
    crossTarget g0 9 5 0 = 9 ∧ g0.width = 8 ∧ crossTarget g0 1 3 0 < 0 := by decide +kernel
theorem witness_atoms : AmOp.counter .cas = false ∧ atomSize .cas 8 ∧ atomSize .min 4 := by
  refine ⟨rfl, .inr ⟨rfl, by decide⟩, .inl rfl⟩
/-- A load's result at the head of ld.r: lane 0 has landed, lane 1 has not. -/
def queuedLoad : REntry := { freshEntry g0 2 with id := 0 }
def gLdr : Group := { g0 with ldr := [queuedLoad], ldq := [entryOf (.load true) landing], ord := 1 }
theorem witness_port : gLdr.entries .ld = queuedLoad :: [] ∧ queuedLoad.full.getLsbD 0 = true ∧ queuedLoad.full.getLsbD 1 = false ∧
    g0.entries .ld = [] := by decide +kernel
def fromLd : Mv := { fromS0 with s := portSrc 0x0C false false }
theorem witness_pop : find (st gLdr) fromLd 0x200 (fun f => leadingB f && f.port == some .ld && f.g.advance.entries .ld == [queuedLoad]) = true := by
  decide +kernel

/-- A result staged three issues before it is due. -/
def gStaged : Group := { g0 with staged := [{ unit := 6, rem := 3, lanes := 5, r := some [7, 8, 9], rb := none, old := false }] }
theorem witness_visible : gStaged.staged = [{ unit := 6, rem := 2 + 1, lanes := 5, r := some [7, 8, 9], rb := none, old := false }] ∧
    (∀ x ∈ gStaged.lanes, x.res.length = 19) ∧ 2 < gStaged.width := by decide +kernel

/-! ### A bundle of two moves -/

def loadedSwap : State := State.reset.loadProgram [0x00000003, mvWord (copyMove 2) 1, mvWord (copyMove 1) 2]
def gSwap : Group := (loadedSwap.group? theGroup).getD g0
def wSwap : Workgroup := (loadedSwap.wg? 0).getD w0
def lSwap : Launch := (loadedSwap.launchOf? theGroup).getD l0
def whoSwap : Who := (loadedSwap.who? theGroup).getD who0
theorem witness_swap : Issues loadedSwap theGroup wSwap gSwap lSwap whoSwap ∧ loadedSwap.mates wSwap gSwap = [] ∧ gSwap.handler = false ∧ gSwap.loop.active = false ∧ gSwap.latches = noLatches ∧ gSwap.target = none ∧ regOpen gSwap.check = false ∧
    psn gSwap.check = false ∧ 2 < gSwap.vregCount := by unfold Issues; decide +kernel
theorem witness_swapFetch : ∃ ws t, loadedSwap.fetch whoSwap lSwap gSwap.pc = .bundle (swapBundle 1 2) ws 12 t ∧ t.group? theGroup = some gSwap := by
  have h : (match loadedSwap.fetch whoSwap lSwap gSwap.pc with
    | .bundle b _ len t => b == swapBundle 1 2 && len == 12 && t.group? theGroup == some gSwap
    | _ => false) = true := by decide +kernel
  split at h
  · rename_i b ws len t hf
    simp only [Bool.and_eq_true, beq_iff_eq] at h
    obtain ⟨⟨h1, h2⟩, h3⟩ := h
    subst h1 h2
    exact ⟨ws, t, hf, h3⟩
  · cases h
theorem witness_swapFull : ∀ k, k < gSwap.width → ∃ x, gSwap.lane? k = some x ∧ 1 < x.vregs.length ∧ 1 < x.vfull.length ∧ 2 < x.vregs.length ∧
    2 < x.vfull.length ∧ gSwap.vFull k 1 = true ∧ gSwap.vFull k 2 = true ∧ gSwap.vBad k 1 = false ∧ gSwap.vBad k 2 = false := by
  have h : ((List.range gSwap.width).all fun k => match gSwap.lane? k with
    | some x => decide (1 < x.vregs.length ∧ 1 < x.vfull.length ∧ 2 < x.vregs.length ∧ 2 < x.vfull.length ∧ gSwap.vFull k 1 = true ∧
        gSwap.vFull k 2 = true ∧ gSwap.vBad k 1 = false ∧ gSwap.vBad k 2 = false)
    | none => false) = true := by decide +kernel
  intro k hk
  have := List.all_eq_true.1 h k (List.mem_range.2 hk)
  cases hx : gSwap.lane? k with
  | some x =>
    simp only [hx, decide_eq_true_eq] at this
    exact ⟨x, rfl, this⟩
  | none => simp only [hx] at this; cases this

/-! ### Memory -/

def mem2 : Memory := (Memory.write [] 5 7).write 3 9
theorem witness_memory : mem2.wf = true ∧ MemOk base ∧ MemOk State.reset ∧ MemOk loadedImm := by unfold MemOk; decide +kernel
theorem witness_canonical : mem2.wf = true ∧ ((Memory.write [] 3 9).write 5 7).wf = true ∧ mem2 ≠ [] ∧ mem2 = (Memory.write [] 3 9).write 5 7 := by
  decide +kernel
theorem witness_physWrite : MemOk base ∧ 0x80008 + 2 ≤ Config.reserveBase ∧ base.bytePlace none 0x80008 ≠ base.bytePlace none 0x80009 ∧
    ∀ i ∈ [0, 1], base.sealedFor 0 (base.bytePlace none (0x80008 + i) / 128) = false := by unfold MemOk; decide +kernel

/-- An atomic at the scratchpad and at the data page, and a load of the data page that goes past the caches. -/
def gAtom (o : LaneOp) : Group := { g0 with amq := [entryOf (.atomic .cas) o], ord := 1 }
theorem witness_scratchAtom : Performable (st (gAtom oScratch)) theGroup .am 0 0 0 (wOf (gAtom oScratch)) (gAtom oScratch) l0
    (entryOf (.atomic .cas) oScratch) oScratch pieceAtScratch := by unfold Performable; decide +kernel
def pieceUncached : Piece := { pieceAtData with target := .phys 0x80008 .s false false }
def oUncached : LaneOp := laneOp pieceUncached 0x100008
theorem witness_memAtom : Performable (st (gAtom oUncached)) theGroup .am 0 0 0 (wOf (gAtom oUncached)) (gAtom oUncached) l0
    (entryOf (.atomic .cas) oUncached) oUncached pieceUncached := by unfold Performable; decide +kernel
theorem witness_memAtomGoes : ∃ t, (st (gAtom oUncached)).isCovered 0 0x80008 false false = false ∧ (st (gAtom oUncached)).beforeWrite
    (homeOpOf (wOf (gAtom oUncached)) l0 (entryOf (.atomic .cas) oUncached) oUncached pieceUncached 0x80008 .s false false) 0 = .ok t := by
  have h : (match (st (gAtom oUncached)).beforeWrite
      (homeOpOf (wOf (gAtom oUncached)) l0 (entryOf (.atomic .cas) oUncached) oUncached pieceUncached 0x80008 .s false false) 0 with
    | .ok _ => true
    | .error _ => false) = true := by decide +kernel
  split at h
  · rename_i t ht
    exact ⟨t, by decide +kernel, ht⟩
  · cases h
theorem witness_memLoad : Performable (st (gLoads oUncached)) theGroup .ld 0 0 0 (wOf (gLoads oUncached)) (gLoads oUncached) l0
    (entryOf (.load true) oUncached) oUncached pieceUncached := by unfold Performable; decide +kernel
theorem witness_memLoadGoes : ∃ arrived t, (st (gLoads oUncached)).readHeld (overlayOf l0 false) 0x80008 = false ∧
    (st (gLoads oUncached)).linePending 0x80008 = false ∧
    (st (gLoads oUncached)).homeAccess ((st (gLoads oUncached)).cacheReq core0 0 (overlayOf l0 false) 0x80008 0 false) false false =
      .done arrived t := by
  have h : (match (st (gLoads oUncached)).homeAccess ((st (gLoads oUncached)).cacheReq core0 0 (overlayOf l0 false) 0x80008 0 false) false false with
    | .done _ _ => true
    | _ => false) = true := by decide +kernel
  split at h
  · rename_i a t ht
    exact ⟨a, t, by decide +kernel, by decide +kernel, ht⟩
  · cases h
/-- Its bytes' places are plain, and nothing waits from outside; the same of the scratchpad's store. -/
theorem witness_storeFrame : (st (gStore oUncached)).isCovered 0 0x80008 false true = false ∧ overlayOf l0 false = none ∧
    (st (gStore oUncached)).extQueue = [] ∧ MemOk (st (gStore oUncached)) ∧
    ∀ i ∈ List.range 4, (st (gStore oUncached)).sealedFor 0 ((st (gStore oUncached)).bytePlace none (0x80008 + i) / 128) = false := by
  unfold MemOk; decide +kernel
theorem witness_storeScratch : Performable (st (gStore oScratch)) theGroup .st 0 0 0 (wOf (gStore oScratch)) (gStore oScratch) l0
    (entryOf .store oScratch) oScratch pieceAtScratch ∧ (st (gStore oScratch)).extQueue = [] := by unfold Performable; decide +kernel
/-- An attempt's store to a page of its own, whose entry is there. -/
def pieceTx : Piece := { pieceAtData with target := .phys 0x80008 .s true false }
def oTx : LaneOp := laneOp pieceTx 0x100008
def lAttempt : Launch := { l0 with lrec := { l0.lrec with ntxn := false } }
def txEntry : Overlay :=
  { ctx := 0, lid := 0, ver := 1, ticket := none, part := 8, frame := some (Config.reserveBase + 65536), lines := [], bytes := []
    discarded := false, pending := false }
def attempting : State := { st (gStore oTx) with launches := [lAttempt], overlays := [txEntry] }
theorem witness_storeAttempt : Performable attempting theGroup .st 0 0 0 (wOf (gStore oTx)) (gStore oTx) lAttempt
      (entryOf .store oTx) oTx pieceTx ∧ attempting.isCovered 0 0x80008 true true = false ∧ overlayOf lAttempt true = some 0 ∧
    attempting.extQueue = [] ∧ MemOk attempting ∧ 0x80008 + 4 ≤ Config.reserveBase ∧ 0x80008 % 65536 + 4 ≤ 65536 ∧
    attempting.ownEntry? 0 0x80008 = some txEntry ∧ txEntry.frame = some (Config.reserveBase + 65536) ∧
    ∀ i ∈ List.range 4, attempting.sealedFor 0 ((Config.reserveBase + 65536 + (0x80008 + i) % 65536) / 128) = false := by
  unfold Performable MemOk; decide +kernel
theorem witness_storePerformable : Performable (st (gStore oUncached)) theGroup .st 0 0 0 (wOf (gStore oUncached)) (gStore oUncached) l0
    (entryOf .store oUncached) oUncached pieceUncached := by unfold Performable; decide +kernel

/-- Host memory whose owner answers with a completion error. -/
def pieceHost : Piece := { pieceAtData with target := .phys 0x4000000000008 .s false false }
def oHost : LaneOp := laneOp pieceHost 0x100008
def refusedHost : State := { st (gLoads oHost) with refusing := [(0x400000000, 2)] }
theorem witness_refused : Performable refusedHost theGroup .ld 0 0 0 (wOf (gLoads oHost)) (gLoads oHost) l0
      (entryOf (.load true) oHost) oHost pieceHost ∧ paClass 0x4000000000008 ≠ 0 ∧
    refusedHost.refusing.find? (fun x => x.1 == partOf 0x4000000000008) = some (partOf 0x4000000000008, 2) := by
  unfold Performable; decide +kernel
theorem witness_refusedStore : Performable { st (gStore oHost) with refusing := [(0x400000000, 2)] } theGroup .st 0 0 0
      (wOf (gStore oHost)) (gStore oHost) l0 (entryOf .store oHost) oHost pieceHost ∧
    (st (gStore oHost)).isCovered 0 0x4000000000008 false true = false := by
  unfold Performable; decide +kernel

/-! ### Frames: exec answers a next state -/

def goesOn (o : Host.Outcome State Fault Refusal) : Bool :=
  match o with
  | .next _ => true
  | _ => false
theorem next_of {o : Host.Outcome State Fault Refusal} (h : goesOn o = true) : ∃ t, o = .next t := by
  cases o with
  | next t => exact ⟨t, rfl⟩
  | _ => cases h
theorem witness_laneFrame : (∃ t, exec (.aAdd 0 fromS0) base = .next t) ∧ ∃ t, exec (.bfFft4e fromS0) base = .next t :=
  ⟨next_of (by decide +kernel), next_of (by decide +kernel)⟩
theorem witness_moveFrame : (∃ t, exec (.moveVector 1 126 fromS0) base = .next t) ∧ (∃ t, exec (.moveScalarGuard 63 fromS0) base = .next t) ∧
    (∃ t, exec (.moveScalarGuard 79 fromS0) base = .next t) ∧ ∃ t, exec (.moveOperand 4 0 fromS0) base = .next t :=
  ⟨next_of (by decide +kernel), next_of (by decide +kernel), next_of (by decide +kernel), next_of (by decide +kernel)⟩
theorem witness_queueFrame : (∃ t, exec (.ldL32 fromS0) (data 0x0C 0xFFFC 8) = .next t) ∧ (∃ t, exec (.ldS64 fromS0) (data 0x0C 8 0) = .next t) ∧
    ∃ t, exec (.amCas fromS0) (data 0x10 3 0) = .next t :=
  ⟨next_of (by decide +kernel), next_of (by decide +kernel), next_of (by decide +kernel)⟩

/-! ### Bundles that are refused -/

/-- A second x0 trigger at once, a vector register beyond the 64 that are declared, and an empty result port. -/
def gX0 : Group := { g0 with x0cnt := 0 }
theorem witness_x0TooSoon : find (st gX0) fromS0 (trig 9 4) (fun f => leadingB f && !f.g.handler &&
    loneCheck f.g f.l f.m f.dest == .trap (precise 0x02 8 0)) = true := by decide +kernel
theorem witness_x0Premise : gX0.loop.active = false ∧ (decodeDest (trig 0x09 4)) matches .ok (.trigger 9 4) ∧ gX0.x0cnt < 3 ∧
    bundleError gX0.advance (loneBundle (mvWord fromS0 (trig 0x09 4))) = none := by decide +kernel
def gFew : Group := { g0 with lanes := g0.lanes.map fun x => { x with vregs := x.vregs.take 64 } }
theorem witness_beyond : find (st gFew) fromS0 0x040 (fun f => leadingB f && !f.g.handler &&
    loneCheck f.g f.l f.m f.dest == .trap (precise 0x02 3 0)) = true := by decide +kernel
theorem witness_beyondPremise : gFew.loop.active = false ∧ fromS0.g = false ∧ gFew.vregCount ≤ 128 * (0 : BitVec 1).toNat + (64 : BitVec 7).toNat := by
  decide +kernel
theorem witness_waits_empty : find (st { gLdr with ldr := [{ queuedLoad with full := 0 }] }) fromLd 0x200 (fun f => leadingB f && !f.g.handler &&
    loneCheck f.g f.l f.m f.dest == .wait) = true := by decide +kernel

end Sys2Proof.Tests
end

