-- ==== Sys2Proof/Tests/WitRemote.lean ====
section
/-!
SUPPORT. WitRemote: for every rule about covered operations, counters, the driver, the host and the platform that has a premise, a
state that meets it.
-/

set_option Elab.async false

namespace Sys2Proof.Tests

open Sys2Proof.Machine Sys2Proof.Claims

/-! ### At the home -/

def home1 : HomeId := ⟨0, 1⟩
def ref5 : OpRef := ⟨g0.ident, 5⟩
def packetOf (k : PktKind) : Packet := { pid := 3, ref := ref5, home := home1, slice := 2, sentAt := 0, port := none, kind := k }
def receiving (k : PktKind) : State := { base with packets := [packetOf k] }
def kept (serial : Nat) : RCEntry := { home := home1, slice := 2, ref := ⟨g0.ident, serial⟩, inc := 1, status := 0, val := 7, flag := true, retire := none }
def storePiece : PieceRef := { g := theGroup, q := .st, id := 0, lane := 0, piece := 0 }
def storeBody : HomeOp :=
  { ctx := 0, core := ⟨0, 0⟩, own := none, pa := 0x50008, len := 4, kind := .r, c := false, am := none, t := 0xAB, b := 0, ver := 0 }
def covOf (st : OpSt) (pred : Option Nat) : CovOp :=
  { ref := ref5, ctx := 0, die := 0, home := home1, slice := 2, stamp := 1, pred := pred, body := .access storePiece storeBody, st := st
    due := 0, firstSent := 0, lastSent := 0, interval := 16000, answered := false, nonBusy := false, incCause := false }
def sending (k : PktKind) (o : CovOp) : State := { receiving k with covOps := [o] }

theorem witness_arrives (k : PktKind) (o : CovOp) : (sending k o).packets.find? (fun x => x.pid == 3) = some (packetOf k) ∧
    (sending k o).time ≤ (packetOf k).sentAt + packetLife ∧ (sending k o).deliverable (packetOf k) = true ∧ ref5.ident < 2 ^ 30 ∧
    (sending k o).holds = [] := by
  refine ⟨rfl, ?_, ?_, ?_, ?_⟩
  · show base.time ≤ 0 + packetLife
    decide +kernel
  · show (home1.device == base.plat.devNum) = true
    decide +kernel
  · decide +kernel
  · show base.holds = []
    decide +kernel
/-- A packet over a link is the first of its lane on an open port. -/
def linked : Packet := { packetOf (.notice 5) with port := some 3 }
theorem witness_linked : ({ base with packets := [linked], ports := [{ num := 3, up := true, stop := [0], replays := 0 }] } : State).deliverable linked =
    true := by decide +kernel
theorem witness_request : (sending (.request 1 none 5) (covOf .sent none)).request? ref5 = some (.access storePiece storeBody, 0) := by decide +kernel
theorem witness_stale : (sending (.request 9 none 0) (covOf .sent none)).homeInc home1 ≠ some 9 := by decide +kernel
theorem witness_reserved : 2 ^ 30 ≤ ({ packetOf (.request 1 none 5) with ref := ⟨2 ^ 31, 5⟩ } : Packet).ref.ident := by decide +kernel
theorem witness_repeat : (sending (.request 1 none 0) (covOf .sent none)).homeInc home1 = some 1 ∧
    ({ sending (.request 1 none 0) (covOf .sent none) with results := [kept 5] } : State).cached? home1 2 ref5 = some (kept 5) := by decide +kernel
theorem witness_hold : (sending (.request 1 (some 4) 4) (covOf .sent (some 4))).homeInc home1 = some 1 ∧
    (sending (.request 1 (some 4) 4) (covOf .sent (some 4))).cached? home1 2 ref5 = none ∧
    (sending (.request 1 (some 4) 4) (covOf .sent (some 4))).request? ref5 = some (.access storePiece storeBody, 0) ∧
    (sending (.request 1 (some 4) 4) (covOf .sent (some 4))).queuedAtCounter ref5 = false ∧
    (sending (.request 1 (some 4) 4) (covOf .sent (some 4))).cached? home1 2 ⟨g0.ident, 4⟩ = none ∧ serialLater 4 4 = false := by decide +kernel
/-- The line's owner state is not in the way of an uncached store. -/
theorem witness_execute : ∃ st v f u, (sending (.request 1 none 5) (covOf .sent none)).cacheRoom home1 2 = true ∧
    (sending (.request 1 none 5) (covOf .sent none)).execBody ref5 (.access storePiece storeBody) 0 = .answer st v f u ∧ u.holds = [] := by
  have h : (match (sending (.request 1 none 5) (covOf .sent none)).execBody ref5 (.access storePiece storeBody) 0 with
    | .answer _ _ _ u => u.holds == []
    | _ => false) = true := by decide +kernel
  have h0 : (sending (.request 1 none 5) (covOf .sent none)).cacheRoom home1 2 = true := by decide +kernel
  split at h
  · rename_i st v f u hu
    exact ⟨st, v, f, u, h0, hu, by simpa using h⟩
  · cases h
theorem witness_full : ({ receiving (.request 1 none 0) with results := (List.range 512).map (fun k => kept (k + 6)) } : State).cacheRoom home1 2 =
    false := by decide +kernel
theorem witness_kept : base.cached? home1 2 ref5 = none := by decide +kernel
/-- A requester of this device, and one of device 7. -/
theorem witness_reply : identDev ref5.ident = base.plat.devNum ∧ identDev (identOf 7 0 0 1 0 0) ≠ base.plat.devNum ∧ base.covOps = [] := by decide +kernel

/-! ### At the requester -/

theorem witness_late : (receiving (.answer 0 7 true false)).covOps.find? (fun x => x.ref == ref5) = none := by decide +kernel
theorem witness_response : (sending (.answer 0 7 true false) (covOf .sent none)).covOps.find? (fun x => x.ref == ref5) = some (covOf .sent none) ∧
    (covOf .sent none).body = .access storePiece storeBody ∧ (sending (.answer 0 7 true false) (covOf .sent none)).wg? 0 = some w0 ∧
    w0.out = false ∧ (covOf .sent none).st = .sent := by decide +kernel
theorem witness_timers : ∀ st ∈ [OpSt.sent, .quiet],
    Outstanding { sending (.answer 0 7 true false) (covOf st none) with time := 100000000 } ref5 (covOf st none) ∧
    (covOf st none).due ≤ 100000000 ∧ (covOf st none).firstSent + 100000000 ≤ 100000000 ∧ (covOf st none).lastSent + 1000000 ≤ 100000000 := by
  unfold Outstanding
  decide +kernel
def tracked : Tracked := { home := home1, slice := 2, since := 0 }
def gTracked : Group := { g0 with tracked := [tracked] }
theorem witness_noticeTimer : ({ st gTracked with time := 16000 } : State).trackedOf g0.ident = [tracked] ∧
    ({ st gTracked with time := 16000 } : State).time = tracked.since + 16000 := by decide +kernel
theorem witness_entryRetire : { kept 5 with retire := some 0 } ∈ ({ base with results := [{ kept 5 with retire := some 0 }] } : State).results ∧
    0 ≤ base.time := by decide +kernel
theorem witness_ageDrop : (packetOf (.notice 5)).sentAt + 1000000 < ({ receiving (.notice 5) with time := 2000000 } : State).time := by decide +kernel

/-! ### Restarts -/

theorem witness_restart : 3 < 4 ∧ base.incs[3]? = some 1 ∧ home1.device = base.plat.devNum ∧ base.incs[home1.die]? = some 1 := by decide +kernel
/-- The home of a peer, known to die 2 with incarnation 5. -/
def peerHome7 : HomeId := ⟨7, 3⟩
def knowing : State := { base with incTable := [(2, peerHome7, 5)], peerIncs := [(peerHome7, 5)] }
theorem witness_peerIncarnation : peerHome7.device ≠ knowing.plat.devNum ∧ (knowing.incOf 2 peerHome7).isSome = true ∧
    knowing.homeInc peerHome7 = some 5 ∧ serialLater 5 6 = true := by decide +kernel
theorem witness_bringUp : (∀ n ∈ [1, 2, 3, 65535], 1 ≤ n ∧ n < 2 ^ 16) ∧ 7 < 1024 ∧ 7 ≠ base.plat.devNum ∧
    ∀ x ∈ base.contexts, 7 ∉ x.awaitPeers := by decide +kernel

/-! ### Counters -/

def take : PieceRef := { g := theGroup, q := .am, id := 0, lane := 0, piece := 0 }
def counter : Counter :=
  { word := 0x50008, ctx := 0, h := 1000, g := 2, st := .live, rr := 0, ovf := false, dies := [], cores := [], inflight := [], waiting := []
    round := 0, cached := true, recallDies := [], recallCores := [], visited := [] }
def counted (c : Counter) : State := { base with counters := [c] }
def die0 : DieAllow := { die := 0, f := 5, sd := 16, lastGrant := none }
def core0of : CoreAllow := { core := ⟨0, 0⟩, c := 9, sc := 4, lastReq := none }
def oTake : LaneOp :=
  newLaneOp 0 0x100008 [{ (Piece.new (.phys 0x50008 .s false true) 0 8) with sent := true }] 3 0 0 false
def gTake : Group := { g0 with amq := [{ id := 0, op := .atomic .actake, size := 8, pc := 0, lanes := [oTake], popped := false }] }
/-- Its line is at hand. -/
def lineHere (c : Counter) (die : Nat) : Bool := ((counted c).ctrLine 0 0x50008 die c.cached).2
theorem line_of {c : Counter} {die : Nat} (h : lineHere c die = true) : ∃ t, (counted c).ctrLine 0 0x50008 die c.cached = (t, true) := by
  unfold lineHere at h
  exact ⟨((counted c).ctrLine 0 0x50008 die c.cached).1, by rw [← h]⟩

theorem witness_grant : ∃ t, (counted { counter with waiting := [.grant 0 3 3 (.lane take)] }).counter? 0x50008 =
      some { counter with waiting := [.grant 0 3 3 (.lane take)] } ∧ counter.word = 0x50008 ∧ counter.st = .live ∧ counter.round = 0 ∧
    3 ≤ counter.h ∧ (counted { counter with waiting := [.grant 0 3 3 (.lane take)] }).ctrLine 0 0x50008 0 counter.cached = (t, true) := by
  obtain ⟨t, ht⟩ := line_of (c := { counter with waiting := [.grant 0 3 3 (.lane take)] }) (die := 0) (by decide +kernel)
  exact ⟨t, by decide +kernel, by decide +kernel, by decide +kernel, by decide +kernel, by decide +kernel, ht⟩
theorem witness_homeTake : ∃ t, (counted { counter with waiting := [.op .actake 3 0 0 (.lane take)] }).counter? 0x50008 =
      some { counter with waiting := [.op .actake 3 0 0 (.lane take)] } ∧ (3 : W64).toNat % 2 ^ 32 ≤ counter.h ∧
    (counted { counter with waiting := [.op .actake 3 0 0 (.lane take)] }).ctrLine 0 0x50008 0 counter.cached = (t, true) := by
  obtain ⟨t, ht⟩ := line_of (c := { counter with waiting := [.op .actake 3 0 0 (.lane take)] }) (die := 0) (by decide +kernel)
  exact ⟨t, by decide +kernel, by decide +kernel, ht⟩
/-- A take of three that waits at die 0, with the grant that has come. -/
def waits3 : TakeWait := { ctx := 0, die := 0, word := 0x50008, core := 0, n := 3, give := false, p := take, since := some 0, asked := true, granted := some 40 }
def granted : State := { st gTake with counters := [{ counter with dies := [die0] }], takes := [waits3] }
def withF : State := granted.modCounter 0x50008 fun c => c.modDie 0 fun d => { d with f := d.f + 40 }
theorem witness_takeGrant : granted.takes.find? (fun x => x.word == 0x50008 && x.die == 0 && x.granted.isSome) = some waits3 ∧
    waits3.granted = some 40 ∧ granted.counter? 0x50008 = some { counter with dies := [die0] } ∧ counter.st ≠ .poisoned ∧
    granted.roomDie 0x50008 0 = some granted ∧ granted.roomCore 0x50008 ⟨0, 0⟩ = some granted ∧ (withF.pieceAt take).isSome = true ∧
    (withF.refillTake 0x50008 ⟨0, 0⟩ 3 (some 0)).isSome = true := by decide +kernel
def both : Counter := { counter with dies := [die0], cores := [core0of] }
theorem witness_refill : (counted both).counter? 0x50008 = some both ∧ both.core? ⟨0, 0⟩ = some core0of ∧ both.die? 0 = some die0 ∧
    12 ≤ core0of.c + die0.f := by decide +kernel
theorem witness_recall : (counted { counter with dies := [die0], recallDies := [0] }).counter? 0x50008 =
      some { counter with dies := [die0], recallDies := [0] } ∧ ({ counter with dies := [die0] } : Counter).die? 0 = some die0 ∧
    (counted { counter with dies := [die0], recallDies := [0] }).grantComing 0x50008 0 = false := by decide +kernel
theorem witness_recallCore : ⟨0, 0⟩ ∈ ({ counter with cores := [core0of], recallCores := [⟨0, 0⟩] } : Counter).recallCores ∧
    ({ counter with cores := [core0of], recallCores := [⟨0, 0⟩] } : Counter).core? ⟨0, 0⟩ = some core0of ∧
    (counted { counter with cores := [core0of], recallCores := [⟨0, 0⟩] }).grantComing 0x50008 0 = false := by decide +kernel
theorem witness_return : ∃ t, (counted { counter with inflight := [(1, 9, none)] }).counter? 0x50008 = some { counter with inflight := [(1, 9, none)] } ∧
    ((counted { counter with inflight := [(1, 9, none)] }).homeOf 0x50008).1.die = 1 ∧
    (counted { counter with inflight := [(1, 9, none)] }).ctrLine 0 0x50008 1 counter.cached = (t, true) := by
  obtain ⟨t, ht⟩ := line_of (c := { counter with inflight := [(1, 9, none)] }) (die := 1) (by decide +kernel)
  exact ⟨t, by decide +kernel, by decide +kernel, ht⟩
theorem witness_returnSend : 2 ≠ (base.homeOf 0x50008).1.die ∧ base.windowOpen (base.cacheIdent 0 2) = true ∧
    (base.incOf 2 (base.homeOf 0x50008).1).isSome = true := by decide +kernel
theorem witness_saturate : (counted { counter with h := 2 ^ 63 - 1 }).counter? 0x50008 = some { counter with h := 2 ^ 63 - 1 } := by decide +kernel
theorem witness_coreTake : (counted { counter with cores := [core0of] }).counter? 0x50008 = some { counter with cores := [core0of] } ∧
    counter.st = .live ∧ ({ counter with cores := [core0of] } : Counter).core? w0.core = some core0of ∧ 9 ≤ core0of.c ∧
    (counted { counter with cores := [core0of] }).coreBusy 0x50008 w0.core = false := by decide +kernel

/-! ### Contexts and commands -/

theorem witness_enable : 5 < Config.numContexts ∧ base.plat.released = true ∧ (base.ctx 5).en = false ∧ (base.ctx 5).awaitSlices = [] ∧
    (base.ctx 5).awaitPeers = [] ∧ (base.ctx 5).disabledAt = none ∧ ∀ o ∈ base.overlays, o.ctx ≠ 5 := by decide +kernel
theorem witness_enableHeld : ((base.modCtx 5 fun c => { c with awaitSlices := [⟨0, 0⟩] }).ctx 5).en = false ∧
    ((base.modCtx 5 fun c => { c with awaitSlices := [⟨0, 0⟩] }).ctx 5).awaitSlices ≠ [] := by decide +kernel
/-- A write of 1 is held, and the time has passed or has not. -/
def heldCtx : State := base.modCtx 5 fun c => { c with heldEn := some ⟨none⟩, disabledAt := some 0 }
theorem witness_heldEnable : (heldCtx.ctx 5).heldEn = some ⟨none⟩ ∧ (heldCtx.ctx 5).awaitSlices = [] ∧ (heldCtx.ctx 5).awaitPeers = [] ∧
    (heldCtx.ctx 5).disabledAt = some 0 ∧ 0 + 1000000 ≤ ({ heldCtx with time := 1000000 } : State).time ∧ heldCtx.time < 0 + 1000000 := by
  decide +kernel
theorem witness_disableBusy : base.plat.released = true ∧ base.hasWork 0 = true := by decide +kernel
theorem witness_disable : ({ base with launches := [], wgs := [], streams := [{ base.strm 0 with ctx := 1 }] } : State).hasWork 0 = false ∧
    (({ base with launches := [], wgs := [], streams := [{ base.strm 0 with ctx := 1 }] } : State).ctx 0).en = true ∧
    ∀ c ∈ ({ base with launches := [], wgs := [] } : State).counters, c.ctx ≠ 0 := by decide +kernel
theorem witness_drop : (⟨1, 2⟩ : SliceId) ∈ ((base.modCtx 5 fun c => { c with awaitSlices := [⟨1, 2⟩] }).ctx 5).awaitSlices := by decide +kernel
def silent : State :=
  { (base.modCtx 5 fun c => { c with awaitPeers := [7], disabledAt := some 0 }) with time := 100000000, routes := [(7, 1)] }
theorem witness_dropTimeout : 7 ∈ (silent.ctx 5).awaitPeers ∧ (silent.ctx 5).disabledAt = some 0 ∧ 0 + 100000000 ≤ silent.time ∧
    7 ∉ (silent.ctx 5).givenUp := by decide +kernel
theorem witness_register : 127 < Config.numContexts ∧ (base.ctx 0).en = true ∧ (base.ctx 127).en = false ∧ Config.numContexts ≤ 128 := by decide +kernel
theorem witness_timeset : (∀ c ∈ State.reset.contexts, c.en = false) ∧ base.ctx 0 ∈ base.contexts ∧ (base.ctx 0).en = true ∧
    base.plat.lastPps.getD 0 + 2000000000 ≤ ({ base with time := 2000000000 } : State).time := by decide +kernel
theorem witness_command : base.plat.released = true ∧ base.cmd.busy = false ∧
    ({ base with cmd := { base.cmd with busy := true, op := 3 } } : State).cmd.busy = true := by decide +kernel
theorem witness_free : (0x50000 : W64).toNat % 65536 = 0 ∧ 0x50000 + 65536 ≤ Config.reserveBase ∧ base.counters = [] ∧ base.overlays = [] ∧
    (0x50001 : W64).toNat % 65536 ≠ 0 ∧ counter ∈ (counted counter).counters ∧ partOf counter.word = 5 := by decide +kernel
theorem witness_debug : base.debugTarget 0 (w64 (g0.slot * 16 + g0.entry)) = some theGroup ∧ base.debugTarget 1 0 = none := by decide +kernel
/-- The header of a code object that can be read. -/
theorem witness_attest : ∃ hs u, State.codeHashes 0 [w64 loadCode] base = .ok (hs, u) := by
  have h : (match State.codeHashes 0 [w64 loadCode] base with
    | .ok _ => true
    | .error _ => false) = true := by decide +kernel
  split at h
  · rename_i x hx
    exact ⟨x.1, x.2, hx⟩
  · cases h
theorem witness_boot : State.reset.plat.released = false ∧ State.reset.cmd.busy = false ∧ State.reset.incs.length = 4 ∧
    State.reset.plat.fwMin ≤ (⟨true, 3, []⟩ : FwImage).version := by decide +kernel

/-! ### Isolation, outside accesses, links, platform -/

theorem witness_freeze : State.reset.wgs = [] ∧ ((base.modCore ⟨0, 0⟩ fun k => { k with copyFrozen := true, slotsFrozen := [2] }).core ⟨0, 0⟩).copyFrozen =
    true ∧ 2 ∈ ((base.modCore ⟨0, 0⟩ fun k => { k with copyFrozen := true, slotsFrozen := [2] }).core ⟨0, 0⟩).slotsFrozen := by decide +kernel
def vf1 : VfBind := { num := 1, tenants := [0], apctx := 0, hce := false, frozen := false }
/-- Virtual address 0 of context 0 is mapped. -/
def apertured : State :=
  let mem := ((base.mem.writeNat loadRoot 8 0x200001).writeNat 0x200000 8 0x204001).writeNat 0x204000 8 0x208001
  { base with mem := mem.writeNat 0x208000 8 0x5602B, vfs := [vf1] }
theorem witness_host : ∃ pas t, apertured.vfs.find? (fun v => v.num == 1) = some vf1 ∧ vf1.apctx ∈ vf1.tenants ∧ (apertured.ctx 0).en = true ∧
    apertured.plat.released = true ∧ 8 + extLen (.write [1, 2, 3]) ≤ 2 ^ 36 ∧ hostKind (.write [1, 2, 3]) = true ∧
    State.aperture 0 8 (extWrites (.write [1, 2, 3])) (extLen (.write [1, 2, 3])) apertured = .ok (pas, t) := by
  have h : (match State.aperture 0 8 (extWrites (.write [1, 2, 3])) (extLen (.write [1, 2, 3])) apertured with
    | .ok _ => true
    | .error _ => false) = true := by decide +kernel
  split at h
  · rename_i x hx
    exact ⟨x.1, x.2, by decide +kernel, by decide +kernel, by decide +kernel, by decide +kernel, by decide +kernel, by decide +kernel, hx⟩
  · cases h
theorem witness_hostRegister : 0 ∈ vf1.tenants ∧ 5 ∉ vf1.tenants ∧ vf1.frozen = false ∧ 0 < Config.numContexts := by decide +kernel
theorem witness_hostRefused : (({ base with vfs := [{ vf1 with frozen := true }] } : State).vfs.find? (fun v => v.num == 1)).map (·.frozen) = some true ∧
    ({ base with vfs := [vf1] } : State).vfs.find? (fun v => v.num == 1) = some vf1 ∧ vf1.frozen = false ∧ 5 ∉ vf1.tenants := by decide +kernel
def xport : ExportEntry := { num := 0, v := true, r := true, w := false, a := false, base := 5, len := 1, dev := 7, dmask := 1023 }
theorem witness_peer : 7 ∉ base.frozenPeers ∧ base.exports.any (fun e => e.admits 7 ⟨0x50008, .read 8⟩) = false ∧
    ({ base with exports := [xport] } : State).exports.any (fun e => e.admits 7 ⟨0x50008, .read 8⟩) = true ∧ xport.v = true ∧ base.peerSeq 7 = 0 ∧
    0x50008 + extLen (.read 8) ≤ Config.localBytes ∧ base.plat.released = true ∧ base.admitted 7 ⟨0x50008, .read 8⟩ = false := by decide +kernel
/-- A read from outside is answered at once where nothing waits before it. -/
def readOut : ExtWait := { src := .peer 7, ctx := none, pas := [0x50008], kind := .read 1, head := none }
theorem witness_extAccess : ∃ st answer flag t, base.extQueue = [] ∧ ({ base with extQueue := [readOut] } : State).extDo readOut =
    .done st answer flag t ∧ t.extQueue = [readOut] := by
  have h : (match ({ base with extQueue := [readOut] } : State).extDo readOut with
    | .done _ _ _ t => t.extQueue == [readOut]
    | .wait _ => false) = true := by decide +kernel
  split at h
  · rename_i st answer flag t ht
    exact ⟨st, answer, flag, t, by decide +kernel, ht, by simpa using h⟩
  · cases h
theorem witness_extWrite : MemOk State.reset ∧ State.reset.parts = [] ∧ State.reset.overlays = [] ∧ State.reset.counters = [] ∧ State.reset.units = [] ∧
    State.reset.leafWalks = [] ∧ State.reset.rawUnits = [] ∧ State.reset.unitKeys = [] ∧ State.reset.wgs = [] ∧ State.reset.regions = [] ∧ State.reset.regionInvals = [] ∧ State.reset.extQueue = [] ∧
    State.reset.early = [] ∧ 0x50008 < Config.reserveBase := by unfold MemOk; decide +kernel
theorem witness_portFailure : ({ base with ports := [{ num := 3, up := true, stop := [], replays := 0 }] } : State).ports.any
    (fun p => p.num == 3 && p.up) = true := by decide +kernel
/-- A read of stored bytes, and an access above local memory. -/
theorem witness_cxl : base.plat.released = true ∧ 0x50000 + 8 ≤ Config.reserveBase ∧ base.overlays = [] ∧ base.extQueue = [] ∧ base.early = [] ∧
    Config.reserveBase < 2 ^ 49 + extLen (.read 8) := by decide +kernel
/-- A master in whose hand the workgroup is: a copy engine with a running job, and the slot of its group. -/
def copying : CopyJob := copyJob { a := 0, b := 0, c := 0, d := 2 } 0 0 0 0xFF000000000040 0xFF000000000080 0 4 0
def gCopying : Group :=
  { g0 with chans := [{ jobs := [copying], written := 0 }] }
theorem witness_frozenWg : ∀ g ∈ [g0, gCopying], (st g).wgs = [wOf g] ∧ (wOf g).out = false ∧ (wOf g).retired = false ∧
    (st g).launch? (wOf g).lid = some l0 ∧ (wOf g).groups = [g] ∧ g.slot = g0.slot := by
  intro g hg
  refine ⟨rfl, by show w0.out = false; decide +kernel, by show w0.retired = false; decide +kernel, ?_, rfl, ?_⟩
  · show base.launch? w0.lid = some l0
    decide +kernel
  · rcases List.mem_cons.1 hg with rfl | hg
    · rfl
    · rcases List.mem_cons.1 hg with rfl | hg
      · rfl
      · cases hg
theorem witness_frozenCopy : gCopying.chans = [{ jobs := [copying], written := 0 }] ∧ ({ jobs := [copying], written := 0 } : Channel).jobs ≠ [] := by
  decide +kernel
/-- A power level above the cap, and one that is not. -/
theorem witness_power : base.plat.pcap < (2 ^ 32 - 1) % 2 ^ 32 ∧ (0 : Nat) < min 15 (base.plat.gate + 1) ∧ 0 % 2 ^ 32 ≤ base.plat.pcap := by decide +kernel
/-- A launch that waits in its queue. -/
def lQueued : Launch := { l0 with phase := .queued, retired := 0, nextWg := 0 }
theorem witness_killAll : ({ base with launches := [lQueued], wgs := [] } : State).launches = [lQueued] ∧
    ({ base with launches := [lQueued], wgs := [] } : State).wgs = [] ∧ lQueued.phase = .queued := ⟨rfl, rfl, rfl⟩
theorem witness_reset : base.incs.length = 4 ∧ State.reset.launches = [] := by decide +kernel

end Sys2Proof.Tests
end

section
/-!
PROOF. Events: how a step of the device that has no encoding is run; for the proofs of the statements about such steps.
-/

namespace Sys2Proof.Claims

open Sys2Proof.Machine

/-- A step that has something to do answers the state it makes (log 22). -/
theorem next_of_orStay {i : Instr} {s t : State} {o : Option State} (hi : exec i s = orStay s o) (ho : o = some t) : Next i s t := by
  rw [Next, hi, ho]
  rfl

end Sys2Proof.Claims
end

section
/-!
PROOF. Units: the steps of the copy engine, the queue unit, Encke and the barriers (R105, R311, R315, R322, R324, R328, R346).
-/

namespace Sys2Proof.Claims

open Sys2Proof.Machine

/-! ### Copies (R311, R315) -/

/-- What a raced context's accesses may do beside their own effect does not arise (R94). -/
theorem stray_of_not_raced {s : State} {ctx : Nat} (h : (s.ctx ctx).raced = false) : s.stray ctx = s := by
  simp only [State.stray, h, Bool.not_false, if_true]

/-- Its data are what they are (R94). -/
theorem racedWord_of_not_raced {s : State} {ctx : Nat} (h : (s.ctx ctx).raced = false) (v : W64) : s.racedWord ctx v = (v, s) := by
  simp only [State.racedWord, h, if_false, Bool.false_eq_true]

/-- A copy that may go on is held by none of the checks of COPY_ELEMENT. -/
theorem notHeld_of_copies {s : State} {r : GRef} {ch : Nat} {w : Workgroup} {g : Group} {l : Launch} {who : Who} {j : CopyJob}
    (h : Copies s r ch w g l who j) :
    (w.out || w.retired || l.phase != .running || (s.core w.core).copyFrozen || s.coreStopped w.core ||
      (s.core w.core).fw.any (fun (f : FwFault) => f.g == r && f.chan == some ch && !f.expired) || !g.performedBefore j.trig) = false := by
  obtain ⟨-, hout, hretired, hphase, hfrozen, hstopped, hfw, hbefore⟩ := h
  simp [hout, hretired, hphase, hfrozen, hstopped, hfw, hbefore]

theorem copyElementRule : CopyElementRule := by
  intro s r ch w g l who j v t u hcopies hnote hraced hv hread hraced' hwrite
  have hvalue : (w64 v).toNat = v := by rw [w64, BitVec.toNat_ofNat, Nat.mod_eq_of_lt hv]
  refine next_of_orStay rfl ?_
  simp only [hcopies.1, notHeld_of_copies hcopies, hnote, stray_of_not_raced hraced, hread, racedWord_of_not_raced hraced', hvalue,
    hwrite, if_false, Bool.false_eq_true]

theorem copyUeRule : CopyUeRule := by
  intro s r ch w g l who j hcopies
  refine next_of_orStay rfl ?_
  simp only [hcopies.1, notHeld_of_copies hcopies, if_true, if_false, Bool.false_eq_true]

theorem takeoverRule : TakeoverRule := by
  intro s r ch w g l who j f hat hfault
  refine next_of_orStay rfl ?_
  simp only [hat, hfault]
  -- the end of the stop is stallOver by definition
  rfl

/-! ### Queues, phases, barriers (R105, R322 to R328, R346) -/

theorem queueArrivesRule : QueueArrivesRule := by
  intro s r w g o hw hg hoperation hout hbefore
  refine next_of_orStay rfl ?_
  simp only [hw, hg, hoperation, hout, hbefore, Bool.not_true, Bool.or_false, if_false, Bool.false_eq_true]

/-- The mask of an open is its low 24 bits (R324). -/
theorem openMask_eq (v : W64) : fld v 0 24 = v.toNat % 16777216 := by
  simp only [fld, bits, Nat.shiftRight_zero, Nat.reducePow]

/-- The mask of one core names that core alone. -/
theorem maskCores_two_pow : ∀ c < 24, maskCores (2 ^ c) = [c] := by decide

theorem phaseOpenRule : PhaseOpenRule := by
  intro s r w g v gs hw hg hwaits hout hvalid hopeners
  refine next_of_orStay rfl ?_
  simp only [hw, hg, hwaits, List.findSome?_cons, hout, openMask_eq, hvalid, hopeners, if_true, if_false, Bool.false_eq_true]
  simp

theorem brokenPhaseRule : BrokenPhaseRule := by
  intro s r w g v hw hg hwaits hout hcore hvalid hphase
  have hopener : s.opener w v w.core.core r = some r := by simp [State.opener, hphase]
  refine next_of_orStay rfl ?_
  simp [hw, hg, hwaits, hout, openMask_eq, hvalid, maskCores_two_pow _ hcore, hopener]

theorem phaseTimeoutRule : PhaseTimeoutRule := by
  intro s r g pid n p hg hphase hp hn hbroken
  refine next_of_orStay rfl ?_
  simp only [hg, Option.bind_some, hphase, hp, hbroken, Nat.not_lt.2 hn, decide_false, Bool.or_false, if_false, Bool.false_eq_true]

/-- The arrival that is performed was all that its group waited for. -/
theorem dropWaits_only {g : Group} {x : Wait} (h : g.waits = [x]) : g.dropWaits (· == x) = { g with waits := [] } := by
  simp [Group.dropWaits, drop, h]

theorem arrivalRule : ArrivalRule := by
  intro s r w g cluster n stay k b bar hw hg hwaits hat hbar hout hvalid hrem hbefore
  have hgoes : (w.out || !bar.valid || bar.rem == 0 || !g.performedBefore k) = false := by simp [hout, hvalid, hrem, hbefore]
  refine next_of_orStay rfl ?_
  simp only [hw, hg, hwaits, List.findSome?_cons, hat, hbar, hgoes, dropWaits_only hwaits, if_false, Bool.false_eq_true]
  rfl

/-- Settles O49: each step's checks pass under its rule's premises, so it answers the state it makes, which is the rule's. -/
theorem unitSteps : Obligations.UnitSteps :=
  ⟨copyElementRule, copyUeRule, takeoverRule, queueArrivesRule, phaseOpenRule, brokenPhaseRule, phaseTimeoutRule, arrivalRule⟩

end Sys2Proof.Claims
end

section
/-!
PROOF. Engine: the steps of the matrix engine (R360, R371 to R373, R377, R379, R384 to R388).
-/

namespace Sys2Proof.Claims

open Sys2Proof.Machine

/-! ### Commands begin and end (R104, R360, R377, R379, R384, R388) -/

theorem mxStartRule : MxStartRule := by
  intro s wg w c g hw hnext hout hretired hidle hfirst hg hbefore
  have hcommand : w.nest.next = some c := by
    rcases hnext with hrunning | ⟨hrunning, hready, -⟩ <;> simp [Nest.next, *]
  have hheld : w.engineHeld = false := by
    rcases hnext with hrunning | ⟨hrunning, -, hpreempt⟩ <;> simp [Workgroup.engineHeld, *]
  refine next_of_orStay rfl ?_
  simp only [hw, hcommand, hheld, hout, hretired, hidle, hg, hbefore, Option.isSome_none, Bool.or_false, Bool.false_or, Bool.not_true]
  -- what is left of the checks: no other workgroup of the core has an earlier command
  refine if_neg ?_
  simp only [List.any_eq_true, Bool.and_eq_true, beq_iff_eq, bne_iff_ne, Bool.not_eq_true']
  rintro ⟨x, hx, ⟨⟨⟨⟨hcore, hwid⟩, hxout⟩, hxretired⟩, hxheld⟩, hearlier⟩
  cases hd : x.nest.next with
  | none => simp [hd] at hearlier
  | some d =>
    have hle : c.order ≤ d.order := hfirst x hx hcore hwid hxout hxretired hxheld d hd
    simp [hd, Nat.not_lt.2 hle] at hearlier

/-- The slots of a nest of which those that run are changed. -/
theorem upd_running (f : NSlot → NSlot) (slots : List NSlot) :
    upd (·.st == .running) f slots = slots.map fun x => if x.st = .running then f x else x := by
  simp only [upd, beq_iff_eq]

theorem mxCompleteRule : MxCompleteRule := by
  intro s c w d hw hrunning hsteps htime
  have hovertime : s.overtime w = false := by simpa [State.overtime] using htime
  refine next_of_orStay rfl ?_
  simp only [hw, hrunning, hovertime, Nat.not_lt.2 hsteps, upd_running, apply_ite Nest.reopen, decide_false, Bool.or_false, if_false,
    Bool.false_eq_true]

theorem mxOvertimeRule : MxOvertimeRule := by
  intro s c w d hw hrunning htime
  have hovertime : s.overtime w = true := by simpa [State.overtime] using htime
  refine next_of_orStay rfl ?_
  simp only [hw, hrunning, hovertime, Bool.not_true, if_false, Bool.false_eq_true]

theorem bankZeroedRule : BankZeroedRule := by
  intro s wg bank w hw hzeroing
  refine next_of_orStay rfl ?_
  simp only [hw, hzeroing, if_true]
  rfl

/-! ### A step (R371, R372, R385 to R387) -/

/-- A step that the engine may make is made. -/
theorem exec_mxStep_of_mxSteps {s : State} {c : CoreId} {w : Workgroup} {d : NSlot} {k : MxKind} (h : MxSteps s c w d k) :
    exec (.mxStep c false) s = .next (s.mxDoStep w.wid false) := by
  have hovertime : s.overtime w = false := by simpa [State.overtime] using h.inTime
  refine next_of_orStay rfl ?_
  simp only [h.active, h.running, Nat.not_le.2 h.more, h.bank, hovertime, h.ordered, decide_false, Bool.or_false, if_false,
    Bool.false_eq_true]

theorem mxStepRule : MxStepRule := by
  intro s c w d k x h
  dsimp only
  intro hread hgood
  refine ⟨fun hdrains => ?_, fun u e hdrains hrows => ?_⟩ <;> rw [Next, exec_mxStep_of_mxSteps h, State.mxDoStep]
  · simp only [h.found, h.running, h.kind, hread, Nat.not_le.2 h.owned, hgood, hdrains, if_false, Bool.false_eq_true]
  · simp only [h.found, h.running, h.kind, hread, Nat.not_le.2 h.owned, hgood, hdrains, hrows, if_true, if_false, Bool.false_eq_true]
    cases e <;> rfl

theorem mxStepFaultRule : MxStepFaultRule := by
  intro s c w d k h
  dsimp only
  refine ⟨fun e hread => ?_, fun x i j hread hbad => ?_⟩ <;> rw [Next, exec_mxStep_of_mxSteps h, State.mxDoStep]
  · simp only [h.found, h.running, h.kind, hread, if_false, Bool.false_eq_true]
  · simp only [h.found, h.running, h.kind, hread, Nat.not_le.2 h.owned, hbad, if_false, Bool.false_eq_true]

/-! ### The values of a step (R372) -/

/-- Byte k of a row as an integer element. -/
def intElem (signed : Bool) (v k : Nat) : Int :=
  if signed then (BitVec.ofNat 8 (v / 256 ^ k)).toInt else ((v / 256 ^ k % 256 : Nat) : Int)

theorem bits_byte (v k : Nat) : bits v (8 * k) 8 = v / 256 ^ k % 256 := by
  simp only [bits, Nat.shiftRight_eq_div_pow, Nat.pow_mul, Nat.reducePow]

/-- A byte's two's-complement value. -/
theorem signedOf_byte (v : Nat) : signedOf 8 (v % 256) = (BitVec.ofNat 8 v).toInt := by
  simp only [signedOf, BitVec.toInt, BitVec.toNat_ofNat]
  split <;> split <;> omega

theorem rowInts_eq (signed : Bool) (v : Nat) : rowInts signed v = (List.range 4).map (intElem signed v) := by
  simp only [rowInts, bits_byte, signedOf_byte]
  rfl

/-- The dot product of two integer rows has four products. -/
theorem intDot_eq (sa sb : Bool) (a b : Nat) :
    ((rowInts sa a).zip (rowInts sb b)).foldl (fun (v : Int) p => v + p.1 * p.2) 0 =
      intElem sa a 0 * intElem sb b 0 + intElem sa a 1 * intElem sb b 1 + intElem sa a 2 * intElem sb b 2 +
        intElem sa a 3 * intElem sb b 3 := by
  simp [rowInts_eq, List.range_succ]

theorem stepValueRule : StepValueRule := by
  intro x acc i j a b hi hj ha hb
  have hcell : 128 * i + j < 16384 := by omega
  have hrow : (128 * i + j) / 128 = i := by omega
  have hcol : (128 * i + j) % 128 = j := by omega
  refine ⟨fun sa sb => ?_, fun fa fb => ?_, fun sa sb hsa hsb => ?_⟩
  · change _ = some (BitVec.ofInt 32 ((acc[128 * i + j]?.getD 0).toInt + intElem sa a 0 * intElem sb b 0 +
      intElem sa a 1 * intElem sb b 1 + intElem sa a 2 * intElem sb b 2 + intElem sa a 3 * intElem sb b 3))
    simp [stepWindowVals, hcell, hrow, hcol, ha, hb, intDot_eq, Int.add_assoc]
  · simp [stepWindowVals, hcell, hrow, hcol, ha, hb, cellFp]
  · simp [stepWindowVals, hcell, hrow, hcol, ha, hb, hsa, hsb, cellFp]

/-! ### The drain (R373) -/

/-- A bit of a command word is a field of one bit. -/
theorem bit_cw (ws : List W32) (k i : Nat) : bit (cw ws k).toNat i = decide (cf ws k i 1 = 1) := by
  simp [bit, cf, bits, Bool.beq_eq_decide_eq]

theorem drainRowRule : DrainRowRule := by
  refine ⟨fun s w ws k offD win vals i is outs hw houts => ?_, fun s w ws k offD win i j v p hplain hplace => ?_⟩
  · simp only [drainRows, hw, houts, bit_cw, decide_eq_true_eq]
    rfl
  · -- neither band factors nor a bias are read
    have hband : (k.isInt || cf ws 11 26 1 == 0) = true := by rcases hplain with h | ⟨h, -⟩ <;> simp [h]
    have hbias : (k.isInt || cf ws 11 27 1 == 0) = true := by rcases hplain with h | ⟨-, h⟩ <;> simp [h]
    simp only [State.drainElem, hband, hbias, if_true, bit_cw, pure_bind, hplace]
    rfl

/-- Settles O50: the steps' checks pass under their rules' premises; the window's values are read off the element's row and column. -/
theorem matrixSteps : Obligations.MatrixSteps :=
  ⟨mxStartRule, mxStepRule, stepValueRule, drainRowRule, mxStepFaultRule, mxCompleteRule, mxOvertimeRule, bankZeroedRule⟩

end Sys2Proof.Claims
end

section
/-!
PROOF. Links: what a failover of a port does to a packet of this device's own homes that goes by it (R417).
-/

namespace Sys2Proof.Claims

open Sys2Proof.Machine

/-- A packet as it goes on after the failover of its path: by the port that is in use then. -/
def rerouted (s : State) (p : Packet) : Packet := { p with port := p.port.bind fun _ => s.usePort p.home.device }

/-- The failover of the path of the only packet: it is lost, or goes on rerouted, or is doubled too; which, is left free (log 2). -/
theorem failover_packets {hit : Packet → Bool} {p : Packet} {s : State} (hhit : hit p = true) (hs : s.packets = [p]) :
    (failover hit [p] s).packets =
      if Config.freeChoice s.draws then []
      else if Config.freeChoice (s.draws + 1) then [rerouted s p, { rerouted s p with pid := s.nextPkt }]
      else [rerouted s p] := by
  cases hlost : Config.freeChoice s.draws with
  | true => simp [failover, hhit, State.choose, hlost, hs, State.dropPacket, drop]
  | false =>
    cases htwice : Config.freeChoice (s.draws + 1) with
    | true => simp [failover, hhit, State.choose, hlost, htwice, hs, upd, rerouted, State.usePort]
    | false => simp [failover, hhit, State.choose, hlost, htwice, hs, upd, rerouted, State.usePort]

/-- Whatever is left of it goes by the port that is in use then. -/
theorem port_of_mem_failover {hit : Packet → Bool} {p q : Packet} {s : State} (hhit : hit p = true) (hs : s.packets = [p])
    (hq : q ∈ (failover hit [p] s).packets) : q.port = (rerouted s p).port := by
  rw [failover_packets hhit hs] at hq
  split at hq
  · cases hq
  · split at hq
    · rcases List.mem_cons.1 hq with rfl | hq
      · rfl
      · obtain rfl := List.mem_singleton.1 hq
        rfl
    · obtain rfl := List.mem_singleton.1 hq
      rfl

/-- A notice for home 0 of this device that goes by fabric port 3. -/
def homeward : Packet where
  pid := 1
  ref := ⟨0, 0⟩
  home := ⟨State.reset.plat.devNum, 0⟩
  slice := 0
  port := some 3
  sentAt := 0
  kind := .notice 0

/-- The device at reset with its port 3 up or down, and that packet on it. -/
def homewardState (up : Bool) : State :=
  { State.reset with ports := [{ num := 3, up := up, stop := [], replays := 0 }], packets := [homeward] }

theorem exec_portFailure_homeward :
    exec (.linkPortFailure (.port 3)) (homewardState true) =
      .next ((failover (fun p => p.port == some 3) [homeward] (homewardState false)).note (.resentPosted 3)) := rfl

/-- The packet is lost or, there being no other port, goes on without one: in neither case is it still there as it was. -/
theorem not_portFailureRule : ¬ PortFailureRule := by
  intro h
  obtain ⟨t, hnext, -, hkept, -⟩ := h (homewardState true) 3 rfl
  obtain rfl := Host.Outcome.next.inj (exec_portFailure_homeward.symm.trans hnext)
  have hmem := hkept homeward (List.mem_singleton.2 rfl) rfl fun q hq _ => List.mem_singleton.1 hq
  have hport : homeward.port = (rerouted (homewardState false) homeward).port := port_of_mem_failover rfl rfl hmem
  exact absurd hport (by decide)

/-- Refutes O59: PortFailureRule has no premise that keeps a packet of this device's own homes off the failing port; one that goes by it is
lost or changes its port, whatever the free choices are. -/
theorem not_isolationAndPlatformSteps : ¬ Obligations.IsolationAndPlatformSteps := by
  rintro ⟨-, -, -, -, -, -, -, hportFailure, -⟩
  exact not_portFailureRule hportFailure

end Sys2Proof.Claims
end

section
/-!
PROOF. Remote: covered operations at their home slices and their requesters, their timers and notices, restarts and incarnations
(R141, R149, R151 to R156).
-/

namespace Sys2Proof.Claims

open Sys2Proof.Machine

/-! ### At the home (R149) -/

/-- An answer changes nothing but the packets, or the log. -/
theorem reply_keeps {β : Type} (p : State → β) (hpackets : ∀ s n ps, p { s with nextPkt := n, packets := ps } = p s)
    (hlog : ∀ s l, p { s with log := l } = p s) (s : State) (home : HomeId) (slice : Nat) (ref : OpRef) (status : Nat) (v : W64)
    (flag busy : Bool) : p (s.reply home slice ref status v flag busy) = p s := by
  unfold State.reply
  split
  · exact hpackets _ _ _
  · exact hlog _ _

@[simp] theorem reply_holds (s : State) (home : HomeId) (slice : Nat) (ref : OpRef) (status : Nat) (v : W64) (flag busy : Bool) :
    (s.reply home slice ref status v flag busy).holds = s.holds :=
  reply_keeps (·.holds) (fun _ _ _ => rfl) (fun _ _ => rfl) s home slice ref status v flag busy

/-- A kept result is answered; no held request is touched. -/
@[simp] theorem answer_holds (s : State) (home : HomeId) (slice : Nat) (ref : OpRef) (status : Nat) (v : W64) (flag : Bool) :
    (s.answer home slice ref status v flag).holds = s.holds := reply_holds _ home slice ref status v flag false

@[simp] theorem retireBelow_holds (s : State) (home : HomeId) (slice ident wm : Nat) :
    (s.retireBelow home slice ident wm).holds = s.holds := rfl

@[simp] theorem dropPacket_holds (s : State) (pkt : Nat) : (s.dropPacket pkt).holds = s.holds := rfl

/-- With no request held, none is taken after another. -/
theorem serveHolds_of_none_held {s : State} (h : s.holds = []) (n : Nat) : serveHolds n s = s := by
  cases n with
  | zero => rfl
  | succ n => simp [serveHolds, h]

/-- Within its lifetime and deliverable, a packet is not held back (R141, R416). -/
theorem notHeldBack {s : State} {p : Packet} (hlife : s.time ≤ p.sentAt + packetLife) (hdeliverable : s.deliverable p = true) :
    (!p.alive s.time || !s.deliverable p) = false := by
  simp [Packet.alive, hlife, hdeliverable]

/-- A request whose result is held takes that result. -/
theorem takeRequest_cached {s : State} {p : Packet} {stamp : Nat} {pred : Option Nat} {wm : Nat} {e : RCEntry}
    (hident : p.ref.ident < 2 ^ 30) (hinc : s.homeInc p.home = some stamp) (hcached : s.cached? p.home p.slice p.ref = some e) :
    s.takeRequest p stamp pred wm =
      ((s.reply p.home p.slice p.ref e.status e.val e.flag false).retireBelow p.home p.slice p.ref.ident wm, true) := by
  simp only [State.takeRequest, Nat.not_le.2 hident, hinc, bne_self_eq_false, hcached, if_false, Bool.false_eq_true]

/-- One that is new, has no predecessor and finds room is executed and answered. -/
theorem takeRequest_executed {s u : State} {p : Packet} {stamp wm : Nat} {body : OpBody} {die st : Nat} {v : W64} {f : Bool}
    (hident : p.ref.ident < 2 ^ 30) (hinc : s.homeInc p.home = some stamp) (hcached : s.cached? p.home p.slice p.ref = none)
    (hrequest : s.request? p.ref = some (body, die)) (hqueued : s.queuedAtCounter p.ref = false)
    (hroom : s.cacheRoom p.home p.slice = true) (hexec : s.execBody p.ref body die = .answer st v f u) :
    s.takeRequest p stamp none wm = ((u.answer p.home p.slice p.ref st v f).retireBelow p.home p.slice p.ref.ident wm, true) := by
  simp only [State.takeRequest, Nat.not_le.2 hident, hinc, bne_self_eq_false, hcached, hrequest, hqueued, State.predDone, hroom, hexec,
    Bool.not_true, if_false, Bool.false_eq_true]

/-- A request that its slice takes, when it leaves no request held. -/
theorem next_coveredRequest {s u : State} {pkt : Nat} {p : Packet} {stamp : Nat} {pred : Option Nat} {wm : Nat} {body : OpBody}
    {die : Nat} (h : Arrives s pkt p stamp pred wm body die) (htaken : s.takeRequest p stamp pred wm = (u, true)) (hu : u.holds = []) :
    Next (.coveredRequest pkt) s (u.dropPacket pkt).drainOutside := by
  obtain ⟨hfind, hkind, hlife, hdeliverable, -⟩ := h
  refine next_of_orStay rfl ?_
  simp only [hfind, hkind, notHeldBack hlife hdeliverable, htaken, serveHolds_of_none_held (s := u.dropPacket pkt) hu, if_true,
    if_false, Bool.false_eq_true]

theorem repeatRule : RepeatRule := by
  intro s pkt p stamp pred wm body die e h hinc hcached
  have ⟨_, _, _, _, hident, hholds, _⟩ := h
  refine next_coveredRequest h (takeRequest_cached hident hinc hcached) ?_
  simpa using hholds

theorem executeRule : ExecuteRule := by
  intro s pkt p stamp wm body die st v f u h hinc hcached hqueued hroom hexec hu
  have ⟨_, _, _, _, hident, _, hrequest⟩ := h
  refine next_coveredRequest h (takeRequest_executed hident hinc hcached hrequest hqueued hroom hexec) ?_
  simpa using hu

theorem keptRule : KeptRule := by
  intro s home slice ref st v f hnone
  refine ⟨{ home := home, slice := slice, ref := ref, inc := (s.homeInc home).getD 0, status := st, val := v, flag := f, retire := none },
    ?_, rfl, rfl, rfl, rfl⟩
  refine (reply_keeps (·.cached? home slice ref) (fun _ _ _ => rfl) (fun _ _ => rfl) _ home slice ref st v f false).trans ?_
  refine find?_append_none _ _ _ ?_ (by simp [RCEntry.live])
  -- none of the results that are kept is one of this operation
  simp only [State.cached?, List.find?_eq_none] at hnone
  simp only [drop, List.any_eq_false, List.mem_filter]
  exact fun x hx => hnone x hx.1

theorem replyRule : ReplyRule := by
  intro s home slice ref status v flag busy
  refine ⟨fun hown => ?_, fun hpeer hnone => ?_⟩
  · simp [State.reply, hown]
  · have hmine : (s.covOps.any fun o => o.ref == ref) = false := by simpa using hnone
    simp [State.reply, hpeer, hmine, State.note]

/-! ### At the requester (R151 to R153) -/

theorem responseRule : ResponseRule := by
  intro s pkt p status v f o w q h ⟨hfind, hkind, hlife, hdeliverable⟩ hop hbody hw hout
  refine next_of_orStay rfl ?_
  simp only [hfind, hkind, notHeldBack hlife hdeliverable, show (s.dropPacket pkt).covOps = s.covOps from rfl, hop, hbody,
    show (s.dropPacket pkt).wg? q.g.wg = some w from hw, hout, if_false, Bool.false_eq_true]

theorem busyAnswerRule : BusyAnswerRule := by
  intro s pkt p status v f o w q h ⟨hfind, hkind, hlife, hdeliverable⟩ hop hbody hw hout _
  refine next_of_orStay rfl ?_
  simp only [hfind, hkind, notHeldBack hlife hdeliverable, show (s.dropPacket pkt).covOps = s.covOps from rfl, hop, hbody,
    show (s.dropPacket pkt).wg? q.g.wg = some w from hw, hout, if_true, if_false, Bool.false_eq_true]
  rfl

theorem retransmitRule : RetransmitRule := by
  intro s ref o ⟨hop, hparked⟩ hst hdue
  refine next_of_orStay rfl ?_
  simp only [hop, beq_false_of_ne hst, Nat.not_lt.2 hdue, hparked, decide_false, Bool.or_false, if_false, Bool.false_eq_true]
  rfl

theorem timeoutRule : TimeoutRule := by
  intro s ref o ⟨hop, hparked⟩ hst hdue
  refine next_of_orStay rfl ?_
  simp only [hop, beq_false_of_ne hst, Nat.not_lt.2 hdue, hparked, decide_false, Bool.or_false, if_false, Bool.false_eq_true]
  rfl

theorem quietRule : QuietRule := by
  intro s ref o ⟨hop, hparked⟩ hst hdue
  have hdue : ¬ s.time < o.lastSent + packetLife := Nat.not_lt.2 hdue
  refine next_of_orStay rfl ?_
  simp only [hop, hst, bne_self_eq_false, hdue, hparked, decide_false, Bool.or_false, if_false, Bool.false_eq_true]

theorem noticeTimerRule : NoticeTimerRule := by
  intro s ident home t hfind
  refine next_of_orStay rfl ?_
  simp only [hfind]
  rfl

theorem noticeRule : NoticeRule := by
  intro s pkt p wm hfind hkind hlife hdeliverable
  refine next_of_orStay rfl ?_
  simp only [hfind, hkind, notHeldBack hlife hdeliverable, if_false, Bool.false_eq_true]
  rfl

theorem entryRetireRule : EntryRetireRule := by
  intro s home ident serial e t he hdie hslice href hretire hpast
  have hhit : (e.home.die == home.die && e.slice == home.slice && e.ref == ⟨ident, serial⟩ && !e.live s.time) = true := by
    simp [hdie, hslice, href, RCEntry.live, hretire, hpast]
  refine ⟨_, next_of_orStay rfl (if_pos (List.any_eq_true.2 ⟨e, he, hhit⟩)), fun hmem => ?_, fun x hx hkept => ?_⟩
  · simp only [drop, List.mem_filter, hhit, Bool.not_true, Bool.false_eq_true, and_false] at hmem
  · simp [drop, hx, RCEntry.live, hkept]

theorem ageRule : AgeRule := by
  intro s pkt p hfind hage
  have hdead : p.alive s.time = false := decide_eq_false (Nat.not_le.2 hage)
  refine next_of_orStay rfl ?_
  simp only [hfind, hdead, if_false, Bool.false_eq_true]
  rfl

/-! ### Restarts and incarnations (R154, R155) -/

theorem homeRestartRule : HomeRestartRule := by
  intro s die n hdie hn
  refine ⟨s.restartHome die, next_of_orStay rfl (if_pos hdie), ?_, ?_, ?_, rfl, rfl⟩
  · obtain ⟨hlen, rfl⟩ := List.getElem?_eq_some_iff.1 hn
    simp [State.restartHome, modAt, hlen, incAfter]
  · simp [State.restartHome, drop]
  · simp [State.restartHome, drop]

/-- The entry that has taken the place of others of its key is found under it. -/
theorem find?_drop_append {α : Type} {q : α → Bool} {x : α} (hx : q x = true) (l : List α) : (drop q l ++ [x]).find? q = some x :=
  find?_append_none q _ x (by simp [drop, List.any_eq_false]) hx

/-- What is found under another key is what it was. -/
theorem find?_drop_append_ne {α : Type} {p q : α → Bool} {x : α} (hne : ∀ y, q y = true → p y = false) (hx : q x = false)
    (l : List α) : (drop p l ++ [x]).find? q = l.find? q := by
  rw [List.find?_append, drop, List.find?_filter, List.find?_singleton, hx]
  have hq : (fun y => !p y && q y) = q := by
    funext y
    cases hy : q y <;> simp [hy, hne y]
  simp [hq]

/-- What a die has recorded of a home is the last that it learnt. -/
theorem incOf_learnInc (s : State) (die d : Nat) (home h : HomeId) (inc : Nat) :
    (s.learnInc die home inc).incOf d h = if d = die ∧ h = home then some inc else s.incOf d h := by
  unfold State.incOf State.learnInc
  split
  · next hsame =>
    obtain ⟨rfl, rfl⟩ := hsame
    rw [find?_drop_append (by simp)]
    rfl
  · next hother =>
    rw [find?_drop_append_ne]
    · intro y hy
      obtain ⟨rfl, rfl⟩ : y.1 = d ∧ y.2.1 = h := by simpa using hy
      simpa using hother
    · simpa using fun hd hh => hother ⟨hd.symm, hh.symm⟩

/-- What the die sent under another incarnation is QUIET. -/
theorem quiet_of_learnInc {s : State} {die : Nat} {home : HomeId} {inc : Nat} :
    ∀ o ∈ (s.learnInc die home inc).covOps, o.die = die → o.home = home → o.stamp ≠ inc → o.st = .quiet := by
  intro o ho hdie hhome hstamp
  obtain ⟨x, -, rfl⟩ := List.mem_map.1 ho
  split
  · rfl
  · next hx =>
    rw [if_neg hx] at hdie hhome hstamp
    simpa [hdie, hhome, hstamp] using hx

theorem incarnationRule : IncarnationRule := by
  intro s die home inc hdie hown hinc
  refine ⟨s.learnInc die home inc, next_of_orStay rfl ?_, by simp [incOf_learnInc], quiet_of_learnInc⟩
  simp [hown, hinc, Nat.not_le.2 hdie, Config.numDies]

/-- After a peer's home has come back with another incarnation nothing is kept for it. -/
theorem results_peerRestart {s : State} {home : HomeId} {inc : Nat} (h : s.homeInc home ≠ some inc) :
    ∀ e ∈ (s.peerRestart home inc).results, e.home ≠ home := by
  simp [State.peerRestart, h, drop]

/-- Its incarnation is the new one. -/
theorem homeInc_peerRestart {s : State} {home : HomeId} (inc : Nat) (hpeer : home.device ≠ s.plat.devNum)
    (h : s.homeInc home ≠ some inc) : (s.peerRestart home inc).homeInc home = some inc := by
  rw [State.peerRestart, if_neg (by simpa using h)]
  unfold State.homeInc
  rw [if_neg (by simpa using hpeer), find?_drop_append (by simp)]
  rfl

theorem peerIncarnationRule : PeerIncarnationRule := by
  intro s die home inc now hdie hpeer hknown hnow hpos hlt hne hlater
  have hnew : s.homeInc home ≠ some inc := by simpa [hnow] using hne.symm
  refine ⟨(s.peerRestart home inc).learnInc die home inc, next_of_orStay rfl ?_, by simp [incOf_learnInc],
    homeInc_peerRestart inc hpeer hnew, results_peerRestart hnew, quiet_of_learnInc⟩
  have hsome : (s.incOf die home).isNone = false := by simpa using hknown
  have hlt : inc < 65536 := hlt
  simp [hpeer, hsome, hnow, hlater, hlt, Nat.not_le.2 hdie, Nat.ne_of_gt hpos, Config.numDies]

/-! ### Routing to a peer (R154, R417) -/

/-- A die that learns of several homes of a peer. -/
theorem incOf_learnInc_homes (die peer : Nat) (n : Nat → Nat) (hs : List Nat) (s : State) (d k : Nat) :
    (hs.foldl (fun s h => s.learnInc die ⟨peer, h⟩ (n h)) s).incOf d ⟨peer, k⟩ =
      if d = die ∧ k ∈ hs then some (n k) else s.incOf d ⟨peer, k⟩ := by
  induction hs generalizing s with
  | nil => simp
  | cons h hs ih =>
    rw [List.foldl_cons, ih, incOf_learnInc]
    by_cases hh : k = h
    · -- what the later homes bring does not undo it
      subst hh
      by_cases hd : d = die <;> simp [hd]
    · simp [hh]

/-- Several dies that learn of them. -/
theorem incOf_learnInc_dies (peer : Nat) (n : Nat → Nat) (hs ds : List Nat) (s : State) (d k : Nat) :
    (ds.foldl (fun s die => hs.foldl (fun s h => s.learnInc die ⟨peer, h⟩ (n h)) s) s).incOf d ⟨peer, k⟩ =
      if d ∈ ds ∧ k ∈ hs then some (n k) else s.incOf d ⟨peer, k⟩ := by
  induction ds generalizing s with
  | nil => simp
  | cons die ds ih =>
    rw [List.foldl_cons, ih, incOf_learnInc_homes]
    by_cases hd : d = die
    · subst hd
      by_cases hk : k ∈ hs <;> simp [hk]
    · simp [hd]

@[simp] theorem peerRestart_routes (s : State) (home : HomeId) (inc : Nat) : (s.peerRestart home inc).routes = s.routes := by
  unfold State.peerRestart
  split <;> rfl

theorem bringUpRule : BringUpRule := by
  intro s peer ports a b c d hincs hpeer hother hawait
  have hok : ([a, b, c, d].length != 4 || [a, b, c, d].any (fun n => n == 0 || 2 ^ 16 ≤ n) || 1024 ≤ peer || peer == s.plat.devNum ||
      s.contexts.any (fun x => x.awaitPeers.contains peer)) = false := by
    have hvalid : [a, b, c, d].any (fun n => n == 0 || 2 ^ 16 ≤ n) = false := by
      refine List.any_eq_false.2 fun n hn => ?_
      obtain ⟨hpos, hlt⟩ := hincs n hn
      simp only [beq_false_of_ne (Nat.ne_of_gt hpos), Nat.not_le.2 hlt, decide_false, Bool.or_false, Bool.false_eq_true, not_false_iff]
    have hnone : s.contexts.any (fun x => x.awaitPeers.contains peer) = false := by simpa using hawait
    simp only [hvalid, hnone, beq_false_of_ne hother, Nat.not_le.2 hpeer]
    rfl
  refine ⟨_, next_of_orStay rfl (if_neg (by rw [hok]; decide)), ?_, fun die hdie => ?_⟩
  · -- neither the ports nor the incarnations change a route
    rw [foldl_keeps State.routes, foldl_keeps State.routes, foldl_keeps State.routes]
    · simp
    · intro s n
      split <;> rfl
    · exact fun s h => peerRestart_routes s _ _
    · intro s die
      rw [foldl_keeps State.routes]
      exact fun _ _ => rfl
  · simp only [incOf_learnInc_dies, List.mem_range, hdie]
    simp

/-- Settles O55: under each rule's premises its step's checks pass, so it answers the state it makes, of which the rule's parts are read
off. -/
theorem coveredOperationsSteps : Obligations.CoveredOperationsSteps :=
  ⟨repeatRule, executeRule, keptRule, responseRule, replyRule, busyAnswerRule, retransmitRule, timeoutRule, quietRule, noticeTimerRule,
    noticeRule, entryRetireRule, ageRule, homeRestartRule, incarnationRule, peerIncarnationRule, bringUpRule⟩

end Sys2Proof.Claims
end

section
/-!
PROOF. Counters: the steps of apportioned counters (R161 to R173).
-/

namespace Sys2Proof.Claims

open Sys2Proof.Machine

/-! ### What leaves the counters alone -/

/-- A write of bytes leaves the counters. -/
theorem writePhys_counters (bs : List Byte) (s : State) (own : Option Nat) (ctx pa : Nat) :
    (s.writePhys own ctx pa bs).counters = s.counters := by
  induction bs generalizing s pa with
  | nil => rfl
  | cons b bs ih =>
    rw [State.writePhys, ih]
    have hunit : ∀ n, (s.plainUnit ctx n).counters = s.counters := fun n => by
      unfold State.plainUnit
      dsimp only
      split <;> split <;> rfl
    unfold State.writeByte
    split
    · split
      · split
        · exact hunit _
        · rfl
      · exact hunit _
    · rfl

@[simp] theorem counter?_writeWord (s : State) (ctx pa : Nat) (v : W64) (word : Nat) :
    (s.writeWord ctx pa v).counter? word = s.counter? word := by
  unfold State.counter? State.writeWord
  rw [writePhys_counters]

/-- A test of the waits leaves the counters. -/
@[simp] theorem wakeAll_counters (s : State) : s.wakeAll.counters = s.counters := by
  unfold State.wakeAll State.settleAll
  dsimp only
  split <;> rfl

/-- Errors are posted to groups. -/
@[simp] theorem postErrors_counters (s : State) (g : GRef) (q : QSel) (e : MemEntry) :
    (s.postErrors g q e).counters = s.counters := by
  refine foldl_keeps State.counters _ (fun s x => ?_) _ s
  dsimp only
  split <;> rfl

@[simp] theorem settleAm_counters (s : State) (g : GRef) (id : Nat) : (s.settleAm g id).counters = s.counters := by
  unfold State.settleAm
  split
  · rfl
  · dsimp only
    split
    · split
      · split <;> simp
      · simp
    · rfl

/-- The end of a piece leaves the counters. -/
@[simp] theorem finishPiece_counters (s : State) (p : PieceRef) (status : Nat) (v : W64) (flag poison : Bool) :
    (s.finishPiece p status v flag poison).counters = s.counters := by
  unfold State.finishPiece
  dsimp only
  rw [wakeAll_counters]
  split <;> simp

/-- So does the end of a take. -/
@[simp] theorem endTake_counters (s : State) (t : TakeWait) (status : Nat) (v : W64) (flag : Bool) :
    (s.endTake t status v flag).counters = s.counters := finishPiece_counters _ t.p status v flag false

@[simp] theorem setTracked_counters (s : State) (ident : Nat) (ts : List Tracked) : (s.setTracked ident ts).counters = s.counters := by
  unfold State.setTracked
  split <;> rfl

/-- Notices are packets. -/
@[simp] theorem sendNotices_counters (s : State) (ident : Nat) : (s.sendNotices ident).counters = s.counters := by
  unfold State.sendNotices
  rw [setTracked_counters, foldl_keeps State.counters]
  exact fun _ _ => rfl

@[simp] theorem leaveDies_counters (s : State) (ctx : Nat) (dies : List Nat) : (s.leaveDies ctx dies).counters = s.counters := by
  refine foldl_keeps State.counters _ (fun s die => ?_) dies s
  split
  · rfl
  · simp

/-! ### The reserve (R161, R168) -/

/-- A counter that has been changed is found as it is now. -/
theorem counter?_modCounter_of {s : State} {word : Nat} {c : Counter} {f : Counter → Counter} (h : s.counter? word = some c)
    (hf : ∀ c, (f c).word = c.word) : (s.modCounter word f).counter? word = some (f c) := by
  rw [counter?_modCounter s word f hf, h, Option.map_some]

/-- The reserve is set, and the counter's word with it. -/
theorem counter?_setH {s : State} {word : Nat} {c : Counter} (h : s.counter? word = some c) (n : Nat) :
    (s.setH word n).counter? word = some { c with h := n } := by
  simp only [State.setH, h, counter?_writeWord]
  exact counter?_modCounter_of h fun _ => rfl

theorem saturateRule : SaturateRule := by
  intro s word c n h
  by_cases hmax : ctrMax < c.h + n
  · refine ⟨{ c with h := ctrMax, ovf := true }, ?_, ?_, fun _ => rfl, fun hle => absurd hle (Nat.not_le.2 hmax)⟩
    · simp only [State.addH, h, hmax, if_true]
      exact counter?_modCounter_of (counter?_setH h ctrMax) fun _ => rfl
    · exact (Nat.min_eq_left (Nat.le_of_lt hmax)).symm
  · have hle : c.h + n ≤ ctrMax := Nat.not_lt.1 hmax
    refine ⟨{ c with h := c.h + n }, ?_, (Nat.min_eq_right hle).symm, fun hgt => absurd hgt hmax, fun _ => rfl⟩
    simp only [State.addH, h, hmax, if_false]
    exact counter?_setH h _

/-! ### Grants (R164, R165, R173) -/

/-- The home serves the first waiting request of a counter that is LIVE and in no round, its line at hand. -/
theorem next_counterGrantRequest {s t : State} {word die : Nat} {c : Counter} {r : CtrReq} {rest : List CtrReq}
    (hc : s.counter? word = some c) (hlive : c.st = .live) (hround : c.round = 0) (hwaiting : c.waiting = r :: rest) (hdie : r.die = die)
    (hline : s.ctrLine c.ctx word die c.cached = (t, true)) :
    Next (.counterGrantRequest word) s (thenDies ((t.countCtr word die).serveFirst c r) word c.ctx) := by
  subst hdie
  have hserve : s.serveCounter word = some (thenDies ((t.countCtr word r.die).serveFirst c r) word c.ctx) := by
    have hfree : (c.st == .poisoned ||
        (c.round != 0 && (!c.recallDies.isEmpty || !c.recallCores.isEmpty || s.amountsOut c))) = false := by
      simp [hlive, hround]
    simp only [State.serveCounter, hc, hwaiting, hfree, hline, if_false, Bool.false_eq_true]
    simp only [hround, beq_self_eq_true, if_true]
    rfl
  refine next_of_orStay rfl ?_
  rw [hserve, Option.some_or]

/-- A die whose need the reserve covers is granted it, or its grant size where half the reserve allows that (R165). -/
theorem serveFirst_grant {c : Counter} {need : Nat} (t : State) (die n : Nat) (a : Asker) (hround : c.round = 0) (hneed : need ≤ c.h) :
    t.serveFirst c (.grant die n need a) =
      (let sd := ((c.die? die).map (·.sd)).getD (8 * c.g)
       let y := min c.h (max need (min sd (c.h / 2)))
       ((t.modCounter c.word (·.served)).setH c.word (c.h - y)).grantOut c.word die y a) := by
  simp only [State.serveFirst, hround, hneed]
  cases c.die? die <;> rfl

/-- A take that the reserve covers ends with 1 (R173). -/
theorem serveFirst_take {c : Counter} {v : W64} (t : State) (b : W64) (die : Nat) (a : Asker) (hfits : v.toNat % 2 ^ 32 ≤ c.h) :
    t.serveFirst c (.op .actake v b die a) =
      ((t.setH c.word (c.h - v.toNat % 2 ^ 32)).modCounter c.word (·.served)).endForwarded a 0 1 true := by
  have hn : (lo32 v).toNat = v.toNat % 2 ^ 32 := by simp [lo32]
  simp only [State.serveFirst, State.serveOp, hn, hfits, if_true]

theorem grantRule : GrantRule := by
  intro s word c die n need a rest t hc hword hlive hround hwaiting hneed hline
  subst hword
  have h := next_counterGrantRequest hc hlive hround hwaiting rfl hline
  rwa [serveFirst_grant _ die n a hround hneed] at h

theorem homeTakeRule : HomeTakeRule := by
  intro s word c v b die a rest t hc hword hlive hround hwaiting hfits hline
  subst hword
  have h := next_counterGrantRequest hc hlive hround hwaiting rfl hline
  rwa [serveFirst_take _ b die a hfits] at h

theorem takeGrantRule : TakeGrantRule := by
  intro s word die w y c a b u hfind hgranted hc hst hdie hcore
  dsimp only
  intro hpiece hrefill
  refine next_of_orStay rfl ?_
  simp only [State.takeGrant, hfind, hc, beq_false_of_ne hst, hdie, hcore, hgranted, Option.bind_some, Option.map_some, Option.getD_some,
    hrefill, if_false, Bool.false_eq_true, Option.isNone_eq_false_iff.2 hpiece]

/-! ### Cores and dies (R162 to R166) -/

theorem die?_modDie (c : Counter) (d : Nat) (f : DieAllow → DieAllow) (hf : ∀ x, (f x).die = x.die) :
    (c.modDie d f).die? d = some (f ((c.die? d).getD { die := d, f := 0, sd := 8 * c.g, lastGrant := none })) :=
  find?_upsert (fun x : DieAllow => x.die == d) _ f (fun x h => by simpa [hf] using h) (by simp) c.dies

theorem core?_modCore (c : Counter) (k : CoreId) (f : CoreAllow → CoreAllow) (hf : ∀ x, (f x).core = x.core) :
    (c.modCore k f).core? k = some (f ((c.core? k).getD { core := k, c := 0, sc := c.g, lastReq := none })) :=
  find?_upsert (fun x : CoreAllow => x.core == k) _ f (fun x h => by simpa [hf] using h) (by simp) c.cores

theorem core?_modDie (c : Counter) (d : Nat) (f : DieAllow → DieAllow) (k : CoreId) : (c.modDie d f).core? k = c.core? k := rfl

theorem freePart_modCore (c : Counter) (k : CoreId) (f : CoreAllow → CoreAllow) (d : Nat) :
    (c.modCore k f).freePart d = c.freePart d := rfl

theorem freePart_of_die {c : Counter} {k : Nat} {d : DieAllow} (h : c.die? k = some d) : c.freePart k = d.f := by
  simp only [Counter.freePart, h]

theorem allowance_of_core {c : Counter} {k : CoreId} {a : CoreAllow} (h : c.core? k = some a) : c.allowance k = a.c := by
  simp only [Counter.allowance, h]

/-- A core takes `x` of its die's free part, and a take makes `n` of what it has then (R164). -/
def refilled (k : CoreId) (x n : Nat) (since : Option Nat) (c : Counter) : Counter :=
  (c.modDie k.die fun d => { d with f := d.f - x }).modCore k fun a => { a with c := a.c + x - n, lastReq := a.lastReq.or since }

theorem allowance_refilled {c : Counter} {k : CoreId} {a : CoreAllow} (h : c.core? k = some a) (x n : Nat) (since : Option Nat) :
    (refilled k x n since c).allowance k = a.c + x - n := by
  rw [refilled, allowance_of_core (core?_modCore _ _ _ ?_), core?_modDie, h]
  · rfl
  · exact fun _ => rfl

theorem freePart_refilled {c : Counter} {k : CoreId} {d : DieAllow} (h : c.die? k.die = some d) (x n : Nat) (since : Option Nat) :
    (refilled k x n since c).freePart k.die = d.f - x := by
  rw [refilled, freePart_modCore, freePart_of_die (die?_modDie _ _ _ ?_), h]
  · rfl
  · exact fun _ => rfl

/-- The refill moves the need, or the core's grant size where the free part allows it. -/
theorem refillTake_eq {s : State} {word : Nat} {k : CoreId} {n : Nat} {c : Counter} {a : CoreAllow} {d : DieAllow}
    (hc : s.counter? word = some c) (hcore : c.core? k = some a) (hdie : c.die? k.die = some d) (hn : n ≤ a.c + d.f)
    (since : Option Nat) :
    s.refillTake word k n since = some (s.modCounter word (refilled k (min d.f (max (n - a.c) a.sc)) n since)) := by
  simp only [State.refillTake, hc, Option.bind_some, hcore, Option.getD_some, freePart_of_die hdie, Nat.not_lt.2 hn, if_false]
  rfl

theorem refillRule : RefillRule := by
  intro s word k n since c a d hc hcore hdie hn
  -- the amount moved covers the need, and is no more than the free part
  have hneed : n ≤ a.c + min d.f (max (n - a.c) a.sc) := by omega
  have hfree : min d.f (max (n - a.c) a.sc) ≤ d.f := Nat.min_le_left _ _
  refine ⟨_, _, refillTake_eq hc hcore hdie hn since, counter?_modCounter_of hc fun _ => rfl, ?_, ?_, rfl⟩
  · rw [allowance_refilled hcore, Nat.sub_add_cancel hneed]
  · rw [freePart_refilled hdie, Nat.sub_add_cancel hfree]

theorem coreTakeRule : CoreTakeRule := by
  intro s w g h word n p c a hc hlive hcore hn hidle
  by_cases hzero : n = 0
  · simp [State.ctrTake, hzero]
  · simp [State.ctrTake, hzero, hc, hlive, hidle, allowance_of_core hcore, hn]

/-! ### Recalls and returns (R165, R166, R168, R169) -/

theorem recallRule : RecallRule := by
  intro s word die c d hc hdie hrecalled hcoming
  refine next_of_orStay rfl ?_
  simp only [State.recall, hc, hcoming, List.contains_iff_mem.2 hrecalled, freePart_of_die hdie, Bool.not_true, if_false,
    Bool.false_eq_true]
  rfl

theorem recallCoreRule : RecallCoreRule := by
  intro s word die k c a hc hrecalled hcore hcoming
  refine next_of_orStay rfl ?_
  simp only [State.recall, hc, hcoming, List.contains_iff_mem.2 hrecalled, allowance_of_core hcore, Bool.not_true, if_false,
    Bool.false_eq_true]
  rfl

theorem returnRule : ReturnRule := by
  intro s word c n rest t hc hinflight hline
  refine next_of_orStay rfl ?_
  simp only [State.returnAmount, hc, Option.bind_some, hinflight, List.find?_cons, beq_self_eq_true, Bool.true_or, hline, if_true]

theorem returnSendRule : ReturnSendRule := by
  intro s word c die n p rest stamp hc hinflight hdie hwindow hstamp
  refine next_of_orStay rfl ?_
  simp only [State.returnAmount, hc, Option.bind_some, hinflight, List.find?_cons, hwindow, hstamp, Option.isSome_some, Bool.and_self,
    Bool.or_true, beq_false_of_ne hdie, Option.getD_some, if_false, Bool.false_eq_true]

/-! ### POISONED (R172) -/

/-- What is left of a counter that is POISONED (R172). -/
def poisonedEntry (c : Counter) : Counter :=
  { c with st := .poisoned, dies := [], cores := [], inflight := [], waiting := [], round := 0, recallDies := [], recallCores := [],
           visited := [] }

/-- With no request waiting at it, hence no acfree, the counter's entry is all that changes among the counters. -/
theorem poisonCounter_counters {s : State} {word : Nat} {c : Counter} (hc : s.counter? word = some c) (hwaiting : c.waiting = []) :
    (s.poisonCounter word).counters = (s.modCounter word poisonedEntry).counters := by
  simp only [State.poisonCounter, hc, hwaiting, List.foldl_nil, List.any_nil, if_false, Bool.false_eq_true]
  rw [foldl_keeps State.counters, foldl_keeps State.counters, leaveDies_counters]
  · rfl
  · intro s x
    split
    · exact finishPiece_counters s _ _ _ _ _
    · rfl
  · exact fun s t => endTake_counters s t _ _ _

theorem poisonRule : PoisonRule := by
  intro s word c hc hwaiting
  refine ⟨s.poisonCounter word, next_of_orStay rfl (by simp [hc]), poisonedEntry c, ?_, rfl, rfl, rfl⟩
  rw [State.counter?, poisonCounter_counters hc hwaiting]
  exact counter?_modCounter_of hc fun _ => rfl

/-- Settles O56: under each rule's premises its step's checks pass, so it answers the rule's state; the ends of takes and pieces that go
with a step leave the counters as they are. -/
theorem counterSteps : Obligations.CounterSteps :=
  ⟨grantRule, homeTakeRule, takeGrantRule, refillRule, recallRule, recallCoreRule, returnRule, returnSendRule, saturateRule, poisonRule,
    coreTakeRule⟩

end Sys2Proof.Claims
end

section
/-!
PROOF. Slots: a slot issues the bundle of its leader, and the groups beside it; pads, promotion, and waits of a group that end (R192, R194,
R211, R219, R221, R335, R343, R348, R355, R356).
-/

namespace Sys2Proof.Claims

open Sys2Proof.Machine

/-! ### What a candidate's attempt comes to (R194, R211, R219, R221) -/

/-- The bundle of a pad issue, which has no move of its own (R219). -/
abbrev padBundle : Bundle := { header := ⟨0, 0, 0, false, 0⟩, moves := [], ext := [] }

section

variable {s : State} {r : GRef} {w : Workgroup} {g : Group} {l : Launch} {who : Who}

/-- A candidate that is asked to stop at this boundary stops. -/
theorem issueGroup_stop {f : Group → Group} (hw : s.wg? r.wg = some w) (hg : s.group? r = some g) (hl : s.launchOf? r = some l)
    (hwho : s.who? r = some who) (hcandidate : s.candidate w g = true) (hstop : stopHere w g = some f) :
    issueGroup trigTable s r = .done (s.modGroup r f) := by
  simp only [issueGroup, hw, hg, hl, hwho, hcandidate, hstop, Bool.not_true, if_false, Bool.false_eq_true]

/-- One with pads left makes a pad issue. -/
theorem issueGroup_pad (hw : s.wg? r.wg = some w) (hg : s.group? r = some g) (hl : s.launchOf? r = some l)
    (hwho : s.who? r = some who) (hcandidate : s.candidate w g = true) (hstop : stopHere w g = none) (hpad : g.pad ≠ 0) :
    issueGroup trigTable s r = (execBundle trigTable s r g l padBundle [] g.padPc g.padLen true).settle who := by
  simp only [issueGroup, hw, hg, hl, hwho, hcandidate, hstop, bne_iff_ne.2 hpad, Bool.not_true, if_true, if_false, Bool.false_eq_true]

/-- Another executes its next bundle, once that is at hand. -/
theorem issueGroup_bundle {b : Bundle} {ws : List W32} {len : Nat} {t : State} (hw : s.wg? r.wg = some w) (hg : s.group? r = some g)
    (hl : s.launchOf? r = some l) (hwho : s.who? r = some who) (hcandidate : s.candidate w g = true) (hstop : stopHere w g = none)
    (hpad : g.pad = 0) (hfetch : s.fetch who l g.pc = .bundle b ws len t) :
    issueGroup trigTable s r = (execBundle trigTable t r g l b ws g.pc len false).settle who := by
  simp only [issueGroup, hw, hg, hl, hwho, hcandidate, hstop, hpad, hfetch, bne_self_eq_false, Bool.not_true, if_false,
    Bool.false_eq_true]

/-- It is the bundle that its slot issues. -/
theorem nextBundle_of_fetch {b : Bundle} {ws : List W32} {len : Nat} {t : State} (hl : s.launchOf? (refOf w g) = some l)
    (hwho : s.who? (refOf w g) = some who) (hstop : stopHere w g = none) (hpad : g.pad = 0)
    (hfetch : s.fetch who l g.pc = .bundle b ws len t) : s.nextBundle w g = some (b, ws, len, t) := by
  simp only [State.nextBundle, hl, hwho, hstop, hpad, hfetch, bne_self_eq_false, Option.isSome_none, Bool.or_self, if_false,
    Bool.false_eq_true]

end

/-! ### The slot (R192) -/

section

variable {s t u : State} {w : Workgroup} {g : Group} {b : Bundle} {ws : List W32} {len : Nat}

/-- With no group beside it the leader's bundle is all that the slot issues. -/
theorem issueSlot_alone (hleader : issueGroup trigTable s (refOf w g) = .done u) (hnext : s.nextBundle w g = some (b, ws, len, t))
    (hbeside : beside trigTable b ws len t (s.mates w g) [(g.col, g.col + g.width)] = []) :
    issueSlot trigTable s w g = .done u := by
  simp only [issueSlot, hleader, hnext, hbeside]

/-- Groups beside it make the bundle with it, in ascending group entry (log 68). -/
theorem issueSlot_beside (hleader : issueGroup trigTable s (refOf w g) = .done u) (hnext : s.nextBundle w g = some (b, ws, len, t))
    (hbeside : beside trigTable b ws len t (s.mates w g) [(g.col, g.col + g.width)] ≠ []) :
    issueSlot trigTable s w g = .done (coIssue trigTable b ws len (sortBy (fun (y : Workgroup × Group) => y.2.entry)
      ((w, g) :: beside trigTable b ws len t (s.mates w g) [(g.col, g.col + g.width)])) t) := by
  obtain ⟨x, xs, hx⟩ := List.exists_cons_of_ne_nil hbeside
  simp only [issueSlot, hleader, hnext, hx]

end

/-- BUNDLE_ISSUE of a leader is the issue of its slot. -/
theorem exec_bundleIssue {s : State} {r : GRef} {w : Workgroup} {g : Group} {l : Launch} {who : Who} (h : Issues s r w g l who) :
    exec (.bundleIssue r) s = (issueSlot trigTable s w g).outcome s := by
  obtain ⟨hw, hg, -, -, -, -, hpad, hleads, -⟩ := h
  change execBundleIssue r s = _
  simp only [execBundleIssue, hw, hg, hpad, hleads, beq_self_eq_true, Bool.and_self, if_true]

theorem bundleIssueRule : BundleIssueRule := by
  intro s r w g l who b ws len t u h hfetch hmates hbundle
  obtain ⟨hw, hg, hl, hwho, hcandidate, hstop, hpad, -, rfl⟩ := id h
  have hleader := issueGroup_bundle hw hg hl hwho hcandidate hstop hpad hfetch
  rw [hbundle] at hleader
  rw [Next, exec_bundleIssue h, issueSlot_alone hleader (nextBundle_of_fetch hl hwho hstop hpad hfetch) (by rw [hmates]; rfl)]
  rfl

/-- The one candidate of the slot that may co-issue does, when its columns lie apart and it does not wait. -/
theorem beside_singleton {b : Bundle} {ws : List W32} {len : Nat} {t : State} {x : Workgroup × Group} {cols : List (Nat × Nat)}
    (hapart : x.2.apart cols = true) (hgoes : (issueAs trigTable b ws len t x).isWait = false) :
    beside trigTable b ws len t [x] cols = [x] := by
  simp only [beside, hapart, hgoes, Bool.not_false, Bool.and_self, if_true]

/-- Two by ascending key. -/
theorem sortBy_pair {α : Type} (key : α → Nat) (x y : α) : sortBy key [x, y] = if key y < key x then [y, x] else [x, y] := by
  simp only [sortBy, List.foldr_cons, List.foldr_nil, insertBy, ← Nat.not_lt, ite_not]

/-- Two groups that both issue: the second makes the bundle in the state that the first has left. -/
theorem coIssue_pair {b : Bundle} {ws : List W32} {len : Nat} {t u v : State} {x y : Workgroup × Group}
    (hx : issueAs trigTable b ws len t x = .done u) (hy : issueAs trigTable b ws len u y = .done v) :
    coIssue trigTable b ws len [x, y] t = v := by
  simp only [coIssue, hx, hy]

theorem coIssueRule : CoIssueRule := by
  intro s r w g l who b ws len t w' g' u v h hfetch hmates _ _ _ _ _ ⟨p, hp⟩ hapart hgoes both hfirst hsecond
  obtain ⟨hw, hg, hl, hwho, hcandidate, hstop, hpad, -, rfl⟩ := id h
  have hleader := issueGroup_bundle hw hg hl hwho hcandidate hstop hpad hfetch
  rw [hp] at hleader
  have hbeside : beside trigTable b ws len t (s.mates w g) [(g.col, g.col + g.width)] = [(w', g')] := by
    rw [hmates]
    exact beside_singleton (by simpa [Group.apart] using hapart) hgoes
  have horder : sortBy (fun (y : Workgroup × Group) => y.2.entry) [(w, g), (w', g')] = [both.1, both.2] := by
    rw [sortBy_pair]
    split <;> simp only [both, *, if_true, if_false]
  rw [Next, exec_bundleIssue h, issueSlot_beside hleader (nextBundle_of_fetch hl hwho hstop hpad hfetch) (by simp [hbeside]), hbeside,
    horder, coIssue_pair hfirst hsecond]
  rfl

/-! ### Pads (R219, R335, R341) -/

/-- PAD_ISSUE of a group with pads left is its next attempt. -/
theorem exec_padIssue {s : State} {r : GRef} {g : Group} (hg : s.group? r = some g) (hpad : g.pad ≠ 0) :
    exec (.padIssue r) s = (issueGroup trigTable s r).outcome s := by
  change execPadIssue r s = _
  simp only [execPadIssue, hg, bne_iff_ne.2 hpad, if_true]

theorem padIssueRule : PadIssueRule := by
  intro s r w g l who u hw hg hl hwho hcandidate hstop hpad hbundle
  rw [Next, exec_padIssue hg hpad, issueGroup_pad hw hg hl hwho hcandidate hstop hpad, hbundle]
  rfl

theorem padStopRule : PadStopRule := by
  refine ⟨fun s r w g l who f hw hg hl hwho hcandidate hstop hpad => ?_, fun s r g hg hpad => ?_⟩
  · rw [Next, exec_padIssue hg hpad, issueGroup_stop hw hg hl hwho hcandidate hstop]
    rfl
  · change execPadIssue r s = _
    simp only [execPadIssue, hg, hpad, bne_self_eq_false, if_false, Bool.false_eq_true]

/-- The end of a bundle changes where the group goes on, its loop with the guards, its waits and whether it is stopped; what looks at none
of these is kept. -/
theorem finish_keeps {β : Type} (p : Group → β)
    (hp : ∀ (g : Group) pc target endDue waits loop ks bad stopped,
      p { g with pc := pc, target := target, endDue := endDue, waits := waits, loop := loop, kregs := ks, kbad := bad,
                 stopped := stopped } = p g)
    (g : Group) (tb pc : W64) (len : Nat) : p (g.finish tb pc len) = p g := by
  have hset (g : Group) (i : Nat) (v : W64) : p (g.setK i v) = p g := hp g _ _ _ _ _ _ _ _
  have hdrive (g : Group) : p g.driveStages = p g := foldl_keeps p _ (fun g _ => hset g _ _) _ g
  have hend (g : Group) : p g.endLoop = p g := (foldl_keeps p _ (fun g _ => hset g _ _) _ _).trans (hp g _ _ _ _ _ _ _ _)
  have hloop (g : Group) (out : W64) : p (g.loopEnd tb out) = p g := by
    unfold Group.loopEnd
    dsimp only
    split
    · exact (hdrive _).trans (hp g _ _ _ _ _ _ _ _)
    · split
      · exact (hp g.endLoop _ _ _ _ _ _ _ _).trans (hend g)
      · exact (hdrive _).trans (hp g _ _ _ _ _ _ _ _)
  unfold Group.finish
  dsimp only
  split
  · split
    · exact (hloop _ _).trans (hp g _ _ _ _ _ _ _ _)
    · exact hp g _ _ _ _ _ _ _ _
  · split
    · exact hloop g _
    · exact hp g _ _ _ _ _ _ _ _

/-- The same of a pad issue that makes no move, beside the issue counts and the results that become visible. -/
theorem padDone_keeps {β : Type} (p : Group → β)
    (hp : ∀ (g : Group) pc target endDue waits loop ks bad stopped,
      p { g with pc := pc, target := target, endDue := endDue, waits := waits, loop := loop, kregs := ks, kbad := bad,
                 stopped := stopped } = p g)
    (hcount : ∀ (g : Group) x0cnt promoted waited issues phase pad,
      p { g with x0cnt := x0cnt, promoted := promoted, waited := waited, issues := issues, phase := phase, pad := pad } = p g)
    (hadvance : ∀ g : Group, p g.advance = p g) (g : Group) (l : Launch) : p (padDone g l) = p g := by
  unfold padDone
  dsimp only
  split
  · exact (hcount g.advance _ _ _ _ _ _).trans (hadvance g)
  · exact (finish_keeps p hp _ _ _ _).trans ((hcount g.advance _ _ _ _ _ _).trans (hadvance g))

theorem padDone_gi (g : Group) (l : Launch) : (padDone g l).gi = g.gi :=
  padDone_keeps (·.gi) (fun _ _ _ _ _ _ _ _ _ => rfl) (fun _ _ _ _ _ _ _ => rfl)
    (advance_keeps (·.gi) (fun _ _ => rfl) fun _ _ _ => rfl) g l

theorem padDone_pend (g : Group) (l : Launch) : (padDone g l).pend = g.pend :=
  padDone_keeps (·.pend) (fun _ _ _ _ _ _ _ _ _ => rfl) (fun _ _ _ _ _ _ _ => rfl)
    (advance_keeps (·.pend) (fun _ _ => rfl) fun _ _ _ => rfl) g l

/-- With empty hold latches it repeats no move either. -/
theorem bundleMoves_padBundle {g : Group} (h : g.latches = noLatches) : bundleMoves g padBundle = [] := by
  simp [bundleMoves, h, noLatches, List.range, List.range.loop]

/-- A bundle without moves meets no trap of steps 1 to 3 of R221 and waits for nothing. -/
theorem checkBundle_padBundle (g : Group) (off : Nat) : checkBundle g padBundle [] [] off 0 = .go := by
  have herror : bundleError g padBundle = none := by simp [bundleError]
  have hstraddles : straddles g off 0 = false := by simp [straddles]; omega
  simp [checkBundle, herror, hstraddles, conflictBus, x0Bus]

/-- What step 8 makes of a group whose pad issue made no move. -/
theorem afterIssue_padBundle {g : Group} (l : Launch) (hended : g.ended = false) (hpend : g.pend = []) :
    g.advance.afterIssue g.advance padBundle [] [] [] l.textBase g.padPc g.padLen true = padDone g l := by
  have hended : g.advance.ended = false := (advance_keeps (·.ended) (fun _ _ => rfl) (fun _ _ _ => rfl) g).trans hended
  have hpend : g.advance.pend = [] := (advance_keeps (·.pend) (fun _ _ => rfl) (fun _ _ _ => rfl) g).trans hpend
  have hpad : g.advance.pad = g.pad := advance_keeps (·.pad) (fun _ _ => rfl) (fun _ _ _ => rfl) g
  have hpc : g.advance.padPc = g.padPc := advance_keeps (·.padPc) (fun _ _ => rfl) (fun _ _ _ => rfl) g
  have hlen : g.advance.padLen = g.padLen := advance_keeps (·.padLen) (fun _ _ => rfl) (fun _ _ _ => rfl) g
  simp [Group.afterIssue, padDone, Group.countIssue, hended, hpend, hpad, hpc, hlen]

/-- The pad issue of a group with empty hold latches changes its counts and where it goes on only. -/
theorem execBundle_padBundle {s : State} {r : GRef} {g : Group} {l : Launch} (hg : s.group? r = some g) (hlatches : g.latches = noLatches)
    (hended : g.ended = false) (hpend : g.pend = []) :
    execBundle trigTable s r g l padBundle [] g.padPc g.padLen true = .done (s.setGroup r (padDone g l)) := by
  have hgi : g.gi = r.gi := by
    obtain ⟨w, -, hg⟩ := Option.bind_eq_some_iff.1 hg
    simpa using List.find?_some hg
  have hadvance : g.advance.gi = r.gi := (advance_keeps (·.gi) (fun _ _ => rfl) (fun _ _ _ => rfl) g).trans hgi
  have hmoves : bundleMoves g.advance padBundle = [] := bundleMoves_padBundle (by simpa using hlatches)
  have htrap : (s.setGroup r (padDone g l)).explicitTrap r l = s.setGroup r (padDone g l) :=
    explicitTrap_none _ _ _ _ (group?_setGroup s r _ g hg ((padDone_gi g l).trans hgi)) ((padDone_pend g l).trans hpend)
  simp [execBundle, hmoves, readMoves, checkBundle_padBundle, Workgroup.mxHeld, isCheckPoint, sySel, anyIrrevocable,
    Group.withRegion, startTriggers, modGroup_setGroup _ _ _ _ hadvance, afterIssue_padBundle l hended hpend, htrap]

/-- A candidate has not ended, and no trap of it is pending (R192, R391). -/
theorem running_of_candidate {s : State} {w : Workgroup} {g : Group} (h : s.candidate w g = true) : g.ended = false ∧ g.pend = [] := by
  simp only [State.candidate, Bool.and_eq_true, Bool.not_eq_true', List.isEmpty_iff] at h
  obtain ⟨⟨⟨⟨⟨⟨⟨⟨⟨⟨-, hended⟩, -⟩, -⟩, hpend⟩, -⟩, -⟩, -⟩, -⟩, -⟩, -⟩ := h
  exact ⟨hended, hpend⟩

theorem emptyPadRule : EmptyPadRule := by
  intro s r w g l who hw hg hl hwho hcandidate hstop hpad hlatches
  obtain ⟨hended, hpend⟩ := running_of_candidate hcandidate
  rw [Next, exec_padIssue hg hpad, issueGroup_pad hw hg hl hwho hcandidate hstop hpad, execBundle_padBundle hg hlatches hended hpend]
  rfl

/-! ### Promotion, and waits that end (R192, R335, R343, R348, R355, R356) -/

theorem promotionRule : PromotionRule := by
  intro s r w g hw hg hcandidate hwaited
  refine next_of_orStay rfl ?_
  simp only [hw, hg, hcandidate, hwaited, decide_true, Bool.and_self, if_true]

/-- A step that ends the waits of one kind changes nothing else. -/
theorem endsWait_of_endWait {mk : GRef → Instr} {p : Wait → Bool} (hexec : ∀ r s, exec (mk r) s = orStay s (s.endWait r p)) :
    EndsWait mk p := by
  intro s r g hg hany
  refine next_of_orStay (hexec r s) ?_
  simp only [State.endWait, hg, hany, if_true]
  rfl

/-- The only wait of a group has ended. -/
theorem dropWaits_singleton {g : Group} {x : Wait} {p : Wait → Bool} (hwaits : g.waits = [x]) (hp : p x = true) :
    g.dropWaits p = { g with waits := [] } := by
  simp [Group.dropWaits, drop, hwaits, hp]

/-- The step that ends it. -/
theorem endWait_only {s : State} {r : GRef} {g : Group} {x : Wait} {p : Wait → Bool} (hg : s.group? r = some g) (hwaits : g.waits = [x])
    (hp : p x = true) : s.endWait r p = some (s.setGroup r { g with waits := [] }) := by
  simp only [State.endWait, hg, hwaits, List.any_cons, hp, Bool.true_or, if_true, dropWaits_singleton hwaits hp]

theorem yieldExpiryRule : YieldExpiryRule := by
  intro s r g till hg hwaits htill
  exact next_of_orStay rfl (endWait_only hg hwaits (decide_eq_true htill))

theorem icinvCompleteRule : IcinvCompleteRule := by
  intro s r w g va len hw hg hwaits hbefore
  refine next_of_orStay rfl ?_
  simp only [hw, hg, hwaits, List.findSome?_cons, hbefore, Bool.not_true, if_false, Bool.false_eq_true]
  exact endWait_only (s := s.dropCode _) hg hwaits rfl

theorem waitTimeoutRule : WaitTimeoutRule := by
  intro s r w g va pa cmp v d n hw hg hout hwaits hlate
  have hlate : decide (d ≤ s.time) = true := decide_eq_true hlate
  refine next_of_orStay rfl ?_
  simp only [hw, hg, hout, hwaits, List.any_cons, hlate, Bool.true_or, Bool.not_true, Bool.or_self, if_false, Bool.false_eq_true]
  rw [dropWaits_singleton hwaits hlate]
  rfl

/-- Settles O46: under each rule's premises the group is tried, and its bundle, its pad or the end of its wait is the rule's. -/
theorem issueSteps : Obligations.IssueSteps :=
  ⟨bundleIssueRule, coIssueRule, padIssueRule, emptyPadRule, padStopRule, promotionRule, yieldExpiryRule,
    endsWait_of_endWait fun _ _ => rfl, endsWait_of_endWait fun _ _ => rfl, endsWait_of_endWait fun _ _ => rfl, icinvCompleteRule,
    waitTimeoutRule⟩

end Sys2Proof.Claims
end

section
/-!
PROOF. Step: a decoded instruction has the word that it was decoded from, and the step issues it (R192, R211, R213, R221, R225).
-/

namespace Sys2Proof.Claims

open Sys2Proof.Machine

/-! ### The word of a decoded instruction (R213, R225) -/

/-- The number of two strings of bits, one behind the other. -/
theorem toNat_append_eq {m n : Nat} (x : BitVec m) (y : BitVec n) : (x ++ y).toNat = x.toNat * 2 ^ n + y.toNat := by
  rw [BitVec.toNat_append, ← Nat.shiftLeft_add_eq_or_of_lt y.isLt, Nat.shiftLeft_eq]

/-- A bit of a word as a number. -/
theorem toNat_ofBool_getLsbD {n : Nat} (x : BitVec n) (i : Nat) : (BitVec.ofBool (x.getLsbD i)).toNat = x.toNat / 2 ^ i % 2 := by
  rw [BitVec.toNat_ofBool, BitVec.getLsbD, Nat.toNat_testBit]

/-- A move word is made of its fields and its destination (R213). -/
theorem mvWord_mvOfWord (w : W32) : mvWord (mvOfWord w) (w.extractLsb' 0 12) = w := by
  apply BitVec.eq_of_toNat_eq
  simp only [mvWord, mvOfWord, toNat_append_eq, toNat_ofBool_getLsbD, BitVec.extractLsb'_toNat, Nat.shiftRight_eq_div_pow]
  omega

/-- The instructions of a unit are those of its destination codes from port 4 up, one by one (R227 to R240). -/
def FromPort4 (unit : Nat) (fs : List (Mv → Instr)) : Prop :=
  ∀ m, fs.map (fun f => ((f m).mv?, (f m).dest?)) =
    (List.range fs.length).map fun k => (some m, some (BitVec.ofNat 12 (128 * unit + (4 + k))))

theorem FromPort4.code {unit port : Nat} {fs : List (Mv → Instr)} (hfs : FromPort4 unit fs) (hport : 4 ≤ port) {f : Mv → Instr}
    (hf : fs[port - 4]? = some f) (m : Mv) : (f m).mv? = some m ∧ (f m).dest? = some (BitVec.ofNat 12 (128 * unit + port)) := by
  obtain ⟨hk, rfl⟩ := List.getElem?_eq_some_iff.1 hf
  simpa [hk, Nat.add_sub_cancel' hport] using congrArg (·[port - 4]?) (hfs m)

theorem fromPort4_a (u : BitVec 1) : FromPort4 (4 + u.toNat) (aTriggers.map (· u)) := by
  intro m
  rcases BitVec.eq_zero_or_eq_one u with rfl | rfl <;> rfl

/-- Each unit's triggers stand in the order of their ports. -/
theorem code_of_triggerAt {unit port : Nat} {f : Mv → Instr} (hport : 4 ≤ port) (hf : triggerAt unit port = some f) (m : Mv) :
    (f m).mv? = some m ∧ (f m).dest? = some (BitVec.ofNat 12 (128 * unit + port)) := by
  unfold triggerAt at hf
  split at hf
  · exact (fromPort4_a 0).code hport (List.getElem?_map ▸ hf) m
  · exact (fromPort4_a 1).code hport (List.getElem?_map ▸ hf) m
  · exact FromPort4.code (unit := 0x06) (fun _ => rfl) hport hf m
  · exact FromPort4.code (unit := 0x07) (fun _ => rfl) hport hf m
  · exact FromPort4.code (unit := 0x08) (fun _ => rfl) hport hf m
  · exact FromPort4.code (unit := 0x09) (fun _ => rfl) hport hf m
  · exact FromPort4.code (unit := 0x0A) (fun _ => rfl) hport hf m
  · exact FromPort4.code (unit := 0x0B) (fun _ => rfl) hport hf m
  · split at hf
    · -- pgstate stands apart at port 0x30
      next h =>
      obtain rfl := beq_iff_eq.1 h
      cases hf
      exact ⟨rfl, rfl⟩
    · exact FromPort4.code (unit := 0x0C) (fun _ => rfl) hport hf m
  · exact FromPort4.code (unit := 0x0D) (fun _ => rfl) hport hf m
  · exact FromPort4.code (unit := 0x0E) (fun _ => rfl) hport hf m
  · exact FromPort4.code (unit := 0x0F) (fun _ => rfl) hport hf m
  · exact FromPort4.code (unit := 0x10) (fun _ => rfl) hport hf m
  · exact FromPort4.code (unit := 0x11) (fun _ => rfl) hport hf m
  · exact FromPort4.code (unit := 0x12) (fun _ => rfl) hport hf m
  · exact FromPort4.code (unit := 0x13) (fun _ => rfl) hport hf m
  · cases hf

/-- What a destination code names lies in it (R225). -/
def Names (code : BitVec 12) : Dest → Prop
  | .vreg _ => code.toNat / 128 ≤ 1
  | .sreg _ | .kreg _ => code.toNat / 128 = 2
  | .operand _ _ => code.toNat % 128 < 4
  | .trigger u p => 4 ≤ p ∧ 128 * u + p = code.toNat

theorem names_of_decodeDest {code : BitVec 12} {d : Dest} (h : decodeDest code = .ok d) : Names code d := by
  have hunit : (code.extractLsb' 7 5).toNat = code.toNat / 128 := by
    rw [BitVec.extractLsb'_toNat, Nat.shiftRight_eq_div_pow]
    omega
  have hport : (code.extractLsb' 0 7).toNat = code.toNat % 128 := by
    rw [BitVec.extractLsb'_toNat, Nat.shiftRight_zero]
  simp only [decodeDest, hunit, hport] at h
  split at h
  · cases h
    assumption
  · split at h
    · next h2 =>
      have h2 := beq_iff_eq.1 h2
      split at h
      · cases h
      · split at h <;> cases h <;> exact h2
    · split at h
      · cases h
      · split at h
        · split at h
          · cases h
            assumption
          · cases h
        · split at h
          · cases h
            exact ⟨by omega, Nat.div_add_mod _ _⟩
          · cases h

/-- The instruction of a destination code has that code and the fields given (R213, R225). -/
theorem code_of_instrOfDest {code : BitVec 12} {m : Mv} {i : Instr} (h : instrOfDest code m = some i) :
    i.mv? = some m ∧ i.dest? = some code := by
  have hcode : code.toNat < 4096 := code.isLt
  unfold instrOfDest at h
  cases hd : decodeDest code with
  | error e => simp [hd] at h
  | ok d =>
    have hnames := names_of_decodeDest hd
    rw [hd] at h
    cases d with
    | trigger u p =>
      obtain ⟨hport, hnumber⟩ := hnames
      obtain ⟨f, hf, rfl⟩ := Option.map_eq_some_iff.1 h
      simpa [hnumber] using code_of_triggerAt hport hf m
    | _ =>
      -- a register's or operand port's code is put together from the parts that name it
      cases h
      refine ⟨rfl, congrArg some (BitVec.eq_of_toNat_eq ?_)⟩
      simp only [Names] at hnames
      simp only [toNat_append_eq, BitVec.extractLsb'_toNat, Nat.shiftRight_eq_div_pow, BitVec.toNat_ofNat]
      omega

/-- To execute a decoded instruction is to issue the move of the word it was decoded from. -/
theorem exec_of_decodeMove {word : W32} {i : Instr} (h : decodeMove word = .ok i) {s : State} {w : Workgroup} {g : Group}
    (hleader : s.leader = some (w, g)) : exec i s = (issueLone s w g word).outcome s := by
  unfold decodeMove at h
  split at h
  · cases h
  · split at h
    · next hi =>
      cases h
      obtain ⟨hmv, hdest⟩ := code_of_instrOfDest hi
      rw [exec_of_move i _ _ s hmv hdest, issueOne, hleader]
      dsimp only
      rw [mvWord_mvOfWord]
    · cases h

/-! ### The step that issues it (R192; log 1) -/

/-- When it is the turn of issue, the first group of the order whose slot issues makes the step. -/
theorem step_of_issueSlot {s u : State} {w : Workgroup} {g : Group} {rest : List (Workgroup × Group)} (hagenda : s.agenda = [])
    (hturn : s.clock % 2 = 0) (hphase : firstTry (phaseTries (s.pass 1)) (s.pass 1) = none) (horder : (s.pass 1).order = (w, g) :: rest)
    (hslot : issueSlot trigTable (s.pass 1) w g = .done u) : step s = .next u := by
  rw [step_nil s hagenda]
  simp only [autoStep, hphase, hturn, beq_self_eq_true, if_true, State.issueStep, horder, firstIssue, hslot, Option.map_some]

/-- Settles O5: the issue of the bundle at the program counter is that of the decoded instruction, and the slot issues it alone or with
the groups beside the leader. -/
theorem stepRunsTheDecodedInstruction : Obligations.StepRunsTheDecodedInstruction := by
  intro s t w g rest l who word i u hagenda hturn hphase horder hw hg hl hwho hcandidate hstop hpad hfetch hdecode hleads hissue
  have hexec : exec i t = .next u := by
    rw [exec_of_decodeMove hdecode hleads.leader, hissue]
    rfl
  have hleader : issueGroup trigTable (s.pass 1) (refOf w g) = .done u := by
    rw [issueGroup_bundle hw hg hl hwho hcandidate hstop hpad hfetch, ← hissue]
    simp only [issueLone, hleads.launch, hleads.who]
  have hnext := nextBundle_of_fetch hl hwho hstop hpad hfetch
  have halone := fun hbeside => (step_of_issueSlot hagenda hturn hphase horder (issueSlot_alone hleader hnext hbeside)).trans hexec.symm
  refine ⟨hexec, ⟨halone, fun hbeside => ?_⟩, fun hmates => halone (by rw [hmates]; rfl)⟩
  exact step_of_issueSlot hagenda hturn hphase horder (issueSlot_beside hleader hnext hbeside)

end Sys2Proof.Claims
end

section
/-!
PROOF. Image: what a saved group part holds of the guard registers (R403), beside what a guard register reads (R204).
-/

namespace Sys2Proof.Claims

open Sys2Proof.Machine

theorem sect_length (n : Nat) (ws : List W64) : (sect n ws).length = n := by
  rw [sect, List.length_append, List.length_take, List.length_replicate]
  omega

/-- A section that its words fill is those words. -/
theorem sect_of_length {n : Nat} {ws : List W64} (h : ws.length = n) : sect n ws = ws := by
  simp [sect, ← h]

/-- Behind the header of a group part stand the scalar and the guard registers (R403). -/
theorem groupImage_registers (s : State) (l : Launch) (g : Group) (draw : Nat) : ∃ header tail : List W64, header.length = 32 ∧
    groupImage s l g draw = header ++ (sect 64 g.sregs ++ (sect 16 g.kregs ++ tail)) := by
  simp only [groupImage, imageBody, List.append_assoc]
  exact ⟨_, _, sect_length _ _, rfl⟩

/-- Words 0x60 to 0x6F of a group part are the guard registers as they are stored, with the bits at or above the width. -/
theorem groupImage_guard (s : State) (l : Launch) (g : Group) (draw : Nat) {i : Nat} (hlen : g.kregs.length = 16) (hi : i < 16) :
    (groupImage s l g draw)[0x60 + i]? = g.kregs[i]? := by
  obtain ⟨header, tail, hheader, himage⟩ := groupImage_registers s l g draw
  rw [himage, sect_of_length hlen, ← List.append_assoc, List.getElem?_append_right, List.getElem?_append_left] <;>
    simp [hheader, sect_length, hlen, hi]

/-- A group of eight lanes whose guard registers have a bit for each of 64. -/
def guardsBeyondWidth : Group :=
  { newGroup (loadLaunch 0) ⟨0, 0⟩ 0 0 (0, 0, 0) ⟨0, 0, 0, 0⟩ 0 0 0 with kregs := List.replicate 16 (fullMask 64) }

/-- Its image has all 64 bits of k0, which reads as its low eight. -/
theorem not_imageRule : ¬ ImageRule := by
  rintro ⟨hpart, -⟩
  obtain ⟨-, -, hregisters⟩ := hpart State.reset (loadLaunch 0) guardsBeyondWidth 0
  obtain ⟨-, hguards⟩ := hregisters rfl rfl
  have hk0 := hguards 0 (by decide)
  rw [groupImage_guard _ _ _ _ rfl (by decide)] at hk0
  exact absurd hk0 (by decide)

/-- Refutes O53: ImageRule has no premise that keeps the stored guard registers below the group's width, and a save writes them as they
are stored where a read masks them. -/
theorem not_workgroupSteps : ¬ Obligations.WorkgroupSteps := by
  rintro ⟨-, -, -, -, -, -, -, -, himage, -⟩
  exact not_imageRule himage

end Sys2Proof.Claims
end
